-- ==== Sys2Proof/Word.lean ====
section
/-! DEFINITION. The machine's words: a 64-bit register value, a byte, and the plainest operations on bit fields. -/
namespace Sys2Proof

/-- A register value: 64 bits (spec 02, R20). -/
abbrev Word := BitVec 64

/-- One byte of memory (spec 00, R2). -/
abbrev Byte := BitVec 8

/-- Bits [hi:lo] of a natural number, the range including both ends (spec 00, R2). -/
def bits (w hi lo : Nat) : Nat := w / 2 ^ lo % 2 ^ (hi + 1 - lo)

/-- Bit n of a natural number. -/
def bit (w n : Nat) : Bool := w / 2 ^ n % 2 == 1

/-- A Boolean read as 0 or 1. -/
def b2n (b : Bool) : Nat := if b then 1 else 0

/-- The n-bit pattern `x` read as two's complement (spec 00, Table 0-1 `sext`). -/
def sextNat (n x : Nat) : Int := if x % 2 ^ n < 2 ^ (n - 1) then (x % 2 ^ n : Nat) else (x % 2 ^ n : Nat) - (2 ^ n : Nat)

/-- An integer taken modulo 2^n as a natural number (spec 00, Table 0-1 `wrap`). -/
def wrapInt (n : Nat) (x : Int) : Nat := (x % (2 ^ n : Nat)).toNat

/-- The 64-bit word of an integer, modulo 2^64. -/
def wordOfInt (x : Int) : Word := BitVec.ofNat 64 (wrapInt 64 x)

/-- The 64-bit word of a natural number, modulo 2^64. -/
def wordOf (x : Nat) : Word := BitVec.ofNat 64 x

/-- The n low bits of `x`, as a word sign-extended from bit n - 1. -/
def sextWord (n x : Nat) : Word := wordOfInt (sextNat n x)

end Sys2Proof
end

