-- ==== Sys2Proof/Config.lean ====
section
/-! DEFINITION. What an implementation fixes and the values that the spec leaves open, as constants without a body (DESIGN CHOICE, log 6). -/

namespace Sys2Proof

/-- The n-th value that the spec leaves open, as a number of any size (DESIGN CHOICE, log 6). -/
opaque Config.free : Nat → Nat

/-- The four words of the device secret (R252) (DESIGN CHOICE, log 6). -/
opaque Config.secret : Nat → Word

/-- The governor's estimate of board power in W at its n-th pass, with FSTEP and REQ of each cluster and the fabric's step (R246)
(DESIGN CHOICE, log 12). -/
opaque Config.boardPower : Nat → List (Nat × Nat) → Nat → Nat

/-- The governor's projection of a frame's finish in always-on periods at its n-th pass, from what it measured, with a cluster at an
FSTEP and a REQ (R193) (DESIGN CHOICE, log 12). -/
opaque Config.frameFinish : Nat → List Nat → Nat → Nat → Nat

/-- The place on a render target of width × height tiles of a vertex with the clip-space coordinates given (128 bits): x, y and
their common denominator less 1, in pixels (R166, R371) (DESIGN CHOICE, log 11). -/
opaque Config.place : Nat → Nat → Nat → Int × Int × Nat

end Sys2Proof
end

