-- ==== Sys2Proof/Syntax.lean ====
section
/-! DEFINITION. The abstract syntax: one constructor of `Instr` per row of spec/opcode_table.json: the encoded
instructions of spec 11 (Tables 11-6 and 11-7, R257), and the steps of the device's other agents (spec 95), some with
operands that name the unit, the object or the value concerned. -/

namespace Sys2Proof

/-- A general register g0 to g63 (R20). -/
abbrev Reg := Fin 64
/-- A uniform register w0 to w31 (R26). -/
abbrev UReg := Fin 32
/-- A predicate p0 to p15 (R268). -/
abbrev Pred := Fin 16
/-- A tile handle h0 to h15 (R345). -/
abbrev Handle := Fin 16
/-- A join register j0 to j7 (R38). -/
abbrev JReg := Fin 8

/-- Operand hints (R262). -/
inductive Hint where | none | keep | last | lastEnd
  deriving DecidableEq, Repr
/-- Element widths, code WID (Table 11-3). -/
inductive Wid where | w8 | w16 | w32 | w64
  deriving DecidableEq, Repr
/-- Floating types, code FT (Table 11-3). -/
inductive Ft where | f32 | f64 | f16 | bf16
  deriving DecidableEq, Repr
/-- Conversion types, code TY (Table 11-3); the names follow the table. -/
inductive Ty where
  | s8 | s16 | s32 | s64 | n8 | n16 | n32 | n64 | f16 | bf16 | f32 | f64
  | e4m3 | e5m2 | e3m2 | e2m3 | e2m1 | s4 | n4
  deriving DecidableEq, Repr
/-- Compare conditions (Table 11-3). -/
inductive Cond where | eq | ne | lt | le | gt | ge | un | or
  deriving DecidableEq, Repr
/-- Branch hints (R264). -/
inductive BHint where | none | likely | unlikely | uniform
  deriving DecidableEq, Repr
/-- Rounding modes (R120, R257). -/
inductive RMode where | rn | rz | ru | rd
  deriving DecidableEq, Repr
/-- Address spaces a memory instruction names (R56, R309). -/
inductive Space where | gl | lo | pv
  deriving DecidableEq, Repr
/-- The two spaces of atomics and tile transfers (R315, R356). -/
inductive ASpace where | gl | lo
  deriving DecidableEq, Repr
/-- Load kinds, field Q (R311). -/
inductive LdKind where | plain | acq | fe | fec
  deriving DecidableEq, Repr
/-- Store kinds, field QS (R312). -/
inductive StKind where | plain | rel | fill
  deriving DecidableEq, Repr
/-- Orders of atomics, field ORD (R315). -/
inductive AOrd where | none | acq | rel | ar
  deriving DecidableEq, Repr
/-- Atomic operations, field OP (Table 13-3). -/
inductive AtomOp where
  | add | addF | minS | minN | maxS | maxN | and | or | xor | exch | cas
  deriving DecidableEq, Repr
/-- Prefetch levels (R340). -/
inductive PfLevel where | cc | sc | tr
  deriving DecidableEq, Repr
/-- Matrix element formats, bits [3:0] of FMT (Table 5-7). -/
inductive Elem where
  | fp32 | fp16 | bf16 | e4m3 | e5m2 | e3m2 | e2m3 | e2m1 | int8 | uint8 | int4 | uint4 | int16
  deriving DecidableEq, Repr
/-- Key kinds of mkey and mexcl (R183). -/
inductive KKind where | raw | f64 | f32 | f32x2 | f16 | f16x4 | bf16 | bf16x4
  deriving DecidableEq, Repr

/-- Format A with X = WID (R259, R276). -/
structure Op3 where
  (wid : Wid) (hb : Hint) (b : Reg) (ha : Hint) (a : Reg) (d : Reg)
  deriving DecidableEq, Repr
/-- Format A with X = FT (R280). -/
structure Op3F where
  (ft : Ft) (hb : Hint) (b : Reg) (ha : Hint) (a : Reg) (d : Reg)
  deriving DecidableEq, Repr
/-- Format A with three g registers and no code. -/
structure Op3X where
  (hb : Hint) (b : Reg) (ha : Hint) (a : Reg) (d : Reg)
  deriving DecidableEq, Repr
/-- Two g registers, A read and D written. -/
structure Op2 where
  (ha : Hint) (a : Reg) (d : Reg)
  deriving DecidableEq, Repr
/-- Two source registers, no destination. -/
structure OpAB where
  (hb : Hint) (b : Reg) (ha : Hint) (a : Reg)
  deriving DecidableEq, Repr
/-- One source register. -/
structure Op1 where
  (ha : Hint) (a : Reg)
  deriving DecidableEq, Repr
/-- Format U with a WID (R278, R304). -/
structure Op2W where
  (wid : Wid) (ha : Hint) (a : Reg) (d : Reg)
  deriving DecidableEq, Repr
/-- Format U with an FT (R282, R283, R288). -/
structure Op2F where
  (ft : Ft) (ha : Hint) (a : Reg) (d : Reg)
  deriving DecidableEq, Repr
/-- Format I (R279). -/
structure OpI where
  (imm : BitVec 10) (ha : Hint) (a : Reg) (d : Reg)
  deriving DecidableEq, Repr
/-- Major 0x1E, a shift by an immediate count (R279). -/
structure OpSh where
  (wid : Wid) (cnt : Fin 64) (ha : Hint) (a : Reg) (d : Reg)
  deriving DecidableEq, Repr
/-- Format L (R279). -/
structure OpL where
  (imm : BitVec 16) (q : Fin 4) (d : Reg)
  deriving DecidableEq, Repr
/-- Format K (R284). -/
structure OpCmp where
  (pd : Pred) (cond : Cond) (b : Reg) (hb : Hint) (a : Reg) (ha : Hint) (w : Bool)
  deriving DecidableEq, Repr
/-- cvt (R287). -/
structure OpCvt where
  (dst : Ty) (src : Ty) (ha : Hint) (a : Reg) (d : Reg)
  deriving DecidableEq, Repr
/-- plop (R286). -/
structure OpPlop where
  (lut : BitVec 8) (pc : Pred) (pb : Pred) (pa : Pred) (pd : Pred)
  deriving DecidableEq, Repr
/-- bra, format B (R291). -/
structure OpBra where
  (off : BitVec 17) (neg : Bool) (p : Pred) (bh : BHint)
  deriving DecidableEq, Repr
/-- call, format C (R292). -/
structure OpCall where
  (off : BitVec 18) (d : Reg)
  deriving DecidableEq, Repr
/-- jmp (R293). -/
structure OpJmp where
  (bh : BHint) (ha : Hint) (a : Reg)
  deriving DecidableEq, Repr
/-- jset (R296). -/
structure OpJset where
  (n : JReg) (ha : Hint) (a : Reg)
  deriving DecidableEq, Repr
/-- jwait (R298). -/
structure OpJwait where
  (n : JReg) (p : Pred)
  deriving DecidableEq, Repr
/-- shfli (R301). -/
structure OpShfli where
  (wid : Wid) (v : Fin 64) (ha : Hint) (a : Reg) (d : Reg)
  deriving DecidableEq, Repr
/-- bcast (R302). -/
structure OpBcast where
  (p : Fin 64) (ha : Hint) (a : Reg) (d : Reg)
  deriving DecidableEq, Repr
/-- vote (R303). -/
structure OpVote where
  (a : Pred) (d : Pred)
  deriving DecidableEq, Repr
/-- ballot (R303). -/
structure OpBallot where
  (n : Pred) (d : Reg)
  deriving DecidableEq, Repr
/-- reduce (R305). -/
structure OpRed where
  (ty : Ty) (ha : Hint) (a : Reg) (d : Reg)
  deriving DecidableEq, Repr
/-- xmov gD, wA (R306). -/
structure OpXg where
  (ha : Hint) (a : UReg) (d : Reg)
  deriving DecidableEq, Repr
/-- xmov wD, gA (R306). -/
structure OpXw where
  (ha : Hint) (a : Reg) (d : UReg)
  deriving DecidableEq, Repr
/-- Uniform majors 0x3D and 0x3E (R307). -/
structure OpU3 where
  (hb : Hint) (b : UReg) (ha : Hint) (a : UReg) (d : UReg)
  deriving DecidableEq, Repr
/-- Uniform add immediate (R307). -/
structure OpUI where
  (imm : BitVec 10) (ha : Hint) (a : UReg) (d : UReg)
  deriving DecidableEq, Repr
/-- Uniform movk (R307). -/
structure OpUL where
  (imm : BitVec 16) (q : Fin 4) (d : UReg)
  deriving DecidableEq, Repr
/-- Sized loads, format M (R309, R310). -/
structure OpLd where
  (off : BitVec 6) (q : LdKind) (sp : Space) (ha : Hint) (a : Reg) (d : Reg)
  deriving DecidableEq, Repr
/-- ldq: the destination pair is registers 2d and 2d + 1 (R310). -/
structure OpLdq where
  (off : BitVec 6) (q : LdKind) (sp : Space) (ha : Hint) (a : Reg) (d : Fin 32)
  deriving DecidableEq, Repr
/-- Sized stores, format N (R312). -/
structure OpSt where
  (off : BitVec 4) (q : StKind) (hs : Hint) (sp : Space) (ha : Hint) (a : Reg) (s : Reg)
  deriving DecidableEq, Repr
/-- stq: the source pair is registers 2s and 2s + 1 (R312). -/
structure OpStq where
  (off : BitVec 4) (q : StKind) (hs : Hint) (sp : Space) (ha : Hint) (a : Reg) (s : Fin 32)
  deriving DecidableEq, Repr
/-- ldrl: the destination group is registers 4d to 4d + 3 (R314). -/
structure OpLdrl where
  (sp : Space) (hb : Hint) (b : Reg) (ha : Hint) (a : Reg) (d : Fin 16)
  deriving DecidableEq, Repr
/-- atom and ared, format V (R315). -/
structure OpAtom where
  (ord : AOrd) (sp : ASpace) (w64 : Bool) (op : AtomOp) (ha : Hint) (a : Reg) (hd : Hint) (d : Reg)
  deriving DecidableEq, Repr
/-- waitm (R325). -/
structure OpHA where
  (ha : Hint) (a : Reg) (h : Handle)
  deriving DecidableEq, Repr
/-- pop and push, format F: n is the register count less one (R326). -/
structure OpFifo where
  (n : Fin 32) (pd : Pred) (f : Fin 16) (hs : Hint) (d : Reg)
  deriving DecidableEq, Repr
/-- qpost: the packet is registers 8b to 8b + 7 (R329). -/
structure OpQpost where
  (hb : Hint) (b : Fin 8) (ha : Hint) (a : Reg) (d : Reg)
  deriving DecidableEq, Repr
/-- copy: the packet is registers 8a to 8a + 7 (R330). -/
structure OpCopy where
  (fs : Bool) (ha : Hint) (a : Fin 8)
  deriving DecidableEq, Repr
/-- permit (R331). -/
structure OpPermit where
  (hb : Hint) (b : Reg) (ha : Hint) (a : Reg) (h : Handle)
  deriving DecidableEq, Repr
/-- smov (R336). -/
structure OpSmov where
  (n : Fin 14) (d : Reg)
  deriving DecidableEq, Repr
/-- pref (R340): sp is never local. -/
structure OpPref where
  (off : BitVec 6) (lvl : PfLevel) (sp : Space) (ha : Hint) (a : Reg)
  deriving DecidableEq, Repr
/-- talloc (R350). -/
structure OpTalloc where
  (z : Bool) (ha : Hint) (a : Reg) (h : Handle)
  deriving DecidableEq, Repr
/-- tld and tst (R356). -/
structure OpTmem where
  (sp : ASpace) (fs : Bool) (ha : Hint) (a : Reg) (h : Handle)
  deriving DecidableEq, Repr
/-- tcvt (R357). -/
structure OpTcvt where
  (mode : RMode) (t : Elem) (fs : Bool) (ta : Handle) (td : Handle)
  deriving DecidableEq, Repr
/-- tqry: A is written (R355). -/
structure OpTqry where
  (a : Reg) (h : Handle)
  deriving DecidableEq, Repr
/-- scaleacc (R365): ua and ub say that sA and sB are UE4M3. -/
structure OpScale where
  (i32 : Bool) (mode : RMode) (ub : Bool) (ua : Bool) (fs : Bool) (ha : Hint) (a : Reg) (ta : Handle) (td : Handle)
  deriving DecidableEq, Repr
/-- tdrain.h (Table 14-5). -/
structure OpDrainH where
  (fs : Bool) (ta : Handle) (td : Handle)
  deriving DecidableEq, Repr
/-- tdrain.peer (Table 14-5). -/
structure OpDrainP where
  (fs : Bool) (ha : Hint) (a : Reg) (ta : Handle)
  deriving DecidableEq, Repr
/-- tdrain.byp (Table 14-5). -/
structure OpDrainB where
  (fs : Bool) (ta : Handle)
  deriving DecidableEq, Repr
/-- mma, dense or 16-of-32 (R360). -/
structure OpMma where
  (sparse : Bool) (el : Elem) (n : JReg) (hb : Hint) (b : Reg) (ta : Handle) (td : Handle)
  deriving DecidableEq, Repr
/-- mma, 8-of-32 (R360). -/
structure OpMma8 where
  (el : Elem) (n : JReg) (hb : Hint) (b : Reg) (ta : Handle) (td : Handle)
  deriving DecidableEq, Repr
/-- deriv (R374). -/
structure OpDeriv where
  (ft : Ft) (fine : Bool) (y : Bool) (ha : Hint) (a : Reg) (d : Reg)
  deriving DecidableEq, Repr
/-- export (R379). -/
structure OpExport where
  (n : Fin 8) (ha : Hint) (a : Reg)
  deriving DecidableEq, Repr
/-- infq (R381). -/
structure OpInfq where
  (fs : Bool) (hb : Hint) (b : Reg) (ha : Hint) (a : Reg) (d : Reg)
  deriving DecidableEq, Repr
/-- bld (R389). -/
structure OpBld where
  (fs : Bool) (ha : Hint) (a : Reg)
  deriving DecidableEq, Repr
/-- pure (R391). -/
structure OpPure where
  (off : BitVec 20) (t : Fin 16)
  deriving DecidableEq, Repr
/-- mkey (R392). -/
structure OpMkey where
  (kind : KKind) (cls : Fin 8) (ha : Hint) (a : Reg)
  deriving DecidableEq, Repr
/-- mexcl (R392). -/
structure OpMexcl where
  (kind : KKind) (ha : Hint) (a : Reg)
  deriving DecidableEq, Repr
/-- mprobe: p is the length less one, D starts at register 2d (R393). -/
structure OpMprobe where
  (p : Fin 8) (t : Fin 16) (d : Fin 32)
  deriving DecidableEq, Repr
/-- mstore: p is the length less one, A starts at register 2a (R394). -/
structure OpMstore where
  (p : Fin 8) (t : Fin 16) (ha : Hint) (a : Fin 32)
  deriving DecidableEq, Repr
/-- 16-bit forms with two registers (R267). -/
structure OpS where
  (a : Fin 32) (d : Reg)
  deriving DecidableEq, Repr
/-- 16-bit forms with an immediate (R267). -/
structure OpSI where
  (i : BitVec 5) (d : Reg)
  deriving DecidableEq, Repr

/-- PCIe AtomicOps that the device completes (Table 9-3). -/
inductive HostAtom where | fetchAdd | swap | cas
  deriving DecidableEq, Repr
/-- Where an ECC error is detected (R454, R457, R463, R480). -/
inductive EccSite where
  | device (pa : Nat) | line (pa : Nat) | granule (cl off : Nat) | chunk (core k : Nat)
  | registry (pa : Nat) | queueDesc (q : Nat) | memoWay (cl t e : Nat) | metadata (pa : Nat)
  deriving DecidableEq, Repr
/-- What a start finds (R249): the units whose step fails, as an outside input. -/
structure StartTrial where
  (identOk : Bool) (trimFail : List Nat) (nodeFail : List Nat) (sliceFail : List Nat) (channelFail : List Nat)
  (metadataOk : Bool) (hostOk : Bool) (coreFail : List Nat) (bankFail : List Nat)
  (builderFail : List Nat) (transformFail : List Nat) (geomFail : List Nat) (memoFail : List Nat)
  deriving DecidableEq, Repr

/-- The instructions and steps of the Tilaz 960: one constructor per row of spec/opcode_table.json. Rows
with operands stand first. A step without operands acts on whatever is due in the state when it is performed; a Scaiq
command reads the mailbox. -/
inductive Instr where
  /-- ADD (R276): Element-wise wrapping integer add of A and B into D. -/
  | add (o : Op3)
  /-- SUB (R276): Element-wise wrapping integer subtract. -/
  | sub (o : Op3)
  /-- MUL (R276): Element-wise wrapping integer multiply. -/
  | mul (o : Op3)
  /-- MULHI_S (R276): High half of the signed product. -/
  | mulhiS (o : Op3)
  /-- MULHI_N (R276): High half of the unsigned product. -/
  | mulhiN (o : Op3)
  /-- ADDSAT_S (R276): Signed saturating add. -/
  | addsatS (o : Op3)
  /-- ADDSAT_N (R276): Unsigned saturating add. -/
  | addsatN (o : Op3)
  /-- SUBSAT_S (R276): Signed saturating subtract. -/
  | subsatS (o : Op3)
  /-- SUBSAT_N (R276): Unsigned saturating subtract. -/
  | subsatN (o : Op3)
  /-- MIN_S (R276): Signed element minimum. -/
  | minS (o : Op3)
  /-- MIN_N (R276): Unsigned element minimum. -/
  | minN (o : Op3)
  /-- MAX_S (R276): Signed element maximum. -/
  | maxS (o : Op3)
  /-- MAX_N (R276): Unsigned element maximum. -/
  | maxN (o : Op3)
  /-- AND (R276): Bitwise and. -/
  | andOp (o : Op3)
  /-- OR (R276): Bitwise or; also the 32-bit form of mov. -/
  | orOp (o : Op3)
  /-- XOR (R276): Bitwise exclusive or. -/
  | xor (o : Op3)
  /-- ANDN (R276): A and not B. -/
  | andn (o : Op3)
  /-- SHL (R276): Logical shift left by register count, zero at or above width. -/
  | shl (o : Op3)
  /-- SHR (R276): Logical shift right by register count. -/
  | shr (o : Op3)
  /-- SAR (R276): Arithmetic shift right with count clamped to width minus one. -/
  | sar (o : Op3)
  /-- ROTL (R276): Rotate left by count mod width. -/
  | rotl (o : Op3)
  /-- BFE_S (R277): Signed bit-field extract. -/
  | bfeS (o : Op3)
  /-- BFE_N (R277): Unsigned bit-field extract. -/
  | bfeN (o : Op3)
  /-- BFI (R277): Bit-field insert into D. -/
  | bfi (o : Op3)
  /-- MADD (R276): Wrapping multiply-add into D. -/
  | madd (o : Op3)
  /-- SEL (R285): Writes A or B by the guard for every thread of the group. -/
  | sel (o : Op3X)
  /-- POPC (R278): Population count per element. -/
  | popc (o : Op2W)
  /-- CLZ (R278): Count leading zeros per element. -/
  | clz (o : Op2W)
  /-- CTZ (R278): Count trailing zeros per element. -/
  | ctz (o : Op2W)
  /-- BREV (R278): Bit reverse per element. -/
  | brev (o : Op2W)
  /-- ADD_IMM (R279): 64-bit add of a signed 10-bit immediate. -/
  | addImm (o : OpI)
  /-- AND_IMM (R279): 64-bit and with a sign-extended immediate. -/
  | andImm (o : OpI)
  /-- SHL_IMM (R279): Shift left by immediate count. -/
  | shlImm (o : OpSh)
  /-- SHR_IMM (R279): Logical shift right by immediate count. -/
  | shrImm (o : OpSh)
  /-- SAR_IMM (R279): Arithmetic shift right by immediate count. -/
  | sarImm (o : OpSh)
  /-- ROTL_IMM (R279): Rotate left by immediate count. -/
  | rotlImm (o : OpSh)
  /-- MOVZ (R279): Writes a 16-bit immediate at quarter q, zeroing the rest. -/
  | movz (o : OpL)
  /-- MOVK (R279): Replaces one 16-bit quarter of D. -/
  | movk (o : OpL)
  /-- ADD_F (R280): Floating-point add rounded once. -/
  | addF (o : Op3F)
  /-- SUB_F (R280): Floating-point subtract. -/
  | subF (o : Op3F)
  /-- MUL_F (R280): Floating-point multiply. -/
  | mulF (o : Op3F)
  /-- FMA (R280): Fused multiply-add into D with one rounding. -/
  | fma (o : Op3F)
  /-- MIN_F (R280): Floating-point minimumNumber. -/
  | minF (o : Op3F)
  /-- MAX_F (R280): Floating-point maximumNumber. -/
  | maxF (o : Op3F)
  /-- CLASS (R282): Writes a one-hot class mask per element. -/
  | classOp (o : Op2F)
  /-- RND (R283): Rounds to an integral value under the mode. -/
  | rnd (o : Op2F)
  /-- CMP_S (R284): Signed integer compare into a predicate. -/
  | cmpS (o : OpCmp)
  /-- CMP_N (R284): Unsigned integer compare into a predicate. -/
  | cmpN (o : OpCmp)
  /-- CMP_F32_F64 (R284): FP32 or FP64 compare into a predicate. -/
  | cmpF32F64 (o : OpCmp)
  /-- CMP_F16_BF16 (R284): FP16 or BF16 compare into a predicate. -/
  | cmpF16Bf16 (o : OpCmp)
  /-- CVT (R287): Converts element 0 between formats. -/
  | cvt (o : OpCvt)
  /-- RCP (R288): Log-domain reciprocal. -/
  | rcp (o : Op2F)
  /-- SQRT (R288): Log-domain square root. -/
  | sqrt (o : Op2F)
  /-- RSQRT (R288): Log-domain reciprocal square root. -/
  | rsqrt (o : Op2F)
  /-- LOG2 (R288): Base-2 logarithm via the log domain. -/
  | log2 (o : Op2F)
  /-- EXP2 (R288): Base-2 exponential via the log domain. -/
  | exp2 (o : Op2F)
  /-- TOLOG (R289): Converts element 0 to a log-domain word. -/
  | tolog (o : Op2F)
  /-- FROMLOG (R289): Converts a log-domain word to a float. -/
  | fromlog (o : Op2F)
  /-- LSQRT (R290): Square root of a log-domain word. -/
  | lsqrt (o : Op2)
  /-- LRCP (R290): Reciprocal of a log-domain word. -/
  | lrcp (o : Op2)
  /-- LMUL (R290): Product of two log-domain words. -/
  | lmul (o : Op3X)
  /-- LDIV (R290): Quotient of two log-domain words. -/
  | ldiv (o : Op3X)
  /-- LPOW (R290): Log-domain word raised to an FP32 power. -/
  | lpow (o : Op3X)
  /-- PLOP (R286): Three-input predicate truth-table operation. -/
  | plop (o : OpPlop)
  /-- BRA (R291): Relative branch guarded by P and N; ends the clause. -/
  | bra (o : OpBra)
  /-- CALL (R292): Writes the return address and branches. -/
  | call (o : OpCall)
  /-- JMP (R293): Indirect jump to A, alias ret. -/
  | jmp (o : OpJmp)
  /-- JSET (R296): Declares a join register's expected mask. -/
  | jset (o : OpJset)
  /-- JARRIVE (R297): Records arrivals of participants on a join. -/
  | jarrive (n : JReg)
  /-- JWAIT (R298): Blocks on an Open join and writes its status. -/
  | jwait (o : OpJwait)
  /-- SHFL (R300): Cross-lane shuffle by register flat index. -/
  | shfl (o : Op3)
  /-- SHFLI_IDX (R301): Immediate shuffle reading position v. -/
  | shfliIdx (o : OpShfli)
  /-- SHFLI_UP (R301): Immediate shuffle from index minus v. -/
  | shfliUp (o : OpShfli)
  /-- SHFLI_DOWN (R301): Immediate shuffle from index plus v. -/
  | shfliDown (o : OpShfli)
  /-- SHFLI_XOR (R301): Immediate shuffle from index xor v. -/
  | shfliXor (o : OpShfli)
  /-- BCAST (R302): Broadcasts A of gang position p. -/
  | bcast (o : OpBcast)
  /-- VOTE_ANY (R303): OR of participants' predicate. -/
  | voteAny (o : OpVote)
  /-- VOTE_ALL (R303): AND of participants' predicate. -/
  | voteAll (o : OpVote)
  /-- VOTE_UNI (R303): True when all participants' predicates are equal. -/
  | voteUni (o : OpVote)
  /-- BALLOT (R303): Mask of participant positions with the predicate true. -/
  | ballot (o : OpBallot)
  /-- MATCH (R304): Mask of participants with equal values. -/
  | matchOp (o : Op2W)
  /-- REDUCE_ADD (R305): Fixed-tree add reduction over the gang. -/
  | reduceAdd (o : OpRed)
  /-- REDUCE_MIN (R305): Fixed-tree min reduction. -/
  | reduceMin (o : OpRed)
  /-- REDUCE_MAX (R305): Fixed-tree max reduction. -/
  | reduceMax (o : OpRed)
  /-- XMOV_G (R306): Copies a uniform register into a g register. -/
  | xmovG (o : OpXg)
  /-- XMOV_W (R306): Gang-wide copy of the lowest participant's g register into a w register. -/
  | xmovW (o : OpXw)
  /-- ADD_U (R307): Uniform 64-bit add. -/
  | addU (o : OpU3)
  /-- SUB_U (R307): Uniform 64-bit subtract. -/
  | subU (o : OpU3)
  /-- AND_U (R307): Uniform and. -/
  | andU (o : OpU3)
  /-- OR_U (R307): Uniform or. -/
  | orU (o : OpU3)
  /-- XOR_U (R307): Uniform xor. -/
  | xorU (o : OpU3)
  /-- SHL_U (R307): Uniform shift left. -/
  | shlU (o : OpU3)
  /-- SHR_U (R307): Uniform shift right. -/
  | shrU (o : OpU3)
  /-- MUL_U (R307): Uniform multiply. -/
  | mulU (o : OpU3)
  /-- ADD_UIMM (R307): Uniform add of an immediate. -/
  | addUimm (o : OpUI)
  /-- MOVK_U (R307): Uniform movk. -/
  | movkU (o : OpUL)
  /-- LD_S8 (R310): Sign-extending byte load. -/
  | ldS8 (o : OpLd)
  /-- LD_N8 (R310): Zero-extending byte load. -/
  | ldN8 (o : OpLd)
  /-- LD_S16 (R310): Sign-extending 16-bit load. -/
  | ldS16 (o : OpLd)
  /-- LD_N16 (R310): Zero-extending 16-bit load. -/
  | ldN16 (o : OpLd)
  /-- LD_S32 (R310): Sign-extending 32-bit load. -/
  | ldS32 (o : OpLd)
  /-- LD_N32 (R310): Zero-extending 32-bit load. -/
  | ldN32 (o : OpLd)
  /-- LD_B64 (R310): 64-bit load, plain, acquire or consuming. -/
  | ldB64 (o : OpLd)
  /-- LDQ (R310): 16-byte load into an even register pair. -/
  | ldq (o : OpLdq)
  /-- ST_B8 (R312): Byte store, plain, release or fill. -/
  | stB8 (o : OpSt)
  /-- ST_B16 (R312): 16-bit store. -/
  | stB16 (o : OpSt)
  /-- ST_B32 (R312): 32-bit store. -/
  | stB32 (o : OpSt)
  /-- ST_B64 (R312): 64-bit store. -/
  | stB64 (o : OpSt)
  /-- STQ (R312): 16-byte store from an even register pair. -/
  | stq (o : OpStq)
  /-- LDRL (R314): Loads an FP6 block and realigns it to block-aligned layout. -/
  | ldrl (o : OpLdrl)
  /-- ATOM (R316): Atomic read-modify-write returning the old value. -/
  | atom (o : OpAtom)
  /-- ARED (R316): Atomic reduction returning no value. -/
  | ared (o : OpAtom)
  /-- TRAP (R334): Records a software trap with code c. -/
  | trap (c : BitVec 16)
  /-- BOBJ_ARRIVE (R321): Arrives at a barrier object. -/
  | bobjArrive (o : Op2)
  /-- BOBJ_EXPECT (R321): Arrives with an expect of bytes. -/
  | bobjExpect (o : Op3X)
  /-- BOBJ_INIT (R321): Initialises a barrier object. -/
  | bobjInit (o : OpAB)
  /-- WAITA_PHASE (R323): Blocks until a barrier object's phase changes. -/
  | waitaPhase (o : Op3X)
  /-- WAITA_GE (R323): Blocks until a global word is at least B. -/
  | waitaGe (o : Op3X)
  /-- WAITA_EQ (R323): Blocks until a global word equals B. -/
  | waitaEq (o : Op3X)
  /-- WAITM (R325): Blocks until chunk bitmap bits of a tile are set. -/
  | waitm (o : OpHA)
  /-- POP (R327): Pops an entry from a stage FIFO. -/
  | pop (o : OpFifo)
  /-- PUSH (R328): Pushes an entry onto a stage FIFO. -/
  | push (o : OpFifo)
  /-- QPOST (R329): Appends a packet to a queue. -/
  | qpost (o : OpQpost)
  /-- COPY (R330): Kicks a copy or gather to the core's request engine. -/
  | copy (o : OpCopy)
  /-- PERMIT (R331): Grants shuttle permits for chunks of a landing slot. -/
  | permit (o : OpPermit)
  /-- GROW (R332): Atomically raises the grid's team count. -/
  | grow (o : Op2)
  /-- SMOV (R336): Reads a special register. -/
  | smov (o : OpSmov)
  /-- MRD (R337): Reads a management register. -/
  | mrd (o : Op2)
  /-- MWR (R337): Writes a management register. -/
  | mwr (o : OpAB)
  /-- PREF (R340): Prefetches a line; never faults. -/
  | pref (o : OpPref)
  /-- TALLOC (R350): Allocates a tile to a handle from the reservation. -/
  | talloc (o : OpTalloc)
  /-- TFREE (R351): Unallocates a handle and later returns its chunks. -/
  | tfree (h : Handle)
  /-- THAND (R352): Offers a tile to a gang of the team. -/
  | thand (o : OpHA)
  /-- TACC (R352): Accepts the oldest matching tile offer. -/
  | tacc (o : OpHA)
  /-- TLD (R356): Loads a whole tile from memory. -/
  | tld (o : OpTmem)
  /-- TST (R356): Stores a whole tile to memory. -/
  | tst (o : OpTmem)
  /-- TZERO (R357): Zeroes a tile. -/
  | tzero (h : Handle)
  /-- TCVT (R357): Converts an FP32 tile into another element format. -/
  | tcvt (o : OpTcvt)
  /-- TQRY (R355): Writes the handle query word. -/
  | tqry (o : OpTqry)
  /-- SCALEACC (R365): Applies block scales to a partial-sum tile and adds into D. -/
  | scaleacc (o : OpScale)
  /-- TDRAIN_H (R366): Copies an accumulator tile into another tile. -/
  | tdrainH (o : OpDrainH)
  /-- TDRAIN_PEER (R367): Adds a tile into a keyed tile on another core. -/
  | tdrainPeer (o : OpDrainP)
  /-- TDRAIN_BYP (R368): Latches a tile as the next mma's A rows in self-test mode. -/
  | tdrainByp (o : OpDrainB)
  /-- MMA_FA (R361): Signs a join for a dense or 16-of-32 matrix multiply counted on flag A. -/
  | mmaFa (o : OpMma)
  /-- MMA_FB (R361): Signs a join for a dense or 16-of-32 matrix multiply counted on flag B. -/
  | mmaFb (o : OpMma)
  /-- MMA_SP8_FA (R361): Signs an 8-of-32 sparse matrix multiply on flag A. -/
  | mmaSp8Fa (o : OpMma8)
  /-- MMA_SP8_FB (R361): Signs an 8-of-32 sparse matrix multiply on flag B. -/
  | mmaSp8Fb (o : OpMma8)
  /-- EDGE (R372): Evaluates edge functions, barycentrics and depth at a pixel. -/
  | edge (o : Op3X)
  /-- INTERP_PERSP (R373): Perspective-correct attribute interpolation. -/
  | interpPersp (o : Op3X)
  /-- INTERP_LIN (R373): Linear attribute interpolation. -/
  | interpLin (o : Op3X)
  /-- INTERP_FLAT (R373): Flat attribute from vertex 0. -/
  | interpFlat (o : Op3X)
  /-- DERIV (R374): Quad derivative in x or y. -/
  | deriv (o : OpDeriv)
  /-- TEXS (R377): Samples a texture. -/
  | texs (o : Op3X)
  /-- TEXG (R377): Gathers four red texels. -/
  | texg (o : Op3X)
  /-- IMLD (R377): Loads an image texel. -/
  | imld (o : Op3X)
  /-- IMST (R377): Stores an image texel. -/
  | imst (o : Op3X)
  /-- EXPORT (R379): Exports a pixel to a render target of the current item. -/
  | exportOp (o : OpExport)
  /-- INFQ (R381): Enqueues an inference request. -/
  | infq (o : OpInfq)
  /-- RQBEGIN (R384): Pins a generation and starts a ray query. -/
  | rqbegin (o : Op2)
  /-- RQSET (R383): Sets the query descriptor. -/
  | rqset (o : Op1)
  /-- RQSTEP (R385): Traverses until a candidate or done. -/
  | rqstep (d : Reg)
  /-- RQCOMMIT (R386): Commits the current candidate. -/
  | rqcommit (d : Reg)
  /-- RQGET (R387): Reads a query field. -/
  | rqget (o : Op2)
  /-- RQREPORT (R386): Reports a hit distance for a box candidate. -/
  | rqreport (o : Op3X)
  /-- CARD (R388): Offers the thread to the carder with a key. -/
  | card (o : Op1)
  /-- BLD (R389): Submits a Loom command block. -/
  | bld (o : OpBld)
  /-- GPIN (R390): Pins the current generation for the context. -/
  | gpin (o : Op2)
  /-- GUNPIN (R390): Releases a context gpin pin. -/
  | gunpin (o : OpAB)
  /-- GQRY (R390): Reads generation state of a structure. -/
  | gqry (o : Op2)
  /-- PURE (R391): Opens a memo region. -/
  | pureOp (o : OpPure)
  /-- MKEY (R392): Folds a quantised operand into the region key. -/
  | mkey (o : OpMkey)
  /-- MEXCL (R392): Folds an excluded operand's descriptor. -/
  | mexcl (o : OpMexcl)
  /-- MPROBE (R393): Probes the memo table and jumps to the end clause on a hit. -/
  | mprobe (o : OpMprobe)
  /-- MSTORE (R394): Inserts the region result into the memo table. -/
  | mstore (o : OpMstore)
  /-- ADD16 (R267): 16-bit form of add.s64 D, D, A. -/
  | add16 (o : OpS)
  /-- SUB16 (R267): 16-bit form of sub.s64. -/
  | sub16 (o : OpS)
  /-- AND16 (R267): 16-bit form of and.b64. -/
  | and16 (o : OpS)
  /-- OR16 (R267): 16-bit form of or.b64. -/
  | or16 (o : OpS)
  /-- XOR16 (R267): 16-bit form of xor.b64. -/
  | xor16 (o : OpS)
  /-- MOV16 (R267): 16-bit register move with D different from A. -/
  | mov16 (o : OpS)
  /-- ADDI16 (R267): 16-bit add of a small signed immediate. -/
  | addi16 (o : OpSI)
  /-- MOVI16 (R267): 16-bit move of a small signed immediate. -/
  | movi16 (o : OpSI)
  /-- SHLI16 (R267): 16-bit shift left by immediate. -/
  | shli16 (o : OpSI)
  /-- SHRI16 (R267): 16-bit logical shift right by immediate. -/
  | shri16 (o : OpSI)
  /-- FADD16 (R267): 16-bit form of add.f32. -/
  | fadd16 (o : OpS)
  /-- FMUL16 (R267): 16-bit form of mul.f32. -/
  | fmul16 (o : OpS)
  /-- FSUB16 (R267): 16-bit form of sub.f32. -/
  | fsub16 (o : OpS)
  /-- HADD16 (R267): 16-bit form of add.4f16. -/
  | hadd16 (o : OpS)
  /-- HMUL16 (R267): 16-bit form of mul.4f16. -/
  | hmul16 (o : OpS)
  /-- SARI16 (R267): 16-bit arithmetic shift right by immediate. -/
  | sari16 (o : OpSI)
  /-- GUARD_PREFIX (R257): Guard prefix naming a possibly negated predicate. -/
  | guardPrefix (neg : Bool) (p : Pred)
  /-- MODE_PREFIX (R257): Rounding-mode and ftz prefix. -/
  | modePrefix (ftz : Bool) (m : RMode)
  /-- ISSUE_SELECTION (R153): Each front cycle the issue stage chooses a key and forms issue groups. -/
  | issueSelection (core : Nat)
  /-- MEMORY_ACCESS_PERFORMED (R95): An unperformed access is performed, releasing dependants and retiring undo entries. -/
  | memoryAccessPerformed (acc : Nat)
  /-- TRAP_ENTRY_QUEUE (R426): An instruction's trap entries enter the gang queue once causes are known and older accesses performed. -/
  | trapEntryQueue (gang : Nat)
  /-- TRAP_DELIVERY (R430): The head trap entry is delivered to the kernel or supervisor handler. -/
  | trapDelivery (gang : Nat)
  /-- ASYNC_TRAP_ENTRY (R449): An asynchronous engine cause enters the queue at the named threads' next instruction boundary. -/
  | asyncTrapEntry (th : Nat)
  /-- WAITA_RETEST (R324): Periodic re-test of a waita condition at least every 2,048 front cycles. -/
  | waitaRetest (th : Nat)
  /-- MATRIX_OPERATION_COMPLETION (R363): A matrix operation writes D and decrements each signer's flag. -/
  | matrixOperationCompletion (core : Nat)
  /-- PEER_DRAIN_ADD (R367): A peer-drain add arrives and is applied to the keyed destination tile. -/
  | peerDrainAdd (op : Nat)
  /-- COPY_COMPLETION (R216): A copy or gather operation completes, updating completion objects and its flag or CPLADDR. -/
  | copyCompletion (op : Nat)
  /-- CHUNK_PUSH_LANDING (R224): A shuttle lands a chunk, sets its bitmap bit and consumes the permit. -/
  | chunkPushLanding (op : Nat)
  /-- TRANSFORM_COMPLETION (R221): A transform operation completes with its CPLADDR add. -/
  | transformCompletion (op : Nat)
  /-- COPY_PACKET (R219): A request engine takes a copy packet from its queue. -/
  | copyPacket (q : Nat)
  /-- GATHER_PACKET (R219): A request engine takes a gather packet. -/
  | gatherPacket (q : Nat)
  /-- PLACEMENT (R146): A buffered record becomes resident once the actual resource check passes. -/
  | placement (core : Nat)
  /-- WALK_COMPLETION (R452): A page-table walk returns a translation or fault. -/
  | walkCompletion (acc : Nat)
  /-- PAGE_IN (R79): The paging service pages in a backed leaf. -/
  | pageIn (ctx va : Nat) (readOk writeOk : Bool)
  /-- SLICE_REQUEST (R86): A request arrives at a system-cache slice and is accepted or rejected. -/
  | sliceRequest (slice node stamp : Nat)
  /-- BANK_TRANSITION (R62): A bank completes a mode transition once not held. -/
  | bankTransition (cl bank : Nat)
  /-- GEOMETRY_BATCH (R166): A geometry engine assembles, culls and bins a batch after all vertex returns. -/
  | geometryBatch (frame batch : Nat)
  /-- BIN_WRITER_APPEND (R167): A bin writer appends a batch after the previous batch's token. -/
  | binWriterAppend (frame inst : Nat)
  /-- RASTER_PHASE_START (R176): The raster phase begins and the frame condition is evaluated. -/
  | rasterPhaseStart (frame : Nat)
  /-- COARSE_RASTER_TILE (R168): The coarse rasteriser emits fragment work for a tile. -/
  | coarseRasterTile (frame inst : Nat)
  /-- OUTPUT_MERGE_EXPORT (R169): Output merge applies an export after earlier items retire. -/
  | outputMergeExport (frame exp : Nat)
  /-- FRAME_COMPLETION (R178): A frame writes tags, FRAMESTAT and flips the signature plane. -/
  | frameCompletion (frame : Nat)
  /-- INFQ_BATCH_COMPLETION (R190): A batch team completes and outputs are written to requesters. -/
  | infqBatchCompletion (team : Nat)
  /-- BUILD (R203): Loom builds a new staged version from the geometry list. -/
  | build (op : Nat)
  /-- REFIT (R203): Loom refits boxes and leaves of the existing topology. -/
  | refit (op : Nat)
  /-- REBALANCE (R203): Loom reorganises subtrees to lower SAHCOST. -/
  | rebalance (op : Nat)
  /-- PUBLISH (R206): Loom atomically makes the staged version current. -/
  | publish (op : Nat)
  /-- SENSOR_WRITE (R231): A posted write is counted by an ingress window against its barrier object. -/
  | sensorWrite (pa : Nat) (data : List Byte)
  /-- HOST_WRITE (R109): A host or peer write into device memory is performed at the slice. -/
  | hostWrite (pa : Nat) (data : List Byte) (poisoned : Bool)
  /-- HOST_READ (R488): A host read of device memory is served. -/
  | hostRead (pa n : Nat)
  /-- HOST_ATOMIC (R226): A PCIe AtomicOp on device memory is performed at the slice. -/
  | hostAtomic (op : HostAtom) (pa : Nat) (v c : Word)
  /-- HOST_SNOOP (R110): A host snoop is served by the slice and forwarded to an owner. -/
  | hostSnoop (ha : Nat) (data : List Byte)
  /-- PEER_ACK (R110): A peer acknowledges a store. -/
  | peerAck (acc : Nat) (ok : Bool)
  /-- LINK_SPEED_CHANGE (R487): The host link changes speed or width during operation. -/
  | linkSpeedChange (rate width : Nat)
  /-- PEER_PORT_DOWN (R489): A peer port goes down and outstanding acknowledgements return errors. -/
  | peerPortDown (port : Nat)
  /-- ECC_ERROR (R454): A correctable or uncorrectable ECC error is detected. -/
  | eccError (site : EccSite) (corrected : Bool)
  /-- FABRIC_HOP (R238): A packet advances one hop on the mesh under age arbitration. -/
  | fabricHop (pkt : Nat)
  /-- THERMAL_SENSOR_UPDATE (R486): Temperature sensors update every 10 always-on periods. -/
  | thermalSensorUpdate (temps : List Nat)
  /-- START (R249): Power-on or reset runs the start sequence under the ROM. -/
  | start (r : StartTrial)
  /-- CLUSTER_BANKMODE_WRITE (R61): A write of CLUSTER.BANKMODE starts bank transitions. -/
  | clusterBankmodeWrite (cl : Nat) (v : Word)
  /-- MEMO_TABLE_WRITE (R179): A write of MEMO.TABLEn reconfigures and invalidates the table. -/
  | memoTableWrite (cl t : Nat) (v : Word)
  /-- MEMO_AUDIT_READ (R191): A read of MEMO.AUDIT returns and clears the audit counters. -/
  | memoAuditRead (cl : Nat)
  /-- PWR_ENERGY_LO_READ (R247): A read of ENERGY_LO latches bits 39:32 for the reader. -/
  | pwrEnergyLoRead (host : Bool)
  /-- ERRLOG_COMMIT (R484): A ROM write of ERRLOG.COMMIT appends an entry. -/
  | errlogCommit (v : Word)
  /-- THERM_CTL_WRITE (R486): A write of THERM.CTL is ignored whole unless thresholds are ordered. -/
  | thermCtlWrite (v : Word)
  /-- REGISTER_WRITE (R9): A write to a register with no behaviour of its own. -/
  | registerWrite (addr v : Word)
  /-- TILE_OPERATION_COMPLETION (R356): A counted tile operation (tld, tst, tcvt, scaleacc, tdrain.h) finishes; its effects land, its flag decrements and later scoreboarded operations may start. -/
  | tileOperationCompletion (op : Nat)
  /-- PEER_PORT_UP (R489): A peer port that went down trains again and accesses through it stop failing at once. -/
  | peerPortUp (port : Nat)
  /-- CLUSTER_RATE_WRITE (R244): A write of CLUSTER.RATE sets FSTEP and REQ, which take effect at a slot boundary only in fixed mode; writes of 0b11 leave REQ unchanged. -/
  | clusterRateWrite (cl : Nat) (v : Word) (byMgmt : Bool)
  /-- NOP (R294): No effect. -/
  | nop
  /-- FENCE_ACQ (R318): Acquire fence. -/
  | fenceAcq
  /-- FENCE_REL (R318): Release fence. -/
  | fenceRel
  /-- FENCE_AR (R318): Acquire-release fence with store-to-load order. -/
  | fenceAr
  /-- BAR (R319): Arrives at the team barrier, local-memory order. -/
  | bar
  /-- BAR_G (R319): Team barrier with release and acquire for all memory. -/
  | barG
  /-- YIELD (R333): Suspends the thread's team cooperatively. -/
  | yield
  /-- TRET (R335): Ends the thread's handler execution. -/
  | tret
  /-- DISCARD (R380): Ends a fragment thread, dropping in-flight INFQ results. -/
  | discard
  /-- PEND (R394): Closes an open memo region. -/
  | pend
  /-- EXIT (R294): Ends the thread once its flags are zero. -/
  | exit
  /-- RQEND (R387): Inserts any reuse result, releases the pin and idles the query. -/
  | rqend
  /-- BARRIER_WAVE (R156): A wave of gangs departs an open barrier after GAP front cycles. -/
  | barrierWave
  /-- REPACK (R44): The carder repacks a team's CARD participants on a core. -/
  | repack
  /-- TILE_RELEASE (R351): A freed tile's chunks return once its operations and permits complete. -/
  | tileRelease
  /-- MATRIX_OPERATION_START (R363): A queued matrix operation starts when the engine is free and the scoreboard allows. -/
  | matrixOperationStart
  /-- LAUNCH_PACKET (R142): The distributor selects an eligible launch head, making it a pending grid. -/
  | launchPacket
  /-- DRAW_PACKET (R164): A draw packet is accepted into an open rendering frame. -/
  | drawPacket
  /-- DEPENDENCY_PACKET (R141): A dependency packet is consumed when its condition holds. -/
  | dependencyPacket
  /-- PIPELINE_LAUNCH (R150): A pipeline launch creates its instances. -/
  | pipelineLaunch
  /-- FILL (R222): Transform engine fills memory with a pattern. -/
  | fill
  /-- CONVERT (R222): Transform engine converts elements between formats. -/
  | convert
  /-- RECODE (R222): Transform engine recodes compressed blocks under a new codebook. -/
  | recode
  /-- SLOT_TABLE_EDIT (R242): The slot allocator takes a slot-table edit packet. -/
  | slotTableEdit
  /-- SLOT_TABLE_EDIT_APPLY (R242): An edit is applied at the first 64-cycle boundary at or after APPLY. -/
  | slotTableEditApply
  /-- DEPENDENCE_REEVALUATION (R143): Periodic re-evaluation of a head's dependence condition. -/
  | dependenceReevaluation
  /-- TEAM_ASSIGNMENT (R145): The distributor assigns a pending grid's next team to a candidate core. -/
  | teamAssignment
  /-- FORAGE_REQUEST (R148): An idle cluster scheduler sends a forage request. -/
  | forageRequest
  /-- FORAGE_REPLY (R149): A forage reply ships stalled records or reports empty. -/
  | forageReply
  /-- FORAGE_RETRY (R148): After 17 empty replies the 4,096-cycle wait ends and foraging resumes. -/
  | forageRetry
  /-- LOCAL_SIZE_WAIT_EXPIRY (R57): A team waiting 2^24 cycles for local memory logs an entry. -/
  | localSizeWaitExpiry
  /-- PIPELINE_INSTANCE_START (R151): An instance starts its stages once quarters and FIFO banks are available. -/
  | pipelineInstanceStart
  /-- BALANCER_INTERVAL (R152): Every 1,024 cycles the stage balancer measures and may start a drain. -/
  | balancerInterval
  /-- PREEMPTION_WAIT_EXPIRY (R157): A starved interactive or urgent head triggers team-boundary pre-emption. -/
  | preemptionWaitExpiry
  /-- DRAIN_LIMIT_EXPIRY (R157): DRAINLIMIT expires with teams still resident. -/
  | drainLimitExpiry
  /-- URGENT_ACCEPTANCE (R159): An urgent packet is accepted and first-pass teams pre-empt victims. -/
  | urgentAcceptance
  /-- URGENT_TEAM_ASSIGNMENT (R158): A later urgent team is assigned when a mask core is free of urgent teams. -/
  | urgentTeamAssignment
  /-- URGENT_RESTORE (R440): Spilled victim state is restored when urgent teams end. -/
  | urgentRestore
  /-- YIELD_SAVE_COMPLETE (R437): A yielding team's save record completes once its tiles are written. -/
  | yieldSaveComplete
  /-- MISS_ENTRY_RETRY (R85): A rejected access is admitted when a miss entry frees. -/
  | missEntryRetry
  /-- SLICE_RETRY (R86): A rejected request is retried 32 fabric cycles later. -/
  | sliceRetry
  /-- INFQ_BATCH_LAUNCH (R190): A batch launches when its oldest request has waited WAIT cycles. -/
  | infqBatchLaunch
  /-- PEER_ACK_TIMEOUT (R463): A peer acknowledgement missing 2^24 cycles forces a context reset. -/
  | peerAckTimeout
  /-- HOST_LINK_DOWN (R487): The host link goes down and host accesses fail. -/
  | hostLinkDown
  /-- HOST_LINK_UP (R487): The host link returns with no host lines cached. -/
  | hostLinkUp
  /-- TURN_BUFFER_REINJECT (R238): A turn buffer reinjects a packet along y two cycles later. -/
  | turnBufferReinject
  /-- GOVERNOR_INTERVAL (R246): Every 100 microseconds the governor chooses clocks and lane rates. -/
  | governorInterval
  /-- THERMAL_EMERGENCY (R495): A sensor at or above EMERG stops all non-always-on clocks. -/
  | thermalEmergency
  /-- THERMAL_RELEASE (R495): Clocks restart when every sensor is at or below RELEASE. -/
  | thermalRelease
  /-- THERMAL_SHUTDOWN (R496): A 10 s emergency stop shuts the device down. -/
  | thermalShutdown
  /-- ERRLOG_APPEND (R484): An error-log append is applied at the management node. -/
  | errlogAppend
  /-- MSIX_VECTOR1_TIMER (R484): The 1 microsecond coalescing window ends and a pending vector-1 message is sent. -/
  | msixVector1Timer
  /-- START_STEP_TIMEOUT (R499): A start step not finished within 2 s has failed. -/
  | startStepTimeout
  /-- CTX_CREATE (R234): Creates a context. -/
  | ctxCreate
  /-- CTX_DESTROY (R441): Destroys a context, resetting and dropping its work. -/
  | ctxDestroy
  /-- QUEUE_CREATE (R136): Creates a queue from its descriptor. -/
  | queueCreate
  /-- QUEUE_DESTROY (R234): Destroys an idle queue. -/
  | queueDestroy
  /-- MAP_ENTRY (R234): MAP SUB 0 writes a page-table entry. -/
  | mapEntry
  /-- MAP_INVALIDATE (R78): MAP SUB 1 invalidates translations of a range. -/
  | mapInvalidate
  /-- MAP_BANKMODE (R61): MAP SUB 2 writes a cluster's CLUSTER.BANKMODE. -/
  | mapBankmode
  /-- MAP_MEMO_TABLE (R179): MAP SUB 3 writes a MEMO.TABLEn. -/
  | mapMemoTable
  /-- CODEBOOK (R84): Loads a compression codebook. -/
  | codebook
  /-- MEMO_MODE (R187): Writes a context's MEMO.MODE and returns audit counters. -/
  | memoMode
  /-- POWER_LIMIT (R246): Sets board limit, governor mode and frame period. -/
  | powerLimit
  /-- HEALTH (R501): Returns readiness, energy, temperatures and log counts. -/
  | health
  /-- START_RECORD_READ (R250): Reads the start record. -/
  | startRecordRead
  /-- START_RECORD_REPLACE (R251): Replaces the start record for the next start. -/
  | startRecordReplace
  /-- PREEMPT (R157): Pre-empts a context at team boundaries. -/
  | preempt
  /-- SENSOR_WIN (R231): Writes an ingress window, applying its expect when enabled. -/
  | sensorWin
  /-- PEER (R228): Enters a peer into a context's peer list. -/
  | peer
  /-- PAGING (R234): Writes PAGING.CTL and adds frames. -/
  | paging
  /-- ERRLOG (R485): Returns error-log entries. -/
  | errlog
  /-- BADOPC (R234): A doorbell with an unassigned opcode returns BADOPC. -/
  | badopc
  deriving DecidableEq, Repr

end Sys2Proof
end

