-- ==== Sys2Proof/WellFormed.lean ====
section
/-! DEFINITION. Which instructions are well formed: the conditions of spec 11 and spec 22 (Table 22-1) on an encoding
alone that the types of `Syntax` do not already say. Steps of the other agents have no encoding and are well formed. -/

namespace Sys2Proof

/-- Element width in bits (Table 11-3). -/
def Wid.size : Wid → Nat
  | .w8 => 8 | .w16 => 16 | .w32 => 32 | .w64 => 64

/-- Registers of one B column of an mma (Table 14-2). -/
def Elem.bRegs : Elem → Nat
  | .fp32 => 16 | .fp16 => 8 | .bf16 => 8 | .int16 => 8
  | .e4m3 => 4 | .e5m2 => 4 | .int8 => 4 | .uint8 => 4 | .e3m2 => 4 | .e2m3 => 4
  | .e2m1 => 2 | .int4 => 2 | .uint4 => 2

/-- The types reduce accepts, TY 0 to 11 (R305). -/
def Ty.reducible : Ty → Bool
  | .e4m3 | .e5m2 | .e3m2 | .e2m3 | .e2m1 | .s4 | .n4 => false
  | _ => true

/-- Integer compares have no unordered conditions (R284). -/
def Cond.isInt : Cond → Bool
  | .un | .or => false
  | _ => true

/-- A consuming load names local memory (R311). -/
def LdKind.okIn (q : LdKind) (sp : Space) : Bool :=
  match q with
  | .plain | .acq => true
  | .fe | .fec => decide (sp = .lo)

/-- A fill store names local memory (R312). -/
def StKind.okIn (q : StKind) (sp : Space) : Bool :=
  match q with
  | .plain | .rel => true
  | .fill => decide (sp = .lo)

/-- The conditions on an encoding that Table 22-1 and R260 give. -/
def Instr.wellFormed : Instr → Bool
  | .shlImm o | .shrImm o | .sarImm o | .rotlImm o => decide (o.cnt.val < o.wid.size)
  | .cmpS o | .cmpN o => o.cond.isInt
  | .rcp o | .sqrt o | .rsqrt o | .log2 o | .exp2 o | .tolog o | .fromlog o => decide (o.ft ≠ .f64)
  | .reduceAdd o | .reduceMin o | .reduceMax o => o.ty.reducible
  | .ldS8 o | .ldN8 o | .ldS16 o | .ldN16 o | .ldS32 o | .ldN32 o | .ldB64 o => o.q.okIn o.sp
  | .ldq o => o.q.okIn o.sp
  | .stB8 o | .stB16 o | .stB32 o | .stB64 o => o.q.okIn o.sp
  | .stq o => o.q.okIn o.sp
  | .atom o => decide (o.op = .cas → o.d.val % 2 = 0)
  | .ared o => decide (o.op ≠ .exch ∧ o.op ≠ .cas)
  | .pop o => decide (o.hs = .none)
  | .pref o => decide (o.sp ≠ .lo)
  | .mmaFa o | .mmaFb o => decide (o.b.val % o.el.bRegs = 0)
  | .mmaSp8Fa o | .mmaSp8Fb o => decide (o.b.val % o.el.bRegs = 0)
  | .edge o => decide (o.d.val % 2 = 0 ∧ o.b.val % 2 = 0)
  | .interpPersp o | .interpLin o | .interpFlat o => decide (o.b.val % 4 = 0)
  | .texs o | .texg o | .imld o | .imst o => decide (o.d.val % 2 = 0 ∧ o.a.val % 2 = 0)
  | .exportOp o => decide (o.a.val % 4 = 0)
  | .rqset o => decide (o.a.val % 8 = 0)
  | .mov16 o => decide (o.d.val % 32 ≠ o.a.val)
  | _ => true

/-- The row has an encoding (spec 98: rows with bits); the others are steps of other agents. -/
def Instr.encoded : Instr → Bool
  | .issueSelection _ | .memoryAccessPerformed _ | .trapEntryQueue _ | .trapDelivery _ | .asyncTrapEntry _
  | .barrierWave | .waitaRetest _ | .repack | .tileRelease | .matrixOperationStart
  | .matrixOperationCompletion _ | .peerDrainAdd _ | .copyCompletion _ | .chunkPushLanding _ | .transformCompletion _
  | .launchPacket | .drawPacket | .dependencyPacket | .pipelineLaunch | .copyPacket _
  | .gatherPacket _ | .fill | .convert | .recode | .slotTableEdit
  | .slotTableEditApply | .dependenceReevaluation | .teamAssignment | .placement _ | .forageRequest
  | .forageReply | .forageRetry | .localSizeWaitExpiry | .pipelineInstanceStart | .balancerInterval
  | .preemptionWaitExpiry | .drainLimitExpiry | .urgentAcceptance | .urgentTeamAssignment | .urgentRestore
  | .yieldSaveComplete | .walkCompletion _ | .pageIn _ _ _ _ | .missEntryRetry | .sliceRequest _ _ _
  | .sliceRetry | .bankTransition _ _ | .geometryBatch _ _ | .binWriterAppend _ _ | .rasterPhaseStart _
  | .coarseRasterTile _ _ | .outputMergeExport _ _ | .frameCompletion _ | .infqBatchLaunch | .infqBatchCompletion _
  | .build _ | .refit _ | .rebalance _ | .publish _ | .sensorWrite _ _
  | .hostWrite _ _ _ | .hostRead _ _ | .hostAtomic _ _ _ _ | .hostSnoop _ _ | .peerAck _ _
  | .peerAckTimeout | .hostLinkDown | .hostLinkUp | .linkSpeedChange _ _ | .peerPortDown _
  | .eccError _ _ | .fabricHop _ | .turnBufferReinject | .governorInterval | .thermalSensorUpdate _
  | .thermalEmergency | .thermalRelease | .thermalShutdown | .errlogAppend | .msixVector1Timer
  | .start _ | .startStepTimeout | .ctxCreate | .ctxDestroy | .queueCreate
  | .queueDestroy | .mapEntry | .mapInvalidate | .mapBankmode | .mapMemoTable
  | .codebook | .memoMode | .powerLimit | .health | .startRecordRead
  | .startRecordReplace | .preempt | .sensorWin | .peer | .paging
  | .errlog | .badopc | .clusterBankmodeWrite _ _ | .memoTableWrite _ _ _ | .memoAuditRead _
  | .pwrEnergyLoRead _ | .errlogCommit _ | .thermCtlWrite _ | .registerWrite _ _ | .tileOperationCompletion _
  | .peerPortUp _ | .clusterRateWrite _ _ _ => false
  | _ => true

end Sys2Proof
end

