-- ==== Sys2Proof/Decode.lean ====
section
/-! DEFINITION. Decoding of instruction words and, after it, the encoder, both from the tables of spec 11 (Tables 11-2,
11-3, 11-6, 11-7), spec 14 (Table 14-6) and spec 15 (Table 15-1). A word that they do not assign decodes to none: the
machine raises the encoding cause for it (R266). -/

namespace Sys2Proof

/-! ### Field codes (Table 11-3 and the field rules of spec 11 to 15) -/

def Hint.ofCode : Nat → Hint
  | 0 => .none | 1 => .keep | 2 => .last | _ => .lastEnd
def Hint.code : Hint → Nat
  | .none => 0 | .keep => 1 | .last => 2 | .lastEnd => 3
def Wid.ofCode : Nat → Wid
  | 0 => .w8 | 1 => .w16 | 2 => .w32 | _ => .w64
def Wid.code : Wid → Nat
  | .w8 => 0 | .w16 => 1 | .w32 => 2 | .w64 => 3
def Ft.ofCode : Nat → Ft
  | 0 => .f32 | 1 => .f64 | 2 => .f16 | _ => .bf16
def Ft.code : Ft → Nat
  | .f32 => 0 | .f64 => 1 | .f16 => 2 | .bf16 => 3
def Ty.ofNat? : Nat → Option Ty
  | 0 => some .s8 | 1 => some .s16 | 2 => some .s32 | 3 => some .s64
  | 4 => some .n8 | 5 => some .n16 | 6 => some .n32 | 7 => some .n64
  | 8 => some .f16 | 9 => some .bf16 | 10 => some .f32 | 11 => some .f64
  | 12 => some .e4m3 | 13 => some .e5m2 | 14 => some .e3m2 | 15 => some .e2m3
  | 16 => some .e2m1 | 17 => some .s4 | 18 => some .n4 | _ => none
def Ty.code : Ty → Nat
  | .s8 => 0 | .s16 => 1 | .s32 => 2 | .s64 => 3 | .n8 => 4 | .n16 => 5 | .n32 => 6 | .n64 => 7
  | .f16 => 8 | .bf16 => 9 | .f32 => 10 | .f64 => 11 | .e4m3 => 12 | .e5m2 => 13 | .e3m2 => 14
  | .e2m3 => 15 | .e2m1 => 16 | .s4 => 17 | .n4 => 18
def Cond.ofCode : Nat → Cond
  | 0 => .eq | 1 => .ne | 2 => .lt | 3 => .le | 4 => .gt | 5 => .ge | 6 => .un | _ => .or
def Cond.code : Cond → Nat
  | .eq => 0 | .ne => 1 | .lt => 2 | .le => 3 | .gt => 4 | .ge => 5 | .un => 6 | .or => 7
def BHint.ofCode : Nat → BHint
  | 0 => .none | 1 => .likely | 2 => .unlikely | _ => .uniform
def BHint.code : BHint → Nat
  | .none => 0 | .likely => 1 | .unlikely => 2 | .uniform => 3
def RMode.ofCode : Nat → RMode
  | 0 => .rn | 1 => .rz | 2 => .ru | _ => .rd
def RMode.code : RMode → Nat
  | .rn => 0 | .rz => 1 | .ru => 2 | .rd => 3
def Space.ofNat? : Nat → Option Space
  | 0 => some .gl | 1 => some .lo | 2 => some .pv | _ => none
def Space.code : Space → Nat
  | .gl => 0 | .lo => 1 | .pv => 2
def ASpace.ofNat? : Nat → Option ASpace
  | 0 => some .gl | 1 => some .lo | _ => none
def ASpace.code : ASpace → Nat
  | .gl => 0 | .lo => 1
def LdKind.ofCode : Nat → LdKind
  | 0 => .plain | 1 => .acq | 2 => .fe | _ => .fec
def LdKind.code : LdKind → Nat
  | .plain => 0 | .acq => 1 | .fe => 2 | .fec => 3
def StKind.ofNat? : Nat → Option StKind
  | 0 => some .plain | 1 => some .rel | 2 => some .fill | _ => none
def StKind.code : StKind → Nat
  | .plain => 0 | .rel => 1 | .fill => 2
def AOrd.ofCode : Nat → AOrd
  | 0 => .none | 1 => .acq | 2 => .rel | _ => .ar
def AOrd.code : AOrd → Nat
  | .none => 0 | .acq => 1 | .rel => 2 | .ar => 3
def AtomOp.ofNat? : Nat → Option AtomOp
  | 0 => some .add | 1 => some .addF | 2 => some .minS | 3 => some .minN | 4 => some .maxS | 5 => some .maxN
  | 6 => some .and | 7 => some .or | 8 => some .xor | 9 => some .exch | 10 => some .cas | _ => none
def AtomOp.code : AtomOp → Nat
  | .add => 0 | .addF => 1 | .minS => 2 | .minN => 3 | .maxS => 4 | .maxN => 5
  | .and => 6 | .or => 7 | .xor => 8 | .exch => 9 | .cas => 10
def PfLevel.ofNat? : Nat → Option PfLevel
  | 0 => some .cc | 1 => some .sc | 2 => some .tr | _ => none
def PfLevel.code : PfLevel → Nat
  | .cc => 0 | .sc => 1 | .tr => 2
def Elem.ofNat? : Nat → Option Elem
  | 0 => some .fp32 | 1 => some .fp16 | 2 => some .bf16 | 3 => some .e4m3 | 4 => some .e5m2 | 5 => some .e3m2
  | 6 => some .e2m3 | 7 => some .e2m1 | 8 => some .int8 | 9 => some .uint8 | 10 => some .int4 | 11 => some .uint4
  | 12 => some .int16 | _ => none
def Elem.code : Elem → Nat
  | .fp32 => 0 | .fp16 => 1 | .bf16 => 2 | .e4m3 => 3 | .e5m2 => 4 | .e3m2 => 5 | .e2m3 => 6 | .e2m1 => 7
  | .int8 => 8 | .uint8 => 9 | .int4 => 10 | .uint4 => 11 | .int16 => 12
def KKind.ofCode : Nat → KKind
  | 0 => .raw | 1 => .f64 | 2 => .f32 | 3 => .f32x2 | 4 => .f16 | 5 => .f16x4 | 6 => .bf16 | _ => .bf16x4
def KKind.code : KKind → Nat
  | .raw => 0 | .f64 => 1 | .f32 => 2 | .f32x2 => 3 | .f16 => 4 | .f16x4 => 5 | .bf16 => 6 | .bf16x4 => 7

/-! ### Field readers -/

/-- A field as a 6-bit register number. -/
def fReg (w hi lo : Nat) : Reg := Fin.ofNat 64 (bits w hi lo)
def fU (w hi lo : Nat) : Fin 32 := Fin.ofNat 32 (bits w hi lo)
def f16 (w hi lo : Nat) : Fin 16 := Fin.ofNat 16 (bits w hi lo)
def f8 (w hi lo : Nat) : Fin 8 := Fin.ofNat 8 (bits w hi lo)
def fHint (w hi lo : Nat) : Hint := Hint.ofCode (bits w hi lo)

/-- Keeps an instruction when a condition on its word holds. -/
def onlyIf (c : Bool) (i : Instr) : Option Instr := if c then some i else none

def dOp3 (w : Nat) : Op3 := ⟨.ofCode (bits w 31 30), fHint w 29 28, fReg w 27 22, fHint w 21 20, fReg w 19 14, fReg w 13 8⟩
def dOp3F (w : Nat) : Op3F := ⟨.ofCode (bits w 31 30), fHint w 29 28, fReg w 27 22, fHint w 21 20, fReg w 19 14, fReg w 13 8⟩
def dOp3X (w : Nat) : Op3X := ⟨fHint w 29 28, fReg w 27 22, fHint w 21 20, fReg w 19 14, fReg w 13 8⟩
def dOp2 (w : Nat) : Op2 := ⟨fHint w 21 20, fReg w 19 14, fReg w 13 8⟩
def dOpAB (w : Nat) : OpAB := ⟨fHint w 29 28, fReg w 27 22, fHint w 21 20, fReg w 19 14⟩
def dOp1 (w : Nat) : Op1 := ⟨fHint w 21 20, fReg w 19 14⟩
def dOpI (w : Nat) : OpI := ⟨BitVec.ofNat 10 (bits w 31 22), fHint w 21 20, fReg w 19 14, fReg w 13 8⟩
def dOpSh (w : Nat) : OpSh := ⟨.ofCode (bits w 29 28), fReg w 27 22, fHint w 21 20, fReg w 19 14, fReg w 13 8⟩
def dOpL (w : Nat) : OpL := ⟨BitVec.ofNat 16 (bits w 31 16), Fin.ofNat 4 (bits w 15 14), fReg w 13 8⟩
def dOpCmp (w : Nat) : OpCmp :=
  ⟨f16 w 31 28, .ofCode (bits w 27 25), fReg w 24 19, fHint w 18 17, fReg w 16 11, fHint w 10 9, bit w 8⟩
def dOpPlop (w : Nat) : OpPlop := ⟨BitVec.ofNat 8 (bits w 31 24), f16 w 23 20, f16 w 19 16, f16 w 15 12, f16 w 11 8⟩
def dOpU3 (w : Nat) : OpU3 := ⟨fHint w 29 28, fU w 26 22, fHint w 21 20, fU w 18 14, fU w 12 8⟩
def dOpHA (w : Nat) : OpHA := ⟨fHint w 23 22, fReg w 21 16, f16 w 11 8⟩

/-- Bit 5 of the D, A and B fields of a uniform instruction is zero (R260). -/
def uFields (w : Nat) (useB : Bool) : Bool := !bit w 13 && !bit w 19 && (!useB || !bit w 27)

/-- The U format codes of a field FN (bits [31:22]). -/
def fn (w : Nat) : Nat := bits w 31 22

/-! ### One function per group of majors -/

/-- Majors 0x01 to 0x1A (Table 12-1). -/
def decInt (m w : Nat) : Option Instr :=
  match m with
  | 0x01 => some (.add (dOp3 w)) | 0x02 => some (.sub (dOp3 w)) | 0x03 => some (.mul (dOp3 w))
  | 0x04 => some (.mulhiS (dOp3 w)) | 0x05 => some (.mulhiN (dOp3 w)) | 0x06 => some (.addsatS (dOp3 w))
  | 0x07 => some (.addsatN (dOp3 w)) | 0x08 => some (.subsatS (dOp3 w)) | 0x09 => some (.subsatN (dOp3 w))
  | 0x0A => some (.minS (dOp3 w)) | 0x0B => some (.minN (dOp3 w)) | 0x0C => some (.maxS (dOp3 w))
  | 0x0D => some (.maxN (dOp3 w)) | 0x0E => some (.andOp (dOp3 w)) | 0x0F => some (.orOp (dOp3 w))
  | 0x10 => some (.xor (dOp3 w)) | 0x11 => some (.andn (dOp3 w)) | 0x12 => some (.shl (dOp3 w))
  | 0x13 => some (.shr (dOp3 w)) | 0x14 => some (.sar (dOp3 w)) | 0x15 => some (.rotl (dOp3 w))
  | 0x16 => some (.bfeS (dOp3 w)) | 0x17 => some (.bfeN (dOp3 w)) | 0x18 => some (.bfi (dOp3 w))
  | 0x19 => some (.madd (dOp3 w)) | 0x1A => onlyIf (bits w 31 30 == 3) (.sel (dOp3X w))
  | _ => none

/-- Majors 0x1B to 0x20 (R278, R279). -/
def decImm (m w : Nat) : Option Instr :=
  match m with
  | 0x1B =>
    let o : Op2W := ⟨.ofCode (bits w 25 24), fHint w 21 20, fReg w 19 14, fReg w 13 8⟩
    if bits w 31 26 != 0 then none else
    match bits w 23 22 with
    | 0 => some (.popc o) | 1 => some (.clz o) | 2 => some (.ctz o) | _ => some (.brev o)
  | 0x1C => some (.addImm (dOpI w)) | 0x1D => some (.andImm (dOpI w))
  | 0x1E =>
    let o := dOpSh w
    if o.wid.size ≤ o.cnt.val then none else
    match bits w 31 30 with
    | 0 => some (.shlImm o) | 1 => some (.shrImm o) | 2 => some (.sarImm o) | _ => some (.rotlImm o)
  | 0x1F => some (.movz (dOpL w)) | 0x20 => some (.movk (dOpL w))
  | _ => none

/-- Majors 0x21 to 0x2D (R280 to R284, R287). -/
def decFloat (m w : Nat) : Option Instr :=
  match m with
  | 0x21 => some (.addF (dOp3F w)) | 0x22 => some (.subF (dOp3F w)) | 0x23 => some (.mulF (dOp3F w))
  | 0x24 => some (.fma (dOp3F w)) | 0x25 => some (.minF (dOp3F w)) | 0x26 => some (.maxF (dOp3F w))
  | 0x27 => onlyIf (bits w 31 24 == 0) (.classOp ⟨.ofCode (bits w 23 22), fHint w 21 20, fReg w 19 14, fReg w 13 8⟩)
  | 0x28 => onlyIf (bits w 31 24 == 0) (.rnd ⟨.ofCode (bits w 23 22), fHint w 21 20, fReg w 19 14, fReg w 13 8⟩)
  | 0x29 => onlyIf (dOpCmp w).cond.isInt (.cmpS (dOpCmp w))
  | 0x2A => onlyIf (dOpCmp w).cond.isInt (.cmpN (dOpCmp w))
  | 0x2B => some (.cmpF32F64 (dOpCmp w)) | 0x2C => some (.cmpF16Bf16 (dOpCmp w))
  | 0x2D =>
    match Ty.ofNat? (bits w 31 27), Ty.ofNat? (bits w 26 22) with
    | some dst, some src => some (.cvt ⟨dst, src, fHint w 21 20, fReg w 19 14, fReg w 13 8⟩)
    | _, _ => none
  | _ => none

/-- Majors 0x2E and 0x2F (R288 to R290). -/
def decSpecial (m w : Nat) : Option Instr :=
  match m with
  | 0x2E =>
    let o : Op2F := ⟨.ofCode (bits w 31 30), fHint w 21 20, fReg w 19 14, fReg w 13 8⟩
    if bits w 29 26 != 0 then none else
    if bits w 25 22 < 7 && bits w 31 30 == 1 then none else
    if 7 ≤ bits w 25 22 && bits w 31 30 != 0 then none else
    match bits w 25 22 with
    | 0 => some (.rcp o) | 1 => some (.sqrt o) | 2 => some (.rsqrt o) | 3 => some (.log2 o) | 4 => some (.exp2 o)
    | 5 => some (.tolog o) | 6 => some (.fromlog o) | 7 => some (.lsqrt (dOp2 w)) | 8 => some (.lrcp (dOp2 w))
    | _ => none
  | 0x2F =>
    match bits w 31 30 with
    | 0 => some (.lmul (dOp3X w)) | 1 => some (.ldiv (dOp3X w)) | 2 => some (.lpow (dOp3X w)) | _ => none
  | _ => none

/-- Majors 0x30 to 0x34 (R286, R291 to R298). -/
def decControl (m w : Nat) : Option Instr :=
  match m with
  | 0x30 => some (.plop (dOpPlop w))
  | 0x31 => some (.bra ⟨BitVec.ofNat 17 (bits w 31 15), bit w 14, f16 w 13 10, .ofCode (bits w 9 8)⟩)
  | 0x32 => some (.call ⟨BitVec.ofNat 18 (bits w 31 14), fReg w 13 8⟩)
  | 0x33 => onlyIf (bits w 31 24 == 0 && bits w 13 8 == 0) (.jmp ⟨.ofCode (bits w 23 22), fHint w 21 20, fReg w 19 14⟩)
  | 0x34 =>
    if bits w 31 26 != 0 || bit w 23 then none else
    match bits w 25 24 with
    | 0 => onlyIf (bits w 19 16 == 0) (.jset ⟨f8 w 22 20, fHint w 15 14, fReg w 13 8⟩)
    | 1 => onlyIf (bits w 19 8 == 0) (.jarrive (f8 w 22 20))
    | 2 => onlyIf (bits w 15 8 == 0) (.jwait ⟨f8 w 22 20, f16 w 19 16⟩)
    | _ => none
  | _ => none

/-- Majors 0x35 to 0x3C (R299 to R306). -/
def decCross (m w : Nat) : Option Instr :=
  match m with
  | 0x35 => some (.shfl (dOp3 w))
  | 0x36 =>
    let o : OpShfli := ⟨.ofCode (bits w 29 28), fReg w 27 22, fHint w 21 20, fReg w 19 14, fReg w 13 8⟩
    match bits w 31 30 with
    | 0 => some (.shfliIdx o) | 1 => some (.shfliUp o) | 2 => some (.shfliDown o) | _ => some (.shfliXor o)
  | 0x37 => onlyIf (bits w 31 28 == 0) (.bcast ⟨fReg w 27 22, fHint w 21 20, fReg w 19 14, fReg w 13 8⟩)
  | 0x38 =>
    if bits w 31 26 != 0 || bits w 23 16 != 0 then none else
    match bits w 25 24 with
    | 0 => some (.voteAny ⟨f16 w 15 12, f16 w 11 8⟩) | 1 => some (.voteAll ⟨f16 w 15 12, f16 w 11 8⟩)
    | 2 => some (.voteUni ⟨f16 w 15 12, f16 w 11 8⟩) | _ => none
  | 0x39 => onlyIf (bits w 31 26 == 0 && bits w 21 14 == 0) (.ballot ⟨f16 w 25 22, fReg w 13 8⟩)
  | 0x3A => onlyIf (bits w 31 24 == 0) (.matchOp ⟨.ofCode (bits w 23 22), fHint w 21 20, fReg w 19 14, fReg w 13 8⟩)
  | 0x3B =>
    match Ty.ofNat? (bits w 26 22) with
    | some ty =>
      let o : OpRed := ⟨ty, fHint w 21 20, fReg w 19 14, fReg w 13 8⟩
      if bits w 29 27 != 0 || !ty.reducible then none else
      match bits w 31 30 with
      | 0 => some (.reduceAdd o) | 1 => some (.reduceMin o) | 2 => some (.reduceMax o) | _ => none
    | none => none
  | 0x3C =>
    if bits w 31 23 != 0 then none else
    if bit w 22 then onlyIf (!bit w 13) (.xmovW ⟨fHint w 21 20, fReg w 19 14, fU w 12 8⟩)
    else onlyIf (!bit w 19) (.xmovG ⟨fHint w 21 20, fU w 18 14, fReg w 13 8⟩)
  | _ => none

/-- Majors 0x3D to 0x40 (R307). -/
def decUniform (m w : Nat) : Option Instr :=
  match m with
  | 0x3D =>
    if !uFields w true then none else
    match bits w 31 30 with
    | 0 => some (.addU (dOpU3 w)) | 1 => some (.subU (dOpU3 w)) | 2 => some (.andU (dOpU3 w)) | _ => some (.orU (dOpU3 w))
  | 0x3E =>
    if !uFields w true then none else
    match bits w 31 30 with
    | 0 => some (.xorU (dOpU3 w)) | 1 => some (.shlU (dOpU3 w)) | 2 => some (.shrU (dOpU3 w)) | _ => some (.mulU (dOpU3 w))
  | 0x3F => onlyIf (uFields w false) (.addUimm ⟨BitVec.ofNat 10 (bits w 31 22), fHint w 21 20, fU w 18 14, fU w 12 8⟩)
  | 0x40 => onlyIf (!bit w 13) (.movkU ⟨BitVec.ofNat 16 (bits w 31 16), Fin.ofNat 4 (bits w 15 14), fU w 12 8⟩)
  | _ => none

/-- A sized load of Table 13-1. -/
def dLd (w : Nat) (mk : OpLd → Instr) : Option Instr :=
  match Space.ofNat? (bits w 23 22) with
  | some sp =>
    let o : OpLd := ⟨BitVec.ofNat 6 (bits w 31 26), .ofCode (bits w 25 24), sp, fHint w 21 20, fReg w 19 14, fReg w 13 8⟩
    onlyIf (o.q.okIn o.sp) (mk o)
  | none => none

/-- A sized store of Table 13-2. -/
def dSt (w : Nat) (mk : OpSt → Instr) : Option Instr :=
  match Space.ofNat? (bits w 23 22), StKind.ofNat? (bits w 27 26) with
  | some sp, some q =>
    let o : OpSt := ⟨BitVec.ofNat 4 (bits w 31 28), q, fHint w 25 24, sp, fHint w 21 20, fReg w 19 14, fReg w 13 8⟩
    onlyIf (o.q.okIn o.sp) (mk o)
  | _, _ => none

/-- The fields of atom and ared (R315). -/
def dAtom (w : Nat) : Option OpAtom :=
  match AtomOp.ofNat? (bits w 27 24), ASpace.ofNat? (bits w 29 29) with
  | some op, some sp =>
    some ⟨.ofCode (bits w 31 30), sp, bit w 28, op, fHint w 23 22, fReg w 21 16, fHint w 15 14, fReg w 13 8⟩
  | _, _ => none

/-- Majors 0x41 to 0x50 (R310 to R317). -/
def decMem (m w : Nat) : Option Instr :=
  match m with
  | 0x41 => dLd w .ldS8 | 0x42 => dLd w .ldN8 | 0x43 => dLd w .ldS16 | 0x44 => dLd w .ldN16
  | 0x45 => dLd w .ldS32 | 0x46 => dLd w .ldN32 | 0x47 => dLd w .ldB64
  | 0x48 =>
    match Space.ofNat? (bits w 23 22) with
    | some sp =>
      let o : OpLdq := ⟨BitVec.ofNat 6 (bits w 31 26), .ofCode (bits w 25 24), sp, fHint w 21 20, fReg w 19 14, fU w 13 9⟩
      onlyIf (o.q.okIn o.sp && !bit w 8) (.ldq o)
    | none => none
  | 0x49 => dSt w .stB8 | 0x4A => dSt w .stB16 | 0x4B => dSt w .stB32 | 0x4C => dSt w .stB64
  | 0x4D =>
    match Space.ofNat? (bits w 23 22), StKind.ofNat? (bits w 27 26) with
    | some sp, some q =>
      let o : OpStq := ⟨BitVec.ofNat 4 (bits w 31 28), q, fHint w 25 24, sp, fHint w 21 20, fReg w 19 14, fU w 13 9⟩
      onlyIf (o.q.okIn o.sp && !bit w 8) (.stq o)
    | _, _ => none
  | 0x4E =>
    match Space.ofNat? (bits w 31 30) with
    | some sp => onlyIf (bits w 9 8 == 0) (.ldrl ⟨sp, fHint w 29 28, fReg w 27 22, fHint w 21 20, fReg w 19 14, f16 w 13 10⟩)
    | none => none
  | 0x4F =>
    match dAtom w with
    | some o => onlyIf (o.op != .cas || o.d.val % 2 == 0) (.atom o)
    | none => none
  | 0x50 =>
    match dAtom w with
    | some o => onlyIf (o.op != .cas && o.op != .exch) (.ared o)
    | none => none
  | _ => none

/-- Majors 0x51 to 0x56 (R294, R318 to R328, R333 to R335). -/
def decSync (m w : Nat) : Option Instr :=
  match m with
  | 0x51 =>
    match bits w 31 8 with
    | 0 => some .nop | 1 => some .fenceAcq | 2 => some .fenceRel | 3 => some .fenceAr | 4 => some .bar | 5 => some .barG
    | 6 => some .yield | 7 => some .tret | 8 => some .discard | 9 => some .pend | 10 => some .exit | _ => none
  | 0x52 => onlyIf (bits w 31 24 == 0) (.trap (BitVec.ofNat 16 (bits w 23 8)))
  | 0x53 =>
    match bits w 31 30 with
    | 0 => onlyIf (bits w 29 22 == 0) (.bobjArrive (dOp2 w))
    | 1 => some (.bobjExpect (dOp3X w))
    | 2 => onlyIf (bits w 13 8 == 0) (.bobjInit (dOpAB w))
    | _ => none
  | 0x54 =>
    match bits w 31 30 with
    | 0 => some (.waitaPhase (dOp3X w)) | 1 => some (.waitaGe (dOp3X w)) | 2 => some (.waitaEq (dOp3X w)) | _ => none
  | 0x55 => onlyIf (bits w 31 22 == 0 && bits w 13 12 == 0) (.waitm ⟨fHint w 21 20, fReg w 19 14, f16 w 11 8⟩)
  | 0x56 =>
    let o : OpFifo := ⟨fU w 29 25, f16 w 23 20, f16 w 19 16, fHint w 15 14, fReg w 13 8⟩
    if bits w 31 30 != 0 then none else
    if bit w 24 then some (.push o) else onlyIf (decide (o.hs = .none)) (.pop o)
  | _ => none

/-- Majors 0x57 to 0x5E (R329 to R332, R336, R337, R340). -/
def decSystem (m w : Nat) : Option Instr :=
  match m with
  | 0x57 =>
    onlyIf (bits w 31 30 == 0 && bits w 24 22 == 0) (.qpost ⟨fHint w 29 28, f8 w 27 25, fHint w 21 20, fReg w 19 14, fReg w 13 8⟩)
  | 0x58 =>
    onlyIf (bits w 30 22 == 0 && bits w 16 14 == 0 && bits w 13 8 == 0) (.copy ⟨bit w 31, fHint w 21 20, f8 w 19 17⟩)
  | 0x59 =>
    onlyIf (bits w 31 30 == 0 && bits w 13 12 == 0) (.permit ⟨fHint w 29 28, fReg w 27 22, fHint w 21 20, fReg w 19 14, f16 w 11 8⟩)
  | 0x5A => onlyIf (bits w 31 22 == 0) (.grow (dOp2 w))
  | 0x5B => onlyIf (bits w 31 22 < 14 && bits w 21 14 == 0) (.smov ⟨Fin.ofNat 14 (bits w 31 22), fReg w 13 8⟩)
  | 0x5C => onlyIf (bits w 31 22 == 0) (.mrd (dOp2 w))
  | 0x5D => onlyIf (bits w 31 30 == 0 && bits w 13 8 == 0) (.mwr (dOpAB w))
  | 0x5E =>
    match PfLevel.ofNat? (bits w 25 24), Space.ofNat? (bits w 23 22) with
    | some l, some sp =>
      onlyIf (decide (sp ≠ .lo) && bits w 13 8 == 0) (.pref ⟨BitVec.ofNat 6 (bits w 31 26), l, sp, fHint w 21 20, fReg w 19 14⟩)
    | _, _ => none
  | _ => none

/-- Majors 0x5F to 0x69 (Table 14-6). -/
def decTile (m w : Nat) : Option Instr :=
  match m with
  | 0x5F => onlyIf (bits w 31 26 == 0 && !bit w 24 && bits w 15 12 == 0) (.talloc ⟨bit w 25, fHint w 23 22, fReg w 21 16, f16 w 11 8⟩)
  | 0x60 => onlyIf (bits w 31 12 == 0) (.tfree (f16 w 11 8))
  | 0x61 => onlyIf (bits w 31 24 == 0 && bits w 15 12 == 0) (.thand (dOpHA w))
  | 0x62 => onlyIf (bits w 31 24 == 0 && bits w 15 12 == 0) (.tacc (dOpHA w))
  | 0x63 =>
    match ASpace.ofNat? (bits w 26 25) with
    | some sp => onlyIf (bits w 31 27 == 0 && bits w 15 12 == 0) (.tld ⟨sp, bit w 24, fHint w 23 22, fReg w 21 16, f16 w 11 8⟩)
    | none => none
  | 0x64 =>
    match ASpace.ofNat? (bits w 26 25) with
    | some sp => onlyIf (bits w 31 27 == 0 && bits w 15 12 == 0) (.tst ⟨sp, bit w 24, fHint w 23 22, fReg w 21 16, f16 w 11 8⟩)
    | none => none
  | 0x65 => onlyIf (bits w 31 12 == 0) (.tzero (f16 w 11 8))
  | 0x66 =>
    match Elem.ofNat? (bits w 28 25) with
    | some t => onlyIf (!bit w 31 && bits w 23 16 == 0) (.tcvt ⟨.ofCode (bits w 30 29), t, bit w 24, f16 w 15 12, f16 w 11 8⟩)
    | none => none
  | 0x67 => onlyIf (bits w 31 22 == 0 && bits w 15 12 == 0) (.tqry ⟨fReg w 21 16, f16 w 11 8⟩)
  | 0x68 =>
    onlyIf (bits w 31 30 == 0)
      (.scaleacc ⟨bit w 29, .ofCode (bits w 28 27), bit w 26, bit w 25, bit w 24, fHint w 23 22, fReg w 21 16, f16 w 15 12, f16 w 11 8⟩)
  | 0x69 =>
    if bits w 31 27 != 0 then none else
    match bits w 26 25 with
    | 0 => onlyIf (bits w 23 16 == 0) (.tdrainH ⟨bit w 24, f16 w 15 12, f16 w 11 8⟩)
    | 1 => onlyIf (bits w 11 8 == 0) (.tdrainPeer ⟨bit w 24, fHint w 23 22, fReg w 21 16, f16 w 15 12⟩)
    | 2 => onlyIf (bits w 23 16 == 0 && bits w 11 8 == 0) (.tdrainByp ⟨bit w 24, f16 w 15 12⟩)
    | _ => none
  | _ => none

/-- Majors 0x6A to 0x6D (R360). -/
def decMma (m w : Nat) : Option Instr :=
  match Elem.ofNat? (bits w 30 27) with
  | none => none
  | some el =>
    let o : OpMma := ⟨bit w 31, el, f8 w 26 24, fHint w 23 22, fReg w 21 16, f16 w 15 12, f16 w 11 8⟩
    let o8 : OpMma8 := ⟨el, f8 w 26 24, fHint w 23 22, fReg w 21 16, f16 w 15 12, f16 w 11 8⟩
    if o.b.val % el.bRegs != 0 then none else
    match m with
    | 0x6A => some (.mmaFa o) | 0x6B => some (.mmaFb o)
    | 0x6C => onlyIf (bit w 31) (.mmaSp8Fa o8) | 0x6D => onlyIf (bit w 31) (.mmaSp8Fb o8)
    | _ => none

/-- Majors 0x6E to 0x73 (Table 15-1). -/
def decGfx (m w : Nat) : Option Instr :=
  match m with
  | 0x6E => onlyIf (bits w 31 30 == 0 && bits w 8 8 == 0 && bits w 22 22 == 0) (.edge (dOp3X w))
  | 0x6F =>
    if bits w 23 22 != 0 then none else
    match bits w 31 30 with
    | 0 => some (.interpPersp (dOp3X w)) | 1 => some (.interpLin (dOp3X w)) | 2 => some (.interpFlat (dOp3X w)) | _ => none
  | 0x70 =>
    onlyIf (bits w 31 26 == 0) (.deriv ⟨.ofCode (bits w 25 24), bit w 23, bit w 22, fHint w 21 20, fReg w 19 14, fReg w 13 8⟩)
  | 0x71 =>
    if bits w 8 8 != 0 || bits w 14 14 != 0 then none else
    match bits w 31 30 with
    | 0 => some (.texs (dOp3X w)) | 1 => some (.texg (dOp3X w)) | 2 => some (.imld (dOp3X w)) | _ => some (.imst (dOp3X w))
  | 0x72 => onlyIf (bits w 31 25 == 0 && bits w 13 8 == 0 && bits w 15 14 == 0) (.exportOp ⟨f8 w 24 22, fHint w 21 20, fReg w 19 14⟩)
  | 0x73 => onlyIf (!bit w 31) (.infq ⟨bit w 30, fHint w 29 28, fReg w 27 22, fHint w 21 20, fReg w 19 14, fReg w 13 8⟩)
  | _ => none

/-- Majors 0x74 to 0x78 (Table 15-1). -/
def decRay (m w : Nat) : Option Instr :=
  match m with
  | 0x74 =>
    match bits w 31 30 with
    | 0 => onlyIf (bits w 29 22 == 0) (.rqbegin (dOp2 w))
    | 1 => onlyIf (bits w 29 22 == 0 && bits w 13 8 == 0 && bits w 16 14 == 0) (.rqset (dOp1 w))
    | 2 => onlyIf (bits w 29 14 == 0) (.rqstep (fReg w 13 8))
    | _ => onlyIf (bits w 29 14 == 0) (.rqcommit (fReg w 13 8))
  | 0x75 =>
    match bits w 31 30 with
    | 0 => onlyIf (bits w 29 22 == 0) (.rqget (dOp2 w))
    | 1 => onlyIf (bits w 29 8 == 0) .rqend
    | 2 => some (.rqreport (dOp3X w))
    | _ => none
  | 0x76 => onlyIf (bits w 31 22 == 0 && bits w 13 8 == 0) (.card (dOp1 w))
  | 0x77 => onlyIf (bits w 30 22 == 0 && bits w 13 8 == 0) (.bld ⟨bit w 31, fHint w 21 20, fReg w 19 14⟩)
  | 0x78 =>
    match bits w 31 30 with
    | 0 => onlyIf (bits w 29 22 == 0) (.gpin (dOp2 w))
    | 1 => onlyIf (bits w 13 8 == 0) (.gunpin (dOpAB w))
    | 2 => onlyIf (bits w 29 22 == 0) (.gqry (dOp2 w))
    | _ => none
  | _ => none

/-- Majors 0x79 to 0x7D (Table 15-1). -/
def decMemo (m w : Nat) : Option Instr :=
  match m with
  | 0x79 => some (.pureOp ⟨BitVec.ofNat 20 (bits w 31 12), f16 w 11 8⟩)
  | 0x7A => onlyIf (bits w 31 28 == 0 && bits w 13 8 == 0) (.mkey ⟨.ofCode (bits w 27 25), f8 w 24 22, fHint w 21 20, fReg w 19 14⟩)
  | 0x7B => onlyIf (bits w 31 28 == 0 && bits w 24 22 == 0 && bits w 13 8 == 0) (.mexcl ⟨.ofCode (bits w 27 25), fHint w 21 20, fReg w 19 14⟩)
  | 0x7C => onlyIf (bits w 31 29 == 0 && bits w 21 14 == 0 && bits w 8 8 == 0) (.mprobe ⟨f8 w 28 26, f16 w 25 22, fU w 13 9⟩)
  | 0x7D => onlyIf (bits w 31 29 == 0 && bits w 14 8 == 0) (.mstore ⟨f8 w 28 26, f16 w 25 22, fHint w 21 20, fU w 19 15⟩)
  | _ => none

/-- The 32-bit instruction whose bits are `w` (Table 11-6). -/
def decode32 (w : Nat) : Option Instr :=
  let m := bits w 7 1
  if m < 0x1B then decInt m w else
  if m < 0x21 then decImm m w else
  if m < 0x2E then decFloat m w else
  if m < 0x30 then decSpecial m w else
  if m < 0x35 then decControl m w else
  if m < 0x3D then decCross m w else
  if m < 0x41 then decUniform m w else
  if m < 0x51 then decMem m w else
  if m < 0x57 then decSync m w else
  if m < 0x5F then decSystem m w else
  if m < 0x6A then decTile m w else
  if m < 0x6E then decMma m w else
  if m < 0x74 then decGfx m w else
  if m < 0x79 then decRay m w else
  decMemo m w

/-- The 16-bit instruction or prefix whose bits are `w` (Table 11-7, R257). -/
def decode16 (w : Nat) : Option Instr :=
  let o : OpS := ⟨fU w 15 11, fReg w 10 5⟩
  let oi : OpSI := ⟨BitVec.ofNat 5 (bits w 15 11), fReg w 10 5⟩
  match bits w 4 1 with
  | 0x0 => some (.add16 o) | 0x1 => some (.sub16 o) | 0x2 => some (.and16 o) | 0x3 => some (.or16 o) | 0x4 => some (.xor16 o)
  | 0x5 =>
    if bits w 9 5 != bits w 15 11 then some (.mov16 o) else
    if bit w 10 then onlyIf (bits w 15 14 == 0) (.modePrefix (bit w 13) (.ofCode (bits w 12 11)))
    else some (.guardPrefix (bit w 15) (f16 w 14 11))
  | 0x6 => some (.addi16 oi) | 0x7 => some (.movi16 oi) | 0x8 => some (.shli16 oi) | 0x9 => some (.shri16 oi)
  | 0xA => some (.fadd16 o) | 0xB => some (.fmul16 o) | 0xC => some (.fsub16 o) | 0xD => some (.hadd16 o)
  | 0xE => some (.hmul16 o) | _ => some (.sari16 oi)

/-- Bit 0 of the first halfword gives the length (R253): the length in bytes of the instruction that starts so. -/
def lengthOf (half : Nat) : Nat := if bit half 0 then 4 else 2

/-- Reads one instruction from a list of bytes and answers it with the bytes that follow (R253, little-endian). -/
def decodeBytes : List Byte → Option (Instr × List Byte)
  | b0 :: b1 :: rest =>
    let h := b0.toNat + 256 * b1.toNat
    if bit h 0 then
      match rest with
      | b2 :: b3 :: rest' => (decode32 (h + 65536 * b2.toNat + 16777216 * b3.toNat)).map (·, rest')
      | _ => none
    else (decode16 h).map (·, rest)
  | _ => none

/-- The n bytes of a number, least significant first (R2). -/
def leBytes : Nat → Nat → List Byte
  | 0, _ => []
  | n + 1, w => BitVec.ofNat 8 w :: leBytes n (w / 256)

/-- The instruction the decoder reads from a table row's word; the bits above nbits are zero up to four bytes. -/
def decodeTableWord (nbits w : Nat) : Option Instr := (decodeBytes (leBytes 4 (w % 2 ^ nbits))).map (·.1)

/-! ### The encoder, from the same tables -/

/-- An encoding: its length in bytes and its bits. -/
structure Enc where
  (len : Nat) (w : Nat)
  deriving DecidableEq, Repr

/-- A 32-bit word of major `m` with the bits `r` above bit 7. -/
def enc32 (m r : Nat) : Enc := ⟨4, 1 + 2 * m + 256 * r⟩

/-- Format A above bit 7: X, HB, B, HA, A, D (Table 11-2). -/
def eA (x : Nat) (hb : Hint) (b : Nat) (ha : Hint) (a d : Nat) : Nat :=
  d + 64 * a + 4096 * ha.code + 16384 * b + 1048576 * hb.code + 4194304 * x
def eOp3 (m : Nat) (o : Op3) : Enc := enc32 m (eA o.wid.code o.hb o.b.val o.ha o.a.val o.d.val)
def eOp3F (m : Nat) (o : Op3F) : Enc := enc32 m (eA o.ft.code o.hb o.b.val o.ha o.a.val o.d.val)
def eOp3X (m x : Nat) (o : Op3X) : Enc := enc32 m (eA x o.hb o.b.val o.ha o.a.val o.d.val)
def eOpAB (m x : Nat) (o : OpAB) : Enc := enc32 m (eA x o.hb o.b.val o.ha o.a.val 0)
/-- Format U above bit 7: FN, HA, A, D (Table 11-2). -/
def eU (f : Nat) (ha : Hint) (a d : Nat) : Nat := d + 64 * a + 4096 * ha.code + 16384 * f
def eOp2 (m f : Nat) (o : Op2) : Enc := enc32 m (eU f o.ha o.a.val o.d.val)
def eOp2F (m f : Nat) (o : Op2F) : Enc := enc32 m (eU f o.ha o.a.val o.d.val)
def eOpSh (op : Nat) (o : OpSh) : Enc := enc32 0x1E (eU (o.cnt.val + 64 * o.wid.code + 256 * op) o.ha o.a.val o.d.val)
def eOpL (m : Nat) (i : BitVec 16) (q d : Nat) : Enc := enc32 m (d + 64 * q + 256 * i.toNat)
def eOpCmp (m : Nat) (o : OpCmp) : Enc :=
  enc32 m (b2n o.w + 2 * o.ha.code + 8 * o.a.val + 512 * o.hb.code + 2048 * o.b.val + 131072 * o.cond.code + 1048576 * o.pd.val)
def eU3 (m x : Nat) (o : OpU3) : Enc := enc32 m (eA x o.hb o.b.val o.ha o.a.val o.d.val)
def eShfli (x : Nat) (o : OpShfli) : Enc := enc32 0x36 (eU (o.v.val + 64 * o.wid.code + 256 * x) o.ha o.a.val o.d.val)
def eVote (x : Nat) (o : OpVote) : Enc := enc32 0x38 (o.d.val + 16 * o.a.val + 65536 * x)
def eRed (x : Nat) (o : OpRed) : Enc := enc32 0x3B (eU (o.ty.code + 256 * x) o.ha o.a.val o.d.val)
/-- Format M above bit 7 (Table 11-2). -/
def eM (off q sp : Nat) (ha : Hint) (a d : Nat) : Nat := d + 64 * a + 4096 * ha.code + 16384 * sp + 65536 * q + 262144 * off
def eLd (m : Nat) (o : OpLd) : Enc := enc32 m (eM o.off.toNat o.q.code o.sp.code o.ha o.a.val o.d.val)
/-- Format N above bit 7 (Table 11-2). -/
def eN (off q : Nat) (hs : Hint) (sp : Nat) (ha : Hint) (a s : Nat) : Nat :=
  s + 64 * a + 4096 * ha.code + 16384 * sp + 65536 * hs.code + 262144 * q + 1048576 * off
def eSt (m : Nat) (o : OpSt) : Enc := enc32 m (eN o.off.toNat o.q.code o.hs o.sp.code o.ha o.a.val o.s.val)
def eAtom (m : Nat) (o : OpAtom) : Enc :=
  enc32 m (o.d.val + 64 * o.hd.code + 256 * o.a.val + 16384 * o.ha.code + 65536 * o.op.code + 1048576 * b2n o.w64
    + 2097152 * o.sp.code + 4194304 * o.ord.code)
def eFifo (op : Nat) (o : OpFifo) : Enc :=
  enc32 0x56 (o.d.val + 64 * o.hs.code + 256 * o.f.val + 4096 * o.pd.val + 65536 * op + 131072 * o.n.val)
/-- Format T above bit 7 (Table 11-2). -/
def eT (sub fs : Nat) (ha : Hint) (a ta td : Nat) : Nat := td + 16 * ta + 256 * a + 16384 * ha.code + 65536 * fs + 131072 * sub
def eHA (m : Nat) (o : OpHA) : Enc := enc32 m (eT 0 0 o.ha o.a.val 0 o.h.val)
def eTmem (m : Nat) (o : OpTmem) : Enc := enc32 m (eT o.sp.code (b2n o.fs) o.ha o.a.val 0 o.h.val)
/-- Format Q above bit 7 (Table 11-2). -/
def eQ (fmt n : Nat) (hb : Hint) (b ta td : Nat) : Nat := td + 16 * ta + 256 * b + 16384 * hb.code + 65536 * n + 524288 * fmt
def eMma (m : Nat) (o : OpMma) : Enc := enc32 m (eQ (o.el.code + 16 * b2n o.sparse) o.n.val o.hb o.b.val o.ta.val o.td.val)
def eMma8 (m : Nat) (o : OpMma8) : Enc := enc32 m (eQ (o.el.code + 16) o.n.val o.hb o.b.val o.ta.val o.td.val)
def eZ (k : Nat) : Enc := enc32 0x51 k
/-- A 16-bit form: OP16, D and A (R267). -/
def e16 (op d a : Nat) : Enc := ⟨2, 2 * op + 32 * d + 2048 * a⟩
def eS (op : Nat) (o : OpS) : Enc := e16 op o.d.val o.a.val
def eSI (op : Nat) (o : OpSI) : Enc := e16 op o.d.val o.i.toNat

/-- The words of an instruction; none for a step of another agent, which has no encoding. -/
def encode : Instr → Option Enc
  | .add o => some (eOp3 0x01 o) | .sub o => some (eOp3 0x02 o) | .mul o => some (eOp3 0x03 o)
  | .mulhiS o => some (eOp3 0x04 o) | .mulhiN o => some (eOp3 0x05 o) | .addsatS o => some (eOp3 0x06 o)
  | .addsatN o => some (eOp3 0x07 o) | .subsatS o => some (eOp3 0x08 o) | .subsatN o => some (eOp3 0x09 o)
  | .minS o => some (eOp3 0x0A o) | .minN o => some (eOp3 0x0B o) | .maxS o => some (eOp3 0x0C o)
  | .maxN o => some (eOp3 0x0D o) | .andOp o => some (eOp3 0x0E o) | .orOp o => some (eOp3 0x0F o)
  | .xor o => some (eOp3 0x10 o) | .andn o => some (eOp3 0x11 o) | .shl o => some (eOp3 0x12 o)
  | .shr o => some (eOp3 0x13 o) | .sar o => some (eOp3 0x14 o) | .rotl o => some (eOp3 0x15 o)
  | .bfeS o => some (eOp3 0x16 o) | .bfeN o => some (eOp3 0x17 o) | .bfi o => some (eOp3 0x18 o)
  | .madd o => some (eOp3 0x19 o) | .sel o => some (eOp3X 0x1A 3 o)
  | .popc o => some (enc32 0x1B (eU (0 + 4 * o.wid.code) o.ha o.a.val o.d.val))
  | .clz o => some (enc32 0x1B (eU (1 + 4 * o.wid.code) o.ha o.a.val o.d.val))
  | .ctz o => some (enc32 0x1B (eU (2 + 4 * o.wid.code) o.ha o.a.val o.d.val))
  | .brev o => some (enc32 0x1B (eU (3 + 4 * o.wid.code) o.ha o.a.val o.d.val))
  | .addImm o => some (enc32 0x1C (eU o.imm.toNat o.ha o.a.val o.d.val))
  | .andImm o => some (enc32 0x1D (eU o.imm.toNat o.ha o.a.val o.d.val))
  | .shlImm o => some (eOpSh 0 o) | .shrImm o => some (eOpSh 1 o) | .sarImm o => some (eOpSh 2 o) | .rotlImm o => some (eOpSh 3 o)
  | .movz o => some (eOpL 0x1F o.imm o.q.val o.d.val) | .movk o => some (eOpL 0x20 o.imm o.q.val o.d.val)
  | .addF o => some (eOp3F 0x21 o) | .subF o => some (eOp3F 0x22 o) | .mulF o => some (eOp3F 0x23 o)
  | .fma o => some (eOp3F 0x24 o) | .minF o => some (eOp3F 0x25 o) | .maxF o => some (eOp3F 0x26 o)
  | .classOp o => some (eOp2F 0x27 o.ft.code o) | .rnd o => some (eOp2F 0x28 o.ft.code o)
  | .cmpS o => some (eOpCmp 0x29 o) | .cmpN o => some (eOpCmp 0x2A o)
  | .cmpF32F64 o => some (eOpCmp 0x2B o) | .cmpF16Bf16 o => some (eOpCmp 0x2C o)
  | .cvt o => some (enc32 0x2D (eU (o.src.code + 32 * o.dst.code) o.ha o.a.val o.d.val))
  | .rcp o => some (eOp2F 0x2E (0 + 256 * o.ft.code) o) | .sqrt o => some (eOp2F 0x2E (1 + 256 * o.ft.code) o)
  | .rsqrt o => some (eOp2F 0x2E (2 + 256 * o.ft.code) o) | .log2 o => some (eOp2F 0x2E (3 + 256 * o.ft.code) o)
  | .exp2 o => some (eOp2F 0x2E (4 + 256 * o.ft.code) o) | .tolog o => some (eOp2F 0x2E (5 + 256 * o.ft.code) o)
  | .fromlog o => some (eOp2F 0x2E (6 + 256 * o.ft.code) o)
  | .lsqrt o => some (eOp2 0x2E 7 o) | .lrcp o => some (eOp2 0x2E 8 o)
  | .lmul o => some (eOp3X 0x2F 0 o) | .ldiv o => some (eOp3X 0x2F 1 o) | .lpow o => some (eOp3X 0x2F 2 o)
  | .plop o => some (enc32 0x30 (o.pd.val + 16 * o.pa.val + 256 * o.pb.val + 4096 * o.pc.val + 65536 * o.lut.toNat))
  | .bra o => some (enc32 0x31 (o.bh.code + 4 * o.p.val + 64 * b2n o.neg + 128 * o.off.toNat))
  | .call o => some (enc32 0x32 (o.d.val + 64 * o.off.toNat))
  | .jmp o => some (enc32 0x33 (eU o.bh.code o.ha o.a.val 0))
  | .jset o => some (enc32 0x34 (o.a.val + 64 * o.ha.code + 4096 * o.n.val))
  | .jarrive n => some (enc32 0x34 (4096 * n.val + 65536))
  | .jwait o => some (enc32 0x34 (256 * o.p.val + 4096 * o.n.val + 131072))
  | .shfl o => some (eOp3 0x35 o)
  | .shfliIdx o => some (eShfli 0 o) | .shfliUp o => some (eShfli 1 o) | .shfliDown o => some (eShfli 2 o) | .shfliXor o => some (eShfli 3 o)
  | .bcast o => some (enc32 0x37 (eU o.p.val o.ha o.a.val o.d.val))
  | .voteAny o => some (eVote 0 o) | .voteAll o => some (eVote 1 o) | .voteUni o => some (eVote 2 o)
  | .ballot o => some (enc32 0x39 (eU o.n.val .none 0 o.d.val))
  | .matchOp o => some (enc32 0x3A (eU o.wid.code o.ha o.a.val o.d.val))
  | .reduceAdd o => some (eRed 0 o) | .reduceMin o => some (eRed 1 o) | .reduceMax o => some (eRed 2 o)
  | .xmovG o => some (enc32 0x3C (eU 0 o.ha o.a.val o.d.val)) | .xmovW o => some (enc32 0x3C (eU 1 o.ha o.a.val o.d.val))
  | .addU o => some (eU3 0x3D 0 o) | .subU o => some (eU3 0x3D 1 o) | .andU o => some (eU3 0x3D 2 o) | .orU o => some (eU3 0x3D 3 o)
  | .xorU o => some (eU3 0x3E 0 o) | .shlU o => some (eU3 0x3E 1 o) | .shrU o => some (eU3 0x3E 2 o) | .mulU o => some (eU3 0x3E 3 o)
  | .addUimm o => some (enc32 0x3F (eU o.imm.toNat o.ha o.a.val o.d.val))
  | .movkU o => some (eOpL 0x40 o.imm o.q.val o.d.val)
  | .ldS8 o => some (eLd 0x41 o) | .ldN8 o => some (eLd 0x42 o) | .ldS16 o => some (eLd 0x43 o) | .ldN16 o => some (eLd 0x44 o)
  | .ldS32 o => some (eLd 0x45 o) | .ldN32 o => some (eLd 0x46 o) | .ldB64 o => some (eLd 0x47 o)
  | .ldq o => some (enc32 0x48 (eM o.off.toNat o.q.code o.sp.code o.ha o.a.val (2 * o.d.val)))
  | .stB8 o => some (eSt 0x49 o) | .stB16 o => some (eSt 0x4A o) | .stB32 o => some (eSt 0x4B o) | .stB64 o => some (eSt 0x4C o)
  | .stq o => some (enc32 0x4D (eN o.off.toNat o.q.code o.hs o.sp.code o.ha o.a.val (2 * o.s.val)))
  | .ldrl o => some (enc32 0x4E (eA o.sp.code o.hb o.b.val o.ha o.a.val (4 * o.d.val)))
  | .atom o => some (eAtom 0x4F o) | .ared o => some (eAtom 0x50 o)
  | .nop => some (eZ 0) | .fenceAcq => some (eZ 1) | .fenceRel => some (eZ 2) | .fenceAr => some (eZ 3) | .bar => some (eZ 4)
  | .barG => some (eZ 5) | .yield => some (eZ 6) | .tret => some (eZ 7) | .discard => some (eZ 8) | .pend => some (eZ 9) | .exit => some (eZ 10)
  | .trap c => some (enc32 0x52 c.toNat)
  | .bobjArrive o => some (enc32 0x53 (eU 0 o.ha o.a.val o.d.val))
  | .bobjExpect o => some (eOp3X 0x53 1 o) | .bobjInit o => some (eOpAB 0x53 2 o)
  | .waitaPhase o => some (eOp3X 0x54 0 o) | .waitaGe o => some (eOp3X 0x54 1 o) | .waitaEq o => some (eOp3X 0x54 2 o)
  | .waitm o => some (enc32 0x55 (eU 0 o.ha o.a.val o.h.val))
  | .pop o => some (eFifo 0 o) | .push o => some (eFifo 1 o)
  | .qpost o => some (enc32 0x57 (eA 0 o.hb (8 * o.b.val) o.ha o.a.val o.d.val))
  | .copy o => some (enc32 0x58 (eU (512 * b2n o.fs) o.ha (8 * o.a.val) 0))
  | .permit o => some (enc32 0x59 (eA 0 o.hb o.b.val o.ha o.a.val o.h.val))
  | .grow o => some (eOp2 0x5A 0 o)
  | .smov o => some (enc32 0x5B (eU o.n.val .none 0 o.d.val))
  | .mrd o => some (eOp2 0x5C 0 o) | .mwr o => some (eOpAB 0x5D 0 o)
  | .pref o => some (enc32 0x5E (eM o.off.toNat o.lvl.code o.sp.code o.ha o.a.val 0))
  | .talloc o => some (enc32 0x5F (eT (b2n o.z) 0 o.ha o.a.val 0 o.h.val))
  | .tfree h => some (enc32 0x60 h.val) | .thand o => some (eHA 0x61 o) | .tacc o => some (eHA 0x62 o)
  | .tld o => some (eTmem 0x63 o) | .tst o => some (eTmem 0x64 o) | .tzero h => some (enc32 0x65 h.val)
  | .tcvt o => some (enc32 0x66 (eT (o.t.code + 16 * o.mode.code) (b2n o.fs) .none 0 o.ta.val o.td.val))
  | .tqry o => some (enc32 0x67 (eT 0 0 .none o.a.val 0 o.h.val))
  | .scaleacc o =>
    some (enc32 0x68 (eT (b2n o.ua + 2 * b2n o.ub + 4 * o.mode.code + 16 * b2n o.i32) (b2n o.fs) o.ha o.a.val o.ta.val o.td.val))
  | .tdrainH o => some (enc32 0x69 (eT 0 (b2n o.fs) .none 0 o.ta.val o.td.val))
  | .tdrainPeer o => some (enc32 0x69 (eT 1 (b2n o.fs) o.ha o.a.val o.ta.val 0))
  | .tdrainByp o => some (enc32 0x69 (eT 2 (b2n o.fs) .none 0 o.ta.val 0))
  | .mmaFa o => some (eMma 0x6A o) | .mmaFb o => some (eMma 0x6B o)
  | .mmaSp8Fa o => some (eMma8 0x6C o) | .mmaSp8Fb o => some (eMma8 0x6D o)
  | .edge o => some (eOp3X 0x6E 0 o)
  | .interpPersp o => some (eOp3X 0x6F 0 o) | .interpLin o => some (eOp3X 0x6F 1 o) | .interpFlat o => some (eOp3X 0x6F 2 o)
  | .deriv o => some (enc32 0x70 (eU (b2n o.y + 2 * b2n o.fine + 4 * o.ft.code) o.ha o.a.val o.d.val))
  | .texs o => some (eOp3X 0x71 0 o) | .texg o => some (eOp3X 0x71 1 o) | .imld o => some (eOp3X 0x71 2 o) | .imst o => some (eOp3X 0x71 3 o)
  | .exportOp o => some (enc32 0x72 (eU o.n.val o.ha o.a.val 0))
  | .infq o => some (enc32 0x73 (eA (b2n o.fs) o.hb o.b.val o.ha o.a.val o.d.val))
  | .rqbegin o => some (eOp2 0x74 0 o)
  | .rqset o => some (enc32 0x74 (eU 256 o.ha o.a.val 0))
  | .rqstep d => some (enc32 0x74 (eU 512 .none 0 d.val)) | .rqcommit d => some (enc32 0x74 (eU 768 .none 0 d.val))
  | .rqget o => some (eOp2 0x75 0 o) | .rqend => some (enc32 0x75 (eU 256 .none 0 0)) | .rqreport o => some (eOp3X 0x75 2 o)
  | .card o => some (enc32 0x76 (eU 0 o.ha o.a.val 0))
  | .bld o => some (enc32 0x77 (eU (512 * b2n o.fs) o.ha o.a.val 0))
  | .gpin o => some (eOp2 0x78 0 o) | .gunpin o => some (eOpAB 0x78 1 o) | .gqry o => some (eOp2 0x78 512 o)
  | .pureOp o => some (enc32 0x79 (o.t.val + 16 * o.off.toNat))
  | .mkey o => some (enc32 0x7A (eU (o.cls.val + 8 * o.kind.code) o.ha o.a.val 0))
  | .mexcl o => some (enc32 0x7B (eU (8 * o.kind.code) o.ha o.a.val 0))
  | .mprobe o => some (enc32 0x7C (eU (o.t.val + 16 * o.p.val) .none 0 (2 * o.d.val)))
  | .mstore o => some (enc32 0x7D (eU (o.t.val + 16 * o.p.val) o.ha (2 * o.a.val) 0))
  | .add16 o => some (eS 0x0 o) | .sub16 o => some (eS 0x1 o) | .and16 o => some (eS 0x2 o) | .or16 o => some (eS 0x3 o)
  | .xor16 o => some (eS 0x4 o) | .mov16 o => some (eS 0x5 o) | .addi16 o => some (eSI 0x6 o) | .movi16 o => some (eSI 0x7 o)
  | .shli16 o => some (eSI 0x8 o) | .shri16 o => some (eSI 0x9 o) | .fadd16 o => some (eS 0xA o) | .fmul16 o => some (eS 0xB o)
  | .fsub16 o => some (eS 0xC o) | .hadd16 o => some (eS 0xD o) | .hmul16 o => some (eS 0xE o) | .sari16 o => some (eSI 0xF o)
  | .guardPrefix neg p => some (e16 5 (p.val + 16 * b2n neg) (p.val + 16 * b2n neg))
  | .modePrefix ftz m => some (e16 5 (32 + m.code + 4 * b2n ftz) (m.code + 4 * b2n ftz))
  | _ => none

end Sys2Proof
end

