-- ==== Sys2Proof/Machine/State.lean ====
section
/-! DEFINITION. The state of the device as plain data, the reasons a step can stop, and the state right after reset.
Tables of objects are lists of a number and a record in rising order of number; a number that is not listed names an
object that does not exist or that holds its reset values. INVENTORY.md lists every field with its rule. -/

namespace Sys2Proof.Machine

/-- Reasons for which the machine stops with a fault. Every exception the spec describes is taken as a next state. -/
inductive Fault where
  /-- Raised by an event whose operand names a unit that Table 1-1 does not number; safe, since no such event arises. -/
  | noSuchUnit
  deriving DecidableEq, Repr

/-- Reasons for which the model refuses an instruction. -/
inductive Refusal where
  /-- Raised by an arm of `exec` for an instruction with no meaning yet; safe, since the run stops there. -/
  | notModelled (mnemonic : String)
  deriving DecidableEq, Repr

/-- A table of records by number, in rising order of number. -/
abbrev Tab (α : Type) := List (Nat × α)

/-! ### Memory -/

/-- A translation cached by a core (R77): context, first virtual address, bytes, and the entry's value. -/
structure TlbEntry where
  (ctx : Nat) (va : Nat) (size : Nat) (entryPa : Nat) (value : Nat)
  deriving DecidableEq, Repr

/-- All bytes of the machine and what is kept beside them. Keys are those of `Machine/Mem.lean`. -/
structure MemSys where
  /-- Listed bytes, in rising order of key, none 0x00. -/
  (cells : List Host.Cell)
  /-- Poisoned ranges: first key and bytes (R454). -/
  (poison : List (Nat × Nat))
  /-- Full granules of scratchpad, by key of the first byte (R67). -/
  (full : List Nat)
  /-- Ownership registry: line number to owners, each a cluster and the word mask, earlier owner first (R72, R90). -/
  (registry : Tab (List (Nat × Nat)))
  /-- The metadata region: the 4-bit code of each device block, by block number, 0 where none is listed (R81, Table 3-9); 16,
  metadata that the next fetch finds uncorrectable (R456). -/
  (blockCode : Tab Nat)
  /-- Context that last held a 4 KiB page of a cluster's SRAM, by key divided by 4096 (R60). -/
  (pageHolder : Tab Nat)
  /-- Context that last held a tile chunk, by 512 × core + chunk (R70). -/
  (chunkHolder : Tab Nat)
  /-- Granules that a setting write has reached in the cycle under way: key, whether the granule was full before, and its bytes
  from before the first such write (R69). -/
  (filled : List (Nat × Bool × List Byte))
  deriving DecidableEq, Repr

/-! ### Clocks (R237, R243, R244) -/

structure Clocks where
  /-- Front cycles of each cluster since start. -/
  (front : List Nat)
  /-- Front cycles of the fabric since start. -/
  (fabric : Nat)
  /-- Always-on clock periods since start. -/
  (ao : Nat)
  /-- Phases of the front clocks, the fabric clock and the always-on clock (the model's own). -/
  (phases : List Nat)
  (fabricPhase : Nat)
  (aoPhase : Nat)
  /-- Fabric front-clock step (R244). -/
  (fabricStep : Nat)
  /-- Clocks stopped by a thermal emergency: the always-on count of its entry, and the sensor that brought it (R495). -/
  (stopped : Option Nat)
  (stoppedBy : Nat)
  /-- The device is shut down until a power cycle (R496). -/
  (shut : Bool)
  deriving DecidableEq, Repr

/-! ### Clusters -/

/-- One SRAM bank: its current mode, and the target while a release is in progress (R62). -/
structure Bank where
  (mode : Nat) (target : Option Nat)
  deriving DecidableEq, Repr

/-- A valid memo entry (Table 7-7). -/
structure MemoEntry where
  (table : Nat) (slot : Nat) (key : Nat) (ctx : Nat) (plen : Nat) (age : Nat) (parity : Nat) (cost : Nat) (payload : List Byte)
  deriving DecidableEq, Repr

/-- Audit counters (Table 7-10). -/
structure Audit where
  (mismatch : Nat) (audited : Nat) (tileMis : Nat)
  deriving DecidableEq, Repr

/-- A request of the inference queue of a cluster (R190, R381): requester, its flag (12 for none), context and grid, the
network descriptor's address and value, first output register, memo key, pending audit, front cycle of enqueue, input words;
dropped by a discard (R380); the batch that it has joined. -/
structure InfReq where
  (id : Nat) (thread : Nat) (flag : Nat) (ctx : Nat) (grid : Nat) (net : Nat) (desc : Nat) (dst : Nat) (key : Option Nat) (audit : Bool)
  (since : Nat) (input : List Word) (dropped : Bool) (batch : Option Nat)
  deriving DecidableEq, Repr

/-- A batch of the inference queue (R190): its requests in order, its team, the front cycle of its launch, and the requests
whose thread of the team ended in a handler (R481). -/
structure InfBatch where
  (id : Nat) (ctx : Nat) (desc : Nat) (reqs : List Nat) (grid : Nat) (launched : Nat) (failed : List Nat)
  deriving DecidableEq, Repr

structure Cluster where
  (bankMode : Word)
  (banks : List Bank)
  (throttle : Nat) (fstep : Nat) (cur : Nat) (req : Nat)
  /-- The front step in force (R244), and FSTEP at the last governor interval (R246). -/
  (step : Nat) (base : Nat)
  (gap : Nat) (wave : Nat)
  (memoTable : List Word)
  (memo : List MemoEntry)
  (audit : Audit)
  /-- Memo hits of each context, modulo its AUDITK (R188). -/
  (hits : Tab Nat)
  (skipCnt : Word) (hitCnt : Word) (savedFc : Word)
  (infReqs : List InfReq) (infBatches : List InfBatch)
  /-- Threads that found the inference queue full, in order, each with the address of its infq (R190). -/
  (infWait : List (Nat × Nat))
  /-- Words held in the cluster cache that the cluster does not own: key and value of each byte (R91). -/
  (copies : List Host.Cell)
  /-- Lines of the cluster cache, by line number, the most recently used one first (R63). -/
  (lines : List Nat)
  /-- Accesses rejected for want of a miss entry, in order of first rejection (R85). -/
  (rejected : List Nat)
  /-- Forage requests: outstanding to a cluster, empty replies so far, end of the wait (R148). -/
  (forage : Option Nat) (empties : Nat) (forageWait : Option Nat)
  /-- Issue slots since the last governor interval that carried threads of a context (R248). -/
  (slots : Tab Nat)
  deriving DecidableEq, Repr

/-! ### Threads -/

/-- Handler levels (R432). -/
inductive Level where | user | kernel | sup
  deriving DecidableEq, Repr

/-- The clause in force (R254): header address, end of the body, flags, policy, and the registers whose poison waits
for the clause's end (R262). -/
structure Clause where
  (hdr : Nat) (fin : Nat) (setA : Nat) (setB : Nat) (policy : Nat) (poison : List Nat)
  deriving DecidableEq, Repr

/-- What an access does when it is performed (R95); `hold` is a synchronising access or an atomic that was rejected for want of
a miss entry and issues again when one is kept for it (R85). -/
inductive AccKind where
  | load (z : Nat) (signed : Bool) (d : Nat)
  | ldq (d : Nat)
  | ldrl (d : Nat) (b : Nat)
  | store (z : Nat) (v : Word) (v2 : Word)
  | hold
  deriving DecidableEq, Repr

/-- Why a thread is Blocked (Table 2-5), with what its instruction still needs. -/
inductive Why where
  | join (n : Nat) (pd : Nat)
  | bar (g : Bool)
  | waitaPhase (a : Word) (b : Word) (d : Nat)
  | waitaGe (a : Word) (b : Word) (d : Nat)
  | waitaEq (a : Word) (b : Word) (d : Nat)
  | waitm (h : Nat) (mask : Word)
  /-- At a consuming load of an empty granule: the place of its instruction in issue order, whether it clears the granule, the
  address, and what it loads (R68). -/
  | granule (key : Nat) (seq : Nat) (clear : Bool) (addr : Nat) (kind : AccKind)
  | pop (f n d pd : Nat)
  | push (f n d pd : Nat)
  | card (key : Nat)
  /-- At a tacc without a matching offer: its handle, the sender asked for, and its place in issue order (R352). -/
  | tacc (h : Nat) (sender : Nat) (seq : Nat)
  /-- At a tfree whose tile has operations or permits left (R351); it is Waiting by Table 2-5. -/
  | tfree (tile : Nat)
  | exiting
  /-- At a qpost whose packet is not yet posted: descriptor address, claimed index, slot, packet words, D (R329). It is
  Waiting, not Blocked, by Table 2-5. -/
  | post (a i slot : Nat) (packet : List Word) (d : Nat)
  /-- Named in a trap entry not yet delivered (R425); the flag says Blocked at something else before. -/
  | trap
  deriving DecidableEq, Repr

/-- What a thread is doing (Table 2-5). Waiting is Ready with a stall; Suspended is a state of its team. -/
inductive Run where
  | ready
  | blocked (why : Why)
  | exited
  deriving DecidableEq, Repr

/-- A handler level that a thread has entered: the level and clause to return to, and what it was blocked at (R431). -/
structure Entered where
  (level : Level) (back : Option Clause) (supFrame : Bool)
  deriving DecidableEq, Repr

/-- An open memo region (R391). -/
structure Region where
  (pureAt : Nat) (table : Nat) (finAt : Nat) (fold : List Word) (finished : Option Nat) (unusable : Bool)
  (audit : Bool) (since : Nat) (mode : Nat)
  deriving DecidableEq, Repr

/-- The instance that a traversal is below (R201): the object-space ray as FP32 codes, and fields of the instance node. -/
structure RayInst where
  (o : List Nat) (d : List Nat) (off : Nat) (idx : Nat) (id : Nat) (fopq : Bool) (fnopq : Bool) (nocull : Bool)
  deriving DecidableEq, Repr

/-- An entry of a traversal stack: node reference, FP32 code of its entry distance, depth in its level, instance. -/
structure RayStep where
  (ref : Nat) (ent : Nat) (depth : Nat) (inst : Option RayInst)
  deriving DecidableEq, Repr

/-- A candidate or committed hit of a ray query (Table 15-8); distances and coordinates are FP32 codes. -/
structure RayHit where
  (kind : Nat) (t : Nat) (u : Nat) (v : Nat) (prim : Nat) (geom : Nat) (front : Bool) (isOpaque : Bool) (instIdx : Nat)
  (instId : Nat) (index : Nat) (record : Nat) (attrs : Nat) (tentry : Nat) (texit : Nat) (obj : List Nat)
  (accepted : Bool) (reused : Bool)
  deriving DecidableEq, Repr

/-- A ray query (R382 to R387): phase 0 Idle, 1 Active, 2 Done; its descriptor, which outlives the query; what it pins; the
key of its reuse (R213); an audited hit pending (R188); whether it has reported a candidate or raised a cause. -/
structure Query where
  (phase : Nat) (desc : Option (List Word)) (hdr : Nat) (gen : Nat) (pinned : Bool) (stack : List RayStep)
  (cand : Option RayHit) (commit : Option RayHit) (tmax : Nat) (key : Option Nat) (audit : Bool) (reported : Bool) (faulted : Bool)
  (since : Nat)
  deriving DecidableEq, Repr

/-- An asynchronous entry held for a thread (R449): which failure it reports, the counts that fall when it has entered the
queue, and the place to go back to where that is not the thread's next instruction (R444). -/
structure HeldAsync where
  (fail : Nat) (cause : Nat) (info : Word) (more : Bool) (decs : List (Nat × Nat)) (back : Option (Nat × Option Clause))
  deriving DecidableEq, Repr

structure Thread where
  (gang : Nat) (pos : Nat) (tid : Nat)
  (g : Vector Word 64) (p : BitVec 16) (f : Vector Nat 12)
  (pc : Nat)
  /-- The halfword after the instruction that blocked the thread. -/
  (after : Nat)
  (clause : Option Clause)
  /-- While Blocked: the registers that the instruction's last-use hints poison when the thread goes on, and those whose
  poison then waits for the end of the clause (R262). -/
  (hintNow : List Nat) (hintEnd : List Nat)
  (run : Run)
  /-- Ready time: the front cycle of the last entry to Ready (R153). -/
  (since : Nat)
  (entered : List Entered)
  (held : List HeldAsync)
  (region : Option Region)
  (query : Option Query)
  /-- The program counter as the thread's save record has it (R523). -/
  (savedPc : Nat)
  deriving DecidableEq, Repr

/-! ### Gangs -/

/-- Join states (R38). -/
inductive JState where | idle | opened | complete | abandoned
  deriving DecidableEq, Repr

/-- A signature recorded on a join (R361). -/
structure Sig where
  (pos : Nat) (thread : Nat) (major : Nat) (fmt : Nat) (ta : Nat) (td : Nat) (b : List Word) (flag : Nat) (pc : Nat)
  (clause : Option Clause)
  deriving DecidableEq, Repr

structure Join where
  (st : JState) (expected : Nat) (arrived : Nat) (sigs : List Sig)
  deriving DecidableEq, Repr

/-- A trap entry (Table 18-2). -/
structure Entry where
  (info : Word) (mask : Nat) (pc : Nat) (more : Bool) (cause : Nat) (after : Nat)
  deriving DecidableEq, Repr

/-- An entry that has not entered the queue yet (R426), its threads, the INFO that each of them brings (R423), and the place of
its instruction in issue order. -/
structure Raised where
  (entry : Entry) (threads : List Nat) (infos : List (Nat × Word)) (seq : Nat)
  deriving DecidableEq, Repr

/-- A delivery in progress: the level, the threads that have not ended it (R431), and all that its entry names. -/
structure Delivery where
  (sup : Bool) (left : List Nat) (named : List Nat)
  deriving DecidableEq, Repr

/-- A register, predicate or uniform register in the undo log (R434). -/
inductive UndoReg where | g (n : Nat) | p (n : Nat) | w (n : Nat)
  deriving DecidableEq, Repr

/-- An undo-log entry: the accesses it waits for, and the old value for each thread (R434). -/
structure Undo where
  (order : Nat) (reg : UndoReg) (old : List (Nat × Word)) (waits : List Nat)
  deriving DecidableEq, Repr

/-- An offer of a tile (R352): the sender's gang number and the front cycle of the offer. -/
structure Offer where
  (tile : Nat) (sender : Nat) (since : Nat)
  deriving DecidableEq, Repr

/-- A fragment work item or other item that a stage gang shades (R379). -/
structure Item where
  (frame : Nat) (item : Nat)
  deriving DecidableEq, Repr

structure Gang where
  (team : Nat) (num : Nat) (core : Nat) (window : Nat) (width : Nat) (index : Nat) (d : Nat) (jcount : Nat)
  /-- The thread at each position; none for a vacant position (R24). -/
  (at_ : List (Option Nat))
  /-- The thread slot of each position in its lane, and the runs of register words that it holds there: first word and words. -/
  (slots : List Nat) (words : List (List (Nat × Nat)))
  (jregs : List Nat)
  (w : Vector Word 32)
  (joins : List Join)
  (h : Vector (Option Nat) 16)
  (offers : List Offer)
  (queue : List Entry)
  (raised : List Raised)
  (frameK : Vector Word 4) (frameS : Vector Word 4)
  (delivery : Option Delivery) (nested : Option Delivery)
  /-- Traps raised in a kernel handler that wait for the nested delivery before them (R433). -/
  (nestq : List Raised)
  (undo : List Undo)
  (item : Option Item)
  deriving DecidableEq, Repr

/-! ### Teams and grids -/

/-- Placement kinds (Table 2-3). -/
inductive Kind where | one | pair | coop
  deriving DecidableEq, Repr

/-- What a team runs for: a grid's team, a stage team, an inference batch. -/
inductive Role where
  | plain
  | stage (inst : Nat) (s : Nat) (group : Nat)
  | batch (cl : Nat) (b : Nat)
  deriving DecidableEq, Repr

/-- Residency of a team (R54, R159). -/
inductive Residence where
  | resident
  | yielding (slot : Nat)
  | saved (slot : Nat)
  | inPlace
  deriving DecidableEq, Repr

/-- The fields of a launch packet that its grid keeps (Table 6-3). -/
structure Launch where
  (entry : Nat) (n : Nat) (t : Nat) (joins : Nat) (gwidth : Nat) (regs : Nat) (tiles : Nat) (loc : Nat)
  (privSize : Nat) (privRing : Nat) (privBase : Nat) (args : Word) (depAddr : Nat) (depVal : Word) (cpl : Nat)
  (depKind : Nat) (order : Bool) (coop : Bool)
  deriving DecidableEq, Repr

structure Team where
  (grid : Nat) (idx : Nat) (kind : Kind) (cores : List Nat) (gangs : List Nat)
  (localBase : Nat) (localSize : Nat) (role : Role) (res : Residence) (urgent : Bool)
  /-- Barrier waves still to leave: due front cycle and gangs (R156). -/
  (waves : List (Nat × List Nat))
  /-- Front cycle of each gang's last arrival at the barrier (R156). -/
  (arrivals : Tab Nat)
  (groups : Nat) (partialGroups : Nat)
  /-- Width of the gangs and declared registers, kept for the save record. -/
  (width : Nat) (d : Nat) (t : Nat)
  /-- The kernel's entry clause and the chunks reserved per gang (R346, R428). -/
  (entry : Nat) (tilesRes : Nat)
  /-- The chunks given to an urgent team (R158). -/
  (chunks : List Nat)
  deriving DecidableEq, Repr

structure Grid where
  (ctx : Nat) (qid : Nat) (slot : Nat) (launch : Launch) (width : Nat)
  (n : Nat) (nextIdx : Nat) (done : Nat) (failed : Bool) (urgent : Bool) (firstPass : Nat)
  (pipeline : Bool) (returned : List Nat) (resumed : List Nat)
  /-- Fabric cycle of its last assignment (R157), and that in which the TYPE of its packet became visible (R142). -/
  (assignedAt : Nat) (rank : Nat) (ringDone : List Nat)
  /-- The batch of an inference queue that it stands for: cluster and batch (R190). -/
  (batch : Option (Nat × Nat))
  deriving DecidableEq, Repr

/-- A record in a core's buffer (R146): its grid, team index and cores, the front cycle in which it came to the head of the
buffer (R149), that of its assignment, and the saved team that it resumes (R54). -/
structure Record where
  (grid : Nat) (idx : Nat) (cores : List Nat) (since : Nat) (assigned : Nat) (resume : Option Nat)
  deriving DecidableEq, Repr

/-! ### Tiles and engine operations -/

structure Tile where
  (core : Nat) (ctx : Nat) (chunks : List Nat) (bitmap : Nat) (permits : List (Nat × Nat)) (int : Bool) (key : Nat)
  (charge : Option Nat) (freed : Bool)
  deriving DecidableEq, Repr

/-- What an engine operation does, with its operands as fixed at its fork (R107). -/
inductive Job where
  | copy (packet : Nat) (src dst : Nat)
  | gather (packet : Nat) (src dst : Nat)
  | push (tile chunk src shuttle : Nat)
  | tld (tile : Nat) (keys : List (Nat × Nat))
  | tst (tile : Nat) (keys : List (Nat × Nat))
  | tzero (tile : Nat)
  | tcvt (ta td : Nat) (el : Elem) (mode : RMode)
  | scaleacc (ta td : Nat) (i32 : Bool) (mode : RMode) (ua ub : Bool) (w : Nat) (rec : List Byte)
  | drainH (ta td : Nat)
  | drainPeer (ta : Nat) (core key : Nat)
  | drainByp (ta : Nat)
  | mma (fmt major : Nat) (ta td : Nat) (w : Nat) (gang : Nat) (sigs : List Sig) (latch : Option (List Byte))
  | transform (packet : Nat) (eng : Nat)
  | loom (cmd : List Byte) (addr : Nat) (started : Bool)
  | infq (cl req : Nat)
  deriving DecidableEq, Repr

/-- An engine operation in flight: who issued it and what it updates when it completes. -/
structure Op where
  (job : Job) (ctx : Nat) (core : Nat)
  /-- Threads and the flag each counts on. -/
  (decs : List (Nat × Nat))
  (issuer : Option Nat)
  /-- The participants that a failure names. -/
  (parts : List Nat)
  (qid : Option Nat) (slot : Nat) (cpl : Nat)
  /-- Tiles read and written, for the scoreboard (R349). -/
  (reads : List Nat) (writes : List Nat)
  (seq : Nat)
  deriving DecidableEq, Repr

/-- An access that is issued and not yet performed (R95). -/
structure Access where
  (thread : Nat) (kind : AccKind) (space : Space) (addr : Nat) (pc : Nat) (clause : Option Clause) (seq : Nat)
  /-- It waits for a page-in of this page (R79), or for a miss entry (R85); or its fault is known (R426). -/
  (page : Option Nat) (rejected : Bool) (faulted : Bool)
  /-- The page-in that it waited for has failed (R453). -/
  (failed : Bool)
  deriving DecidableEq, Repr

/-- A store to a peer page whose acknowledgement has not returned (R110, R463), with its thread and that thread's grid: the virtual address is what its failure
reports (R448). -/
structure PeerStore where
  (thread : Nat) (grid : Nat) (ctx : Nat) (port : Nat) (va : Nat) (since : Nat)
  deriving DecidableEq, Repr

/-! ### Contexts and queues -/

/-- One entry of the divergence table (R50). -/
structure DivEntry where
  (entry : Nat) (h : Nat)
  deriving DecidableEq, Repr

/-- A drain of a context at team boundaries (R157): its deadline, the heads that it was started for, and whether PREEMPT asks
for it. -/
structure Drain where
  (deadline : Nat) (heads : List Nat) (byCommand : Bool)
  deriving DecidableEq, Repr

/-- An update of the divergence table by a team that has completed in the front cycle under way (R51): the cluster and its
cycle, the team index, the kernel and D. -/
structure DivUpdate where
  (cl : Nat) (cycle : Nat) (idx : Nat) (entry : Nat) (d : Nat)
  deriving DecidableEq, Repr

/-- A page installed by the paging service: its address, level, entry address, backing index and place in the order of
installing (R79, R80). -/
structure PagedPage where
  (va : Nat) (lv : Nat) (pa : Nat) (index : Nat) (born : Nat)
  deriving DecidableEq, Repr

structure Context where
  (root : Nat) (drainLimit : Nat) (pool : Nat) (poolUsed : List Nat) (saveArea : Nat)
  /-- Free frames of the pool, its base, and the frames that it was given (R79, R234). -/
  (freeFrames : List Nat) (frameBase : Nat) (frameCount : Nat)
  (pagingCtl : Word) (memoMode : Word) (energy : Nat)
  (div : Tab DivEntry) (divPending : List DivUpdate) (peers : Tab (Nat × Nat))
  /-- Pages installed by the paging service, in the order in which the clock passes them (R80). -/
  (paged : List PagedPage)
  /-- Pages in transfer (R79). -/
  (transfer : List Nat)
  /-- Entry addresses written by MAP with a codebook (R84). -/
  (booked : List (Nat × Nat))
  (drain : Option Drain)
  /-- Pins that gpins of the context hold: structure and generation (R390). -/
  (pins : List (Nat × Nat))
  deriving DecidableEq, Repr

structure Queue where
  (ctx : Nat) (desc : Nat) (base : Nat) (log2n : Nat) (cls : Nat) (prio : Nat) (kind : Nat) (target : Nat)
  (coreMask : List Nat) (regF : Nat) (tileF : Nat) (spBase : Nat) (spSize : Nat)
  (seenAt : Option Nat) (waitFrom : Option Nat) (lastEval : Nat)
  /-- Packets consumed and not completed, by slot index (R142). -/
  (opened : List Nat)
  deriving DecidableEq, Repr

/-! ### Pipelines, rendering and structures -/

structure StageDef where
  (entry : Nat) (regs : Nat) (gwidth : Nat) (joins : Nat) (maxQ : Nat) (minQ : Nat) (initQ : Nat) (occ : Nat) (loc : Nat) (tiles : Nat)
  deriving DecidableEq, Repr

structure FifoDef where
  (bank : Nat) (prod : Nat) (cons : Nat) (depth : Nat) (esize : Nat) (offset : Nat)
  deriving DecidableEq, Repr

/-- A quarter group held by a stage: its core and first quarter, its team, whether it has started one, and the stage that it
drains for (R151, R152). -/
structure Held where
  (stage : Nat) (core : Nat) (quarter : Nat) (team : Option Nat) (ran : Bool) (draining : Option Nat)
  deriving DecidableEq, Repr

/-- A FIFO of an instance: its entries, oldest first, the threads Blocked at it in the order of blocking, and whether a
fixed producer has closed it (R163). -/
structure Fifo where
  (def_ : FifoDef) (entries : List (List Byte)) (poppers : List Nat) (pushers : List Nat) (fixedClosed : Bool)
  deriving DecidableEq, Repr

structure Instance where
  (grid : Nat) (cl : Nat) (stages : List StageDef) (fifos : List Fifo) (groups : List Held) (started : Bool)
  (closed : List Bool) (startedTeams : Nat) (blk : List Nat) (lastBalance : Nat) (frame : Option Nat) (done : Bool)
  deriving DecidableEq, Repr

/-- A fragment work item of a frame (R168, R169): its tile and ORDER, the draw and the primitive record, whether it is the
tile's last; the gang that popped it, the threads that took part in it, those that are through with it, and whether it has
retired. -/
structure WorkItem where
  (id : Nat) (tile : Nat) (order : Nat) (draw : Nat) (last : Bool) (gang : Option Nat) (part : List Nat) (through : List Nat) (retired : Bool)
  deriving DecidableEq, Repr

/-- An export that output merge has not applied (R169, R379). -/
structure Export where
  (id : Nat) (item : Nat) (thread : Nat) (rt : Nat) (x : Nat) (y : Nat) (lo : Word) (hi : Word)
  deriving DecidableEq, Repr

/-- A primitive of a frame (R166, R371): ORDER, draw, vertex slots, record address and tiles; none of them when culled. -/
structure Prim where
  (order : Nat) (draw : Nat) (slots : List Nat) (addr : Nat) (tiles : List Nat)
  deriving DecidableEq, Repr

/-- A draw of a frame (R164, R165): its packet, queue and slot; its draw-state block, once a geometry engine has read it;
its signature (R173); primitives cut so far; failed. -/
structure Draw where
  (packet : Nat) (qid : Nat) (slot : Nat) (block : Option (List Byte)) (sig : Nat) (cut : Nat) (failed : Bool)
  deriving DecidableEq, Repr

/-- A batch (R166, R167): its geometry engine; its draw; its primitives, each with its ORDER and three vertices; its unique vertices with their
slots; vertices sent and slots returned; assembled, with the primitives that survived; the instances whose bin writer has
appended it. -/
structure BatchRec where
  (eng : Nat) (draw : Nat) (prims : List (Nat × List Nat)) (verts : List (Nat × Nat × Nat)) (sent : Nat) (back : List Nat) (done : Bool) (out : List Prim)
  (binned : List Nat)
  deriving DecidableEq, Repr

/-- One screen tile of a frame (R167, R173 to R178, R189): its number in the order of R168, its primitives, its signature,
whether it is skipped or audited, items emitted so far, and the render-target bytes before the first write of an audited tile. -/
structure TileRec where
  (tile : Nat) (prims : List Nat) (sig : Nat) (skipped : Bool) (audit : Bool) (visited : Bool) (emitted : Nat)
  (prior : Option (List Byte)) (compared : Bool)
  deriving DecidableEq, Repr

/-- A frame (R163): the launch's grid, its frame block and its address, phase (0 geometry, 1 raster, 2 completed or failed),
instances, draws, batches, tiles and items; the next ORDER and vertex slot; the stride of the primitive ring and of bin
entries (DESIGN CHOICE, log 11), ring records and bin bytes used; FRAMESTAT's fields (Table 20-3); the frame condition and PLANE; exports
waiting; and what a failed depth export has dropped (R379). -/
structure Frame where
  (grid : Nat) (qid : Nat) (ctx : Nat) (addr : Nat) (block : List Byte) (phase : Nat) (insts : List Nat)
  (draws : List Draw) (batches : List BatchRec) (tiles : List TileRec) (items : List WorkItem)
  (nextOrder : Nat) (nextSlot : Nat) (stride : Nat) (entry : Nat) (records : Nat) (binUsed : Nat)
  (nonfinite : Nat) (binOvf : Bool) (ringFault : Bool) (sigErr : Bool) (auditMis : Bool) (cond : Bool) (plane : Bool)
  (exports : List Export) (dropped : List (Nat × Nat × Nat × Nat)) (ended : Bool)
  /-- Always-on count at the start of the frame (R246). -/
  (began : Nat)
  deriving DecidableEq, Repr

/-- A generation of a structure that is current or pinned (R208): the units its root reaches, its pins, and the pins it
holds on bottom-level generations (structure and generation); bytes 4 to 63 of the header it was published with; and which primitive
stands behind the instance node in a unit (unit, geometry, primitive), which the node does not say (R203). -/
structure Gen where
  (num : Nat) (root : Nat) (units : List Nat) (pins : Nat) (below : List (Nat × Nat)) (header : List Byte) (insts : List (Nat × Nat × Nat))
  deriving DecidableEq, Repr

/-- A staged version (R203): its root, units, pins, what PUBLISH writes in bytes 4 to 63 of the header, its refits, the
primitive counts of its geometries, and the primitives of its instance nodes, as in a generation. -/
structure Staged where
  (root : Nat) (units : List Nat) (below : List (Nat × Nat)) (header : List Byte) (refits : Nat) (geoms : List Nat)
  (insts : List (Nat × Nat × Nat))
  deriving DecidableEq, Repr

/-- A structure of the Loom (R195, R203 to R210): its context and header address, its generations, the primitive counts
of its current version's geometries and its refits, its staged version, and retired units with the generation that retired
them. -/
structure Struct where
  (ctx : Nat) (header : Nat) (gens : List Gen) (cur : Option Nat) (geoms : List Nat) (refits : Nat)
  (staged : Option Staged) (retired : List (Nat × List Nat))
  deriving DecidableEq, Repr

/-! ### The management side -/

/-- A code book (R84). -/
structure Codebook where
  (kind : Nat) (lens : List Nat)
  deriving DecidableEq, Repr

/-- A packet on the mesh (R237 to R240): the node it is at, its source and sequence number there, the destinations left, injection timestamp, class
code, flits, flits not yet granted at this router, the cycle in which it leaves a turn buffer, whether it has turned, the last
cycle in which its port was served, and whether it has been logged as stale (R491). -/
structure Flit where
  (node : Nat) (src : Nat) (seq : Nat) (dst : List Nat) (stamp : Nat) (vc : Nat) (flits : Nat) (left : Nat) (turn : Option Nat) (turned : Bool)
  (served : Nat) (stale : Bool)
  deriving DecidableEq, Repr

/-- A system-cache slice's queue (R86): node and timestamp of each request held, timestamp and node of the oldest one
rejected, and the requests to be retried with the cycle of their retry. -/
structure Slice where
  (held : List (Nat × Nat)) (oldest : Option (Nat × Nat)) (retry : List (Nat × Nat × Nat))
  deriving DecidableEq, Repr

/-- A team that waits for a scratchpad space that reaches its local size (R57): its grid and index, the fabric cycle since which it
has waited, and whether the wait has been logged. -/
structure LocalWait where
  (grid : Nat) (idx : Nat) (since : Nat) (logged : Bool)
  deriving DecidableEq, Repr

structure SlotEdit where
  (packet : Nat) (qid : Nat) (slot : Nat) (apply : Nat) (ctx : Nat)
  deriving DecidableEq, Repr

structure Mgmt where
  /-- The mailbox: its registers, the request bytes as they stood at the doorbell, whether the command in progress has begun
  (R233), and the MSI-X vectors signalled (R226). -/
  (mbxCmd : Word) (mbxStatus : Word) (cmdIn : List Byte) (cmdStarted : Bool) (msi : List Nat)
  /-- What the last host read or atomic returned, and whether it was marked poisoned (R488). -/
  (reply : List Byte) (replyBad : Bool)
  (sensor : List Nat)
  /-- GOV.CTL and GOV.FRAME as written, and as taken at the last governor interval, whose always-on count follows (R246). -/
  (govCtl : Word) (govFrame : Word) (govLive : Word) (frameLive : Word) (governorAt : Nat)
  (energy : Nat) (latchHost : Nat) (latchCore : Nat)
  (ready : List Nat)
  /-- A start step that has not finished, with the always-on count of its beginning, and what the start finds (R249, R499); 1
  where the start has stopped (R500). -/
  (startStep : Option (Nat × Nat)) (trial : Option StartTrial) (startStatus : Nat)
  (sliceMap : List Nat) (channelMap : List Nat)
  /-- Slot tables by 5 × node + port; edits that wait for their cycle; the QID served last (R239, R242, R492). -/
  (slotTable : List (List Nat)) (edits : List SlotEdit) (editTurn : Nat)
  (pkts : Tab Flit) (slices : Tab Slice)
  (errWidx : Nat) (errPending : List (Nat × Nat)) (ceCount : Nat) (stage1 : Word) (stage2 : Word)
  (msiTimer : Option Nat) (msiPending : Bool)
  (temps : List Nat) (thermCtl : Word) (emergCnt : Nat)
  (linkUp : Bool) (linkRate : Nat) (linkWidth : Nat) (ports : List Bool)
  (peerStores : Tab PeerStore)
  (localWaits : List LocalWait)
  (codebooks : List Codebook)
  (pointer : Nat)
  /-- Clusters, cores, builder units, transform engines and geometry engines that the current start excludes (R13, R249). -/
  (clusterX : Nat) (coreX : List Nat) (unitX : Nat)
  /-- Slices and channels that the current start excludes (R13, R249). -/
  (sliceX : Nat) (channelX : Nat)
  /-- Bytes of device memory that are usable: 4 GiB for each channel in use, less the metadata region (R16, R71, R81). -/
  (usable : Nat)
  /-- Routers set to pass-through by the current start, by node (R249). -/
  (passThrough : List Nat)
  deriving DecidableEq, Repr

/-- What a core holds beside its gangs. -/
structure Core where
  (records : List Record) (matq : List Nat) (running : Option Nat) (bypass : Option (List Byte)) (selfTest : Bool)
  (rr : Nat) (tlb : List TlbEntry)
  /-- What the core's spill region holds for its victims (R438, R439): the chunks, their team numbers, and the join
registers, each with the gang that owns it. -/
  (spill : List Nat) (victims : List Nat) (joinSpill : List (Nat × Nat))
  /-- The threads of a group that slides into the next slot (R155). -/
  (slid : List Nat)
  /-- COPY instructions that found every entry of the request engine in use: thread and address (R215). -/
  (kicks : List (Nat × Nat))
  deriving DecidableEq, Repr

/-- The issue group being carried: its core, its threads in ascending lane, the address of its next halfword, the
address of its first prefix, and the prefixes seen (R35, R257). -/
structure Group where
  (core : Nat) (threads : List Nat) (pc : Nat) (cursor : Nat) (started : Bool)
  (guard : Option (Bool × Pred)) (mode : Option (Bool × RMode))
  deriving DecidableEq, Repr

/-- The model's own schedule: what comes next, what the outside world does, and how open choices fall. -/
structure Sched where
  (agenda : List Instr) (inputs : List Instr) (choices : List Nat) (defer : List Bool) (draws : Nat) (nextId : Nat) (order : Nat)
  deriving DecidableEq, Repr

/-- The whole device. -/
structure State where
  (mem : MemSys)
  (clk : Clocks)
  (clusters : Tab Cluster)
  (cores : Tab Core)
  (threads : Tab Thread)
  (gangs : Tab Gang)
  (teams : Tab Team)
  (grids : Tab Grid)
  (tiles : Tab Tile)
  (ops : Tab Op)
  (accs : Tab Access)
  (ctxs : Tab Context)
  (queues : Tab Queue)
  (insts : Tab Instance)
  (frames : Tab Frame)
  (structs : Tab Struct)
  (mgmt : Mgmt)
  (grp : Group)
  (grp2 : Option Group)
  (sched : Sched)
  deriving DecidableEq, Repr

/-! ### Reset -/

/-- Bytes of device memory that n channels leave usable: 4 GiB each, so that 64 make the 256 GiB of Table 1-2, less 1/512 for
the metadata region (R71, R81) (DESIGN CHOICE, log 58). -/
def usableBytes (n : Nat) : Nat := 2 ^ 32 * n - 2 ^ 32 * n / 512

/-- The slot table of one router output port as R241 gives it. -/
def Mgmt.startSlots : List Nat := List.replicate 16 0x5E ++ List.replicate 48 0x5C

/-- The management side at reset (Tables 9-5, 10-5, 10-6, 10-8, 21-4) (DESIGN CHOICE, log 1) (DESIGN CHOICE, log 51). -/
def Mgmt.reset : Mgmt :=
  { mbxCmd := 0, mbxStatus := 0, cmdIn := [], cmdStarted := false, msi := [], reply := [], replyBad := false, sensor := List.replicate 16 0,
    govCtl := BitVec.ofNat 64 (480 * 2 ^ 48 + 512 * 2 ^ 32), govFrame := 0, govLive := BitVec.ofNat 64 (480 * 2 ^ 48 + 512 * 2 ^ 32),
    frameLive := 0, governorAt := 0, energy := 0, latchHost := 0, latchCore := 0, ready := [0, 0, 0], startStep := none, trial := none,
    startStatus := 0, sliceMap := List.range 32, channelMap := List.range 64,
    slotTable := List.replicate 320 Mgmt.startSlots, edits := [], editTurn := 0, pkts := [], slices := [],
    errWidx := 0, errPending := [], ceCount := 0, stage1 := 0, stage2 := 0, msiTimer := none, msiPending := false,
    temps := List.replicate 19 0, thermCtl := BitVec.ofNat 64 (440 * 2 ^ 32 + 352 * 2 ^ 16 + 380), emergCnt := 0,
    linkUp := false, linkRate := 0, linkWidth := 0, ports := [true, true], peerStores := [], localWaits := [],
    codebooks := List.replicate 8 ⟨0, []⟩, pointer := 0, clusterX := 0, coreX := List.replicate 18 0, unitX := 0, sliceX := 0, channelX := 0,
    usable := usableBytes 64, passThrough := [] }

/-- The thread of the management core (R341): its registers 0 (DESIGN CHOICE, log 1), its ROM not in the spec (DESIGN CHOICE, log 7). -/
def Thread.resetMgmt : Thread :=
  { gang := 0, pos := 0, tid := 0, g := Vector.replicate 64 0, p := 0, f := Vector.replicate 12 0, pc := 0, after := 0,
    clause := none, hintNow := [], hintEnd := [], run := .ready, since := 0, entered := [], held := [], region := none, query := none, savedPc := 0 }

/-- Its gang: width 8, positions 1 to 7 vacant (R341) (DESIGN CHOICE, log 1). -/
def Gang.resetMgmt : Gang :=
  { team := 0, num := 0, core := 288, window := 0, width := 8, index := 0, d := 64, jcount := 8,
    at_ := some 0 :: List.replicate 7 none, slots := List.replicate 8 0, words := List.replicate 8 [], jregs := [],
    w := Vector.replicate 32 0, joins := List.replicate 8 ⟨.idle, 0, 0, []⟩, h := Vector.replicate 16 none, offers := [],
    queue := [], raised := [], frameK := Vector.replicate 4 0, frameS := Vector.replicate 4 0, delivery := none, nested := none,
    nestq := [], undo := [], item := none }

/-- Its team and grid stand for no launch (Table 13-7: sr.ntid and sr.nteam read 1, sr.ctx 0) (DESIGN CHOICE, log 1). -/
def Team.resetMgmt : Team :=
  { grid := 0, idx := 0, kind := .one, cores := [288], gangs := [0], localBase := 0, localSize := 65536, role := .plain,
    res := .resident, urgent := false, waves := [], arrivals := [], groups := 0, partialGroups := 0, width := 8, d := 64, t := 1,
    entry := 0, tilesRes := 0, chunks := [] }

def Grid.resetMgmt : Grid :=
  { ctx := 0, qid := 0, slot := 0,
    launch := { entry := 0, n := 1, t := 1, joins := 7, gwidth := 0, regs := 7, tiles := 0, loc := 0, privSize := 0,
                privRing := 0, privBase := 0, args := 0, depAddr := 0, depVal := 0, cpl := 0, depKind := 0, order := false,
                coop := false },
    width := 8, n := 1, nextIdx := 1, done := 0, failed := false, urgent := false, firstPass := 0, pipeline := false,
    returned := [], resumed := [], assignedAt := 0, rank := 0, ringDone := [], batch := none }

/-- No group is being carried. -/
def Group.empty : Group := ⟨0, [], 0, 0, false, none, none⟩

/-- The device right after reset: every field at the value the spec gives, or at the value of DESIGN CHOICE, log 1 or 2 where it gives
none; unlisted clusters, cores and contexts hold the reset values of `Machine/Access.lean` (DESIGN CHOICE, log 2). -/
def State.reset : State :=
  { mem := { cells := [], poison := [], full := [], registry := [], blockCode := [], pageHolder := [], chunkHolder := [],
             filled := [] },
    clk := { front := List.replicate 18 0, fabric := 0, ao := 0, phases := List.replicate 18 0, fabricPhase := 0, aoPhase := 0,
             fabricStep := 15, stopped := none, stoppedBy := 0, shut := false },
    clusters := [], cores := [], threads := [(0, Thread.resetMgmt)], gangs := [(0, Gang.resetMgmt)],
    teams := [(0, Team.resetMgmt)], grids := [(0, Grid.resetMgmt)], tiles := [], ops := [], accs := [], ctxs := [], queues := [],
    insts := [], frames := [], structs := [], mgmt := Mgmt.reset, grp := Group.empty, grp2 := none,
    sched := { agenda := [], inputs := [], choices := [], defer := [], draws := 0, nextId := 1, order := 0 } }

end Sys2Proof.Machine
end

