-- ==== Sys2Proof/Machine/Tab.lean ====
section
/-! DEFINITION. Operations on tables of records by number, and small list helpers. -/

namespace Sys2Proof.Machine

/-- The record of a number, if it is listed. -/
def Tab.get? {α : Type} (k : Nat) : Tab α → Option α
  | [] => none
  | (k', v) :: t => if k' = k then some v else Tab.get? k t

/-- The record of a number, or a default. -/
def Tab.getD {α : Type} (t : Tab α) (k : Nat) (d : α) : α := (Tab.get? k t).getD d

/-- Lists a record under a number, in rising order, in place of the one that was there. -/
def Tab.set {α : Type} (k : Nat) (v : α) : Tab α → Tab α
  | [] => [(k, v)]
  | (k', v') :: t =>
    if k < k' then (k, v) :: (k', v') :: t
    else if k' = k then (k, v) :: t
    else (k', v') :: Tab.set k v t

/-- Unlists a number. -/
def Tab.del {α : Type} (k : Nat) (t : Tab α) : Tab α := t.filter fun e => e.1 != k

/-- Changes the record of a number, if it is listed. -/
def Tab.mod {α : Type} (k : Nat) (f : α → α) (t : Tab α) : Tab α :=
  match Tab.get? k t with
  | some v => Tab.set k (f v) t
  | none => t

/-- The records that meet a condition. -/
def Tab.where_ {α : Type} (p : Nat → α → Bool) (t : Tab α) : Tab α := t.filter fun e => p e.1 e.2

/-- The numbers listed. -/
def Tab.keys {α : Type} (t : Tab α) : List Nat := t.map (·.1)

/-- Inserts a value into a list sorted by a strict order, after the entries not above it. -/
def insertBy {α : Type} (lt : α → α → Bool) (x : α) : List α → List α
  | [] => [x]
  | y :: ys => if lt x y then x :: y :: ys else y :: insertBy lt x ys

/-- Sorts a list by a strict order, keeping the order of equal entries. -/
def sortBy {α : Type} (lt : α → α → Bool) (l : List α) : List α := l.foldl (fun acc x => insertBy lt x acc) []

/-- The list without repeats, keeping first occurrences. -/
def dedup {α : Type} [BEq α] : List α → List α
  | [] => []
  | x :: xs => x :: (dedup xs).filter fun y => y != x

/-- The least entry of a list by a strict order; the first of equal ones. -/
def leastBy {α : Type} (lt : α → α → Bool) : List α → Option α
  | [] => none
  | x :: xs =>
    match leastBy lt xs with
    | none => some x
    | some y => if lt y x then some y else some x

/-- Entry n of a list, or a default. -/
def nth {α : Type} (l : List α) (n : Nat) (d : α) : α := (l[n]?).getD d

/-- Entry n of an array of fixed size, or a default beyond it. -/
def vget {α : Type} {m : Nat} (v : Vector α m) (n : Nat) (d : α) : α := (v[n]?).getD d

/-- Replaces entry n of an array of fixed size; nothing beyond it. -/
def vset {α : Type} {m : Nat} (v : Vector α m) (n : Nat) (x : α) : Vector α m := v.setIfInBounds n x

/-- Changes entry n of a list. -/
def modNth {α : Type} (l : List α) (n : Nat) (f : α → α) : List α :=
  match l[n]? with
  | some x => l.set n (f x)
  | none => l

/-- The smallest number from `lo`, among `fuel` candidates, that is not in the list. -/
def firstFree (used : List Nat) (lo : Nat) : Nat → Option Nat
  | 0 => none
  | fuel + 1 => if used.contains lo then firstFree used (lo + 1) fuel else some lo

/-- The numbers of the set bits of a mask, from bit 0 up, among the first n bits. -/
def bitList (m n : Nat) : List Nat := (List.range n).filter fun i => bit m i

/-- The mask with the given bits set. -/
def maskOf (l : List Nat) : Nat := l.foldl (fun m b => if bit m b then m else m + 2 ^ b) 0

/-- Number of set bits among the first n. -/
def popCount (m n : Nat) : Nat := (bitList m n).length

/-- Rounds up to a multiple. -/
def ceilDiv (a b : Nat) : Nat := (a + b - 1) / b

end Sys2Proof.Machine
end

