-- ==== Sys2Proof/Machine/Num.lean ====
section
/-! DEFINITION. Number formats and arithmetic (spec 05): exact values as a sign and a fraction, decoding (R113), `round`
(R120), flushing (R122), exact sums and products, comparisons, conversions (R123), minimum and maximum (R124). -/

namespace Sys2Proof.Machine

/-- How a format uses its top codes (Table 5-1): infinities and NaNs, one NaN code, or finite values only. -/
inductive FKind where | ieee | oneNan | finite
  deriving DecidableEq, Repr

/-- A floating-point format (Table 5-1). -/
structure Fmt where
  (exp : Nat) (man : Nat) (bias : Nat) (kind : FKind)
  deriving DecidableEq, Repr

def fFP64 : Fmt := ⟨11, 52, 1023, .ieee⟩
def fFP32 : Fmt := ⟨8, 23, 127, .ieee⟩
def fFP16 : Fmt := ⟨5, 10, 15, .ieee⟩
def fBF16 : Fmt := ⟨8, 7, 127, .ieee⟩
def fE4M3 : Fmt := ⟨4, 3, 7, .oneNan⟩
def fE5M2 : Fmt := ⟨5, 2, 15, .ieee⟩
def fE3M2 : Fmt := ⟨3, 2, 3, .finite⟩
def fE2M3 : Fmt := ⟨2, 3, 1, .finite⟩
def fE2M1 : Fmt := ⟨2, 1, 1, .finite⟩

/-- Bits of a code. -/
def Fmt.width (f : Fmt) : Nat := 1 + f.exp + f.man

/-- The magnitude code of the largest finite value. -/
def Fmt.maxCode (f : Fmt) : Nat :=
  match f.kind with
  | .ieee => (2 ^ f.exp - 1) * 2 ^ f.man - 1
  | .oneNan => 2 ^ (f.exp + f.man) - 2
  | .finite => 2 ^ (f.exp + f.man) - 1

/-- The default NaN (Table 5-2); +0 in a format without NaN (R120). -/
def Fmt.nanCode (f : Fmt) : Nat :=
  match f.kind with
  | .ieee => (2 ^ f.exp - 1) * 2 ^ f.man + 2 ^ (f.man - 1)
  | .oneNan => 2 ^ (f.exp + f.man) - 1
  | .finite => 0

/-- A floating-point value: NaN, a signed infinity, or a sign and a magnitude num ÷ den, a zero keeping its sign. -/
inductive Fl where
  | nan
  | inf (neg : Bool)
  | num (neg : Bool) (n : Nat) (d : Nat)
  deriving DecidableEq, Repr

/-- The magnitude of m × 2^e. -/
def dyadic (neg : Bool) (m : Nat) (e : Int) : Fl := if 0 ≤ e then .num neg (m * 2 ^ e.toNat) 1 else .num neg m (2 ^ (-e).toNat)

/-- The value of a code (R113). -/
def decodeF (f : Fmt) (c : Nat) : Fl :=
  let neg := bit c (f.exp + f.man)
  let e := bits c (f.exp + f.man - 1) f.man
  let m := c % 2 ^ f.man
  let top := 2 ^ f.exp - 1
  if f.kind = .ieee ∧ e = top then (if m = 0 then .inf neg else .nan)
  else if f.kind = .oneNan ∧ e = top ∧ m = 2 ^ f.man - 1 then .nan
  else if e = 0 then dyadic neg m (1 - (f.bias : Int) - f.man)
  else dyadic neg (2 ^ f.man + m) ((e : Int) - f.bias - f.man)

/-- The exponent of a positive fraction: the greatest e with 2^e ≤ n ÷ d. -/
def ilog2 (n d : Nat) : Int :=
  let e : Int := (Nat.log2 n : Int) - Nat.log2 d
  let low := if 0 ≤ e then d * 2 ^ e.toNat ≤ n else d ≤ n * 2 ^ (-e).toNat
  if low then e else e - 1

/-- n ÷ d in units of 2^q, as a rounded integer under a mode (R120). -/
def roundUnits (mode : RMode) (neg : Bool) (n d : Nat) (q : Int) : Nat :=
  let a := if 0 ≤ q then n else n * 2 ^ (-q).toNat
  let b := if 0 ≤ q then d * 2 ^ q.toNat else d
  let k := a / b
  let r := a % b
  let up := match mode with
    | .rn => decide (b < 2 * r) || (decide (2 * r = b) && decide (k % 2 = 1))
    | .rz => false
    | .ru => decide (r ≠ 0) && !neg
    | .rd => decide (r ≠ 0) && neg
  if up then k + 1 else k

/-- Places a sign on a magnitude code. -/
def Fmt.signed (f : Fmt) (neg : Bool) (c : Nat) : Nat := c + b2n neg * 2 ^ (f.exp + f.man)

/-- The result of an overflow (R120). -/
def Fmt.overflow (f : Fmt) (mode : RMode) (neg : Bool) : Nat :=
  let toMax := match mode with
    | .rn => false
    | .rz => true
    | .ru => neg
    | .rd => !neg
  if f.kind = .ieee ∧ !toMax then f.maxCode + 1 else f.maxCode

/-- The magnitude code that a positive magnitude rounds to. -/
def roundMag (f : Fmt) (mode : RMode) (neg : Bool) (n d : Nat) : Nat :=
  let e := max (ilog2 n d) (1 - (f.bias : Int))
  let k := roundUnits mode neg n d (e - f.man)
  let c := ((e + f.bias - 1) * 2 ^ f.man + k).toNat
  if f.maxCode < c then f.overflow mode neg else c

/-- `round(x, fmt, mode)` (R120), as a code. -/
def roundF (f : Fmt) (mode : RMode) : Fl → Nat
  | .nan => f.nanCode
  | .inf neg => f.signed neg (if f.kind = .ieee then f.maxCode + 1 else f.maxCode)
  | .num neg n d => f.signed neg (if n = 0 then 0 else roundMag f mode neg n d)

/-- The rounded value lies below the smallest normal when the exponent is unbounded (R122). -/
def tiny (f : Fmt) (mode : RMode) (neg : Bool) (n d : Nat) : Bool :=
  let e := ilog2 n d
  let k := roundUnits mode neg n d (e - f.man)
  let e1 := if k = 2 ^ (f.man + 1) then e + 1 else e
  decide (e1 < 1 - (f.bias : Int))

/-- round, then flush when `.ftz` is given (R122). -/
def roundFlush (f : Fmt) (mode : RMode) (ftz : Bool) (x : Fl) : Nat :=
  match x with
  | .num neg n d => if ftz && n != 0 && tiny f mode neg n d then f.signed neg 0 else roundF f mode x
  | _ => roundF f mode x

/-! ### Exact arithmetic -/

def Fl.neg : Fl → Fl
  | .nan => .nan
  | .inf s => .inf (!s)
  | .num s n d => .num (!s) n d

def Fl.isNan : Fl → Bool
  | .nan => true
  | _ => false

def Fl.isInf : Fl → Bool
  | .inf _ => true
  | _ => false

def Fl.isZero : Fl → Bool
  | .num _ n _ => n == 0
  | _ => false

def Fl.isNeg : Fl → Bool
  | .nan => false
  | .inf s => s
  | .num s _ _ => s

def Fl.abs : Fl → Fl
  | .nan => .nan
  | .inf _ => .inf false
  | .num _ n d => .num false n d

/-- A signed numerator over a common denominator. -/
def signedNum (s : Bool) (n : Nat) : Int := if s then -(n : Int) else n

/-- The exact sum; a zero of opposite signs is +0, or −0 under RD (R120). -/
def Fl.add (mode : RMode) : Fl → Fl → Fl
  | .nan, _ => .nan
  | _, .nan => .nan
  | .inf a, .inf b => if a = b then .inf a else .nan
  | .inf a, _ => .inf a
  | _, .inf b => .inf b
  | .num sa na da, .num sb nb db =>
    let x : Int := if da = db then signedNum sa na + signedNum sb nb else signedNum sa na * db + signedNum sb nb * da
    let d := if da = db then da else da * db
    if x = 0 then .num (if sa = sb then sa else decide (mode = .rd)) 0 1
    else .num (decide (x < 0)) x.natAbs d

def Fl.sub (mode : RMode) (a b : Fl) : Fl := Fl.add mode a b.neg

/-- The exact product. -/
def Fl.mul : Fl → Fl → Fl
  | .nan, _ => .nan
  | _, .nan => .nan
  | .inf a, .inf b => .inf (xor a b)
  | .inf a, .num b n _ => if n = 0 then .nan else .inf (xor a b)
  | .num a n _, .inf b => if n = 0 then .nan else .inf (xor a b)
  | .num sa na da, .num sb nb db => .num (xor sa sb) (na * nb) (da * db)

/-- The exact quotient: a zero divisor gives an infinity, 0 ÷ 0 and ∞ ÷ ∞ a NaN. -/
def Fl.div : Fl → Fl → Fl
  | .nan, _ => .nan
  | _, .nan => .nan
  | .inf _, .inf _ => .nan
  | .inf a, .num b _ _ => .inf (xor a b)
  | .num a _ _, .inf b => .num (xor a b) 0 1
  | .num sa na da, .num sb nb db =>
    if nb = 0 then (if na = 0 then .nan else .inf (xor sa sb)) else .num (xor sa sb) (na * db) (da * nb)

/-- a < b for numbers and infinities; false with a NaN. -/
def Fl.lt : Fl → Fl → Bool
  | .nan, _ => false
  | _, .nan => false
  | .inf a, .inf b => a && !b
  | .inf a, .num _ _ _ => a
  | .num _ _ _, .inf b => !b
  | .num sa na da, .num sb nb db => decide (signedNum sa na * db < signedNum sb nb * da)

/-- a = b as values; false with a NaN. -/
def Fl.eqv : Fl → Fl → Bool
  | .nan, _ => false
  | _, .nan => false
  | a, b => !(Fl.lt a b) && !(Fl.lt b a)

def Fl.le (a b : Fl) : Bool := Fl.lt a b || Fl.eqv a b

/-- a orders below b for minimum and maximum: −0 below +0 (R124). -/
def Fl.below (a b : Fl) : Bool := Fl.lt a b || (a.isZero && b.isZero && a.isNeg && !b.isNeg)

/-- minimumNumber (R124). -/
def Fl.minN (a b : Fl) : Fl := if a.isNan then b else if b.isNan then a else if Fl.below b a then b else a
/-- maximumNumber (R124). -/
def Fl.maxN (a b : Fl) : Fl := if a.isNan then b else if b.isNan then a else if Fl.below a b then b else a

/-- An integer as a value. -/
def Fl.ofInt (x : Int) : Fl := .num (decide (x < 0)) x.natAbs 1
def Fl.ofNat (x : Nat) : Fl := .num false x 1

/-- m × 2^e as a value. -/
def Fl.scaled (x : Int) (e : Int) : Fl := dyadic (decide (x < 0)) x.natAbs e

/-- The integer nearest a value under a mode; 0 for a NaN. An infinity answers none. -/
def Fl.toIntR (mode : RMode) : Fl → Option Int
  | .nan => some 0
  | .inf _ => none
  | .num s n d => some (signedNum s (roundUnits mode s n d 0))

/-! ### Integers (R115, R123) -/

/-- The range of an n-bit integer. -/
def intMin (signed : Bool) (n : Nat) : Int := if signed then -(2 ^ (n - 1) : Nat) else 0
def intMax (signed : Bool) (n : Nat) : Int := if signed then (2 ^ (n - 1) : Nat) - 1 else (2 ^ n : Nat) - 1

/-- `sat(x, fmt)`. -/
def satInt (signed : Bool) (n : Nat) (x : Int) : Int := max (intMin signed n) (min (intMax signed n) x)

/-- A value converted to an integer format (R123). -/
def toIntSat (signed : Bool) (n : Nat) (mode : RMode) (x : Fl) : Int :=
  match x with
  | .inf s => if s then intMin signed n else intMax signed n
  | .nan => 0
  | v => satInt signed n ((v.toIntR mode).getD 0)

/-- An integer square root by halving, for the fuel of the width. -/
def isqrtGo (n : Nat) (lo hi : Nat) : Nat → Nat
  | 0 => lo
  | fuel + 1 =>
    if hi ≤ lo + 1 then lo
    else
      let mid := (lo + hi) / 2
      if mid * mid ≤ n then isqrtGo n mid hi fuel else isqrtGo n lo mid fuel

/-- The greatest r with r² ≤ n. -/
def isqrt (n : Nat) : Nat := isqrtGo n 0 (2 ^ (Nat.log2 n / 2 + 1)) (Nat.log2 n / 2 + 2)

/-! ### Formats of instruction fields (Table 11-3, Table 5-7) -/

end Sys2Proof.Machine

namespace Sys2Proof

/-- The format of an FT code. -/
def Ft.fmt : Ft → Machine.Fmt
  | .f32 => Machine.fFP32 | .f64 => Machine.fFP64 | .f16 => Machine.fFP16 | .bf16 => Machine.fBF16

end Sys2Proof

namespace Sys2Proof.Machine

/-- A TY code: a floating-point format, or an integer format with its sign and width. -/
inductive Num where | fl (f : Fmt) | int (signed : Bool) (n : Nat)
  deriving DecidableEq, Repr

def tyNum : Ty → Num
  | .s8 => .int true 8 | .s16 => .int true 16 | .s32 => .int true 32 | .s64 => .int true 64
  | .n8 => .int false 8 | .n16 => .int false 16 | .n32 => .int false 32 | .n64 => .int false 64
  | .f16 => .fl fFP16 | .bf16 => .fl fBF16 | .f32 => .fl fFP32 | .f64 => .fl fFP64
  | .e4m3 => .fl fE4M3 | .e5m2 => .fl fE5M2 | .e3m2 => .fl fE3M2 | .e2m3 => .fl fE2M3 | .e2m1 => .fl fE2M1
  | .s4 => .int true 4 | .n4 => .int false 4

def elemNum : Elem → Num
  | .fp32 => .fl fFP32 | .fp16 => .fl fFP16 | .bf16 => .fl fBF16 | .e4m3 => .fl fE4M3 | .e5m2 => .fl fE5M2
  | .e3m2 => .fl fE3M2 | .e2m3 => .fl fE2M3 | .e2m1 => .fl fE2M1 | .int8 => .int true 8 | .uint8 => .int false 8
  | .int4 => .int true 4 | .uint4 => .int false 4 | .int16 => .int true 16

def Num.width : Num → Nat
  | .fl f => f.width
  | .int _ n => n

/-- The value of an integer code. -/
def intOf (signed : Bool) (n c : Nat) : Int := if signed then sextNat n c else ((c % 2 ^ n : Nat) : Int)

/-- Converts a code of one type to a code of another (R123, R287). The flush applies to FP16 and BF16 results. -/
def convert (src dst : Num) (mode : RMode) (ftz : Bool) (c : Nat) : Nat :=
  match src, dst with
  | .fl a, .fl b => roundFlush b mode ftz (decodeF a c)
  | .fl a, .int s n => wrapInt n (toIntSat s n mode (decodeF a c))
  | .int s n, .fl b => roundFlush b mode ftz (Fl.ofInt (intOf s n c))
  | .int s n, .int s2 n2 => wrapInt n2 (satInt s2 n2 (intOf s n c))

end Sys2Proof.Machine
end

