-- ==== Sys2Proof/Machine/LogDom.lean ====
section
/-! DEFINITION. The log domain (spec 05 R117, R118, R132, R133): its conversion tables, the conversion to a log-domain word
and back, and the operations on log-domain words (spec 12 R288 to R290). -/

namespace Sys2Proof.Machine

/-! LT and ET, each computed from the formula of R132. -/

def logT0 : List Nat := [0, 187635, 372405, 554396, 733691, 910369, 1084505, 1256170, 1425434, 1592364, 1757022, 1919470, 2079767]
def logT1 : List Nat := [2237968, 2394127, 2548298, 2700529, 2850868, 2999364, 3146059, 3290997, 3434220, 3575768, 3715679, 3853992, 3990741]
def logT2 : List Nat := [4125963, 4259690, 4391956, 4522792, 4652228, 4780295, 4907021, 5032434, 5156560, 5279426, 5401057, 5521478, 5640713]
def logT3 : List Nat := [5758784, 5875714, 5991526, 6106239, 6219876, 6332455, 6443997, 6554520, 6664043, 6772584, 6880160, 6986788, 7092485]
def logT4 : List Nat := [7197266, 7301148, 7404147, 7506275, 7607550, 7707984, 7807591, 7906385, 8004379, 8101586, 8198018, 8293688, 8388608]
def logT : List Nat := logT0 ++ logT1 ++ logT2 ++ logT3 ++ logT4
def expT0 : List Nat := [0, 91346, 183687, 277033, 371395, 466786, 563215, 660693, 759234, 858847, 959546, 1061340, 1164243]
def expT1 : List Nat := [1268267, 1373424, 1479725, 1587184, 1695814, 1805626, 1916634, 2028850, 2142289, 2256963, 2372886, 2490071, 2608532]
def expT2 : List Nat := [2728283, 2849338, 2971711, 3095417, 3220470, 3346884, 3474675, 3603858, 3734447, 3866459, 3999908, 4134810, 4271181]
def expT3 : List Nat := [4409037, 4548394, 4689269, 4831678, 4975637, 5121164, 5268276, 5416990, 5567323, 5719293, 5872918, 6028216, 6185205]
def expT4 : List Nat := [6343903, 6504329, 6666503, 6830442, 6996167, 7163696, 7333050, 7504247, 7677309, 7852255, 8029107, 8207884, 8388608]
def expT : List Nat := expT0 ++ expT1 ++ expT2 ++ expT3 ++ expT4

/-- A log-domain word (Table 5-5): class (0 finite, 1 zero, 2 infinity, 3 NaN), sign and log. -/
structure LogW where
  (cls : Nat) (neg : Bool) (l : Int)
  deriving DecidableEq, Repr

def LogW.nan : LogW := ⟨3, false, 0⟩
def LogW.zero (s : Bool) : LogW := ⟨1, s, 0⟩
def LogW.inf (s : Bool) : LogW := ⟨2, s, 0⟩

/-- The word of a register (R289): bits [63:35] are ignored, and L too unless the class is 0. -/
def LogW.ofNat (x : Nat) : LogW :=
  let c := bits x 34 33
  if c = 0 then ⟨0, bit x 32, sextNat 32 x⟩ else if c = 3 then .nan else ⟨c, bit x 32, 0⟩

def LogW.toNat (w : LogW) : Nat :=
  w.cls * 2 ^ 33 + b2n (w.neg && w.cls != 3) * 2 ^ 32 + (if w.cls = 0 then wrapInt 32 w.l else 0)

/-- A finite result whose log may lie outside the range of R117 (R118). -/
def LogW.fin (s : Bool) (l : Int) : LogW :=
  if (2 ^ 31 : Int) - 1 < l then .inf s else if l < -(2 ^ 31 : Int) then .zero s else ⟨0, s, l⟩

/-- Interpolation in a table between points i and i + 1 (R133). -/
def interp64 (tab : List Nat) (i t : Nat) : Nat := nth tab i 0 + ((nth tab (i + 1) 0 - nth tab i 0) * t + 2 ^ 16) / 2 ^ 17

/-- `to_log` of a value that FP32 holds (R133). -/
def toLog : Fl → LogW
  | .nan => .nan
  | .inf s => .inf s
  | .num s n d =>
    if n = 0 then .zero s else
    let e := ilog2 n d
    let sig := if 0 ≤ e then n * 2 ^ 23 / (d * 2 ^ e.toNat) else n * 2 ^ 23 * 2 ^ (-e).toNat / d
    let f := sig - 2 ^ 23
    ⟨0, s, e * 2 ^ 23 + interp64 logT (f / 2 ^ 17) (f % 2 ^ 17)⟩

/-- `from_log` before rounding: the exact value that is rounded once (R133). -/
def fromLogV (w : LogW) : Fl :=
  match w.cls with
  | 3 => .nan
  | 1 => .num w.neg 0 1
  | 2 => .inf w.neg
  | _ =>
    let n := w.l / 2 ^ 23
    let g := (w.l % 2 ^ 23).toNat
    dyadic w.neg (2 ^ 23 + interp64 expT (g / 2 ^ 17) (g % 2 ^ 17)) (n - 23)

/-- `from_log` (R133). -/
def fromLog (f : Fmt) (mode : RMode) (ftz : Bool) (w : LogW) : Nat := roundFlush f mode ftz (fromLogV w)

/-! ### Special functions of a value (Table 12-6) -/

/-- rcp: L negated, the sign kept. -/
def logRcp (w : LogW) : LogW :=
  match w.cls with
  | 0 => .fin w.neg (-w.l)
  | 1 => .inf w.neg
  | 2 => .zero w.neg
  | _ => .nan

/-- sqrt: L halved, rounded toward −∞. -/
def logSqrt (w : LogW) : LogW :=
  match w.cls with
  | 0 => if w.neg then .nan else ⟨0, false, w.l / 2⟩
  | 1 => .zero w.neg
  | 2 => if w.neg then .nan else .inf false
  | _ => .nan

/-- rsqrt: the negated L halved. -/
def logRsqrt (w : LogW) : LogW :=
  match w.cls with
  | 0 => if w.neg then .nan else ⟨0, false, (-w.l) / 2⟩
  | 1 => .inf w.neg
  | 2 => if w.neg then .nan else .zero false
  | _ => .nan

/-- log2 as a value: L × 2^−23, +0 for 1.0. -/
def logLog2 (w : LogW) : Fl :=
  match w.cls with
  | 0 => if w.neg then .nan else Fl.scaled w.l (-23)
  | 1 => .inf true
  | 2 => if w.neg then .nan else .inf false
  | _ => .nan

/-- exp2 of a value: L is the integer nearest x × 2^23. -/
def logExp2 (x : Fl) : LogW :=
  match x with
  | .nan => .nan
  | .inf s => if s then .zero false else .inf false
  | v => .fin false (((Fl.mul v (.num false (2 ^ 23) 1)).toIntR .rn).getD 0)

/-! ### Log-word operations (Table 12-7) -/

def logMul (a b : LogW) : LogW :=
  let s := xor a.neg b.neg
  if a.cls = 3 ∨ b.cls = 3 then .nan
  else if (a.cls = 1 ∧ b.cls = 2) ∨ (a.cls = 2 ∧ b.cls = 1) then .nan
  else if a.cls = 1 ∨ b.cls = 1 then .zero s
  else if a.cls = 2 ∨ b.cls = 2 then .inf s
  else .fin s (a.l + b.l)

def logDiv (a b : LogW) : LogW :=
  let s := xor a.neg b.neg
  if a.cls = 3 ∨ b.cls = 3 then .nan
  else if (a.cls = 1 ∧ b.cls = 1) ∨ (a.cls = 2 ∧ b.cls = 2) then .nan
  else if b.cls = 1 ∨ a.cls = 2 then .inf s
  else if a.cls = 1 ∨ b.cls = 2 then .zero s
  else .fin s (a.l - b.l)

/-- lpow: a to the FP32 exponent y. The product is rounded to an integer first, and that integer is held against the range of R117
(R118 names neither for a product within half a unit of the range: DESIGN CHOICE, log 59). -/
def logPow (a : LogW) (y : Fl) : LogW :=
  if y.isZero then ⟨0, false, 0⟩
  else if a.cls = 3 || y.isNan then .nan
  else if a.neg && (a.cls == 0 || a.cls == 2) then .nan
  else if a.cls = 1 then (if y.isNeg then .inf false else .zero false)
  else if a.cls = 2 then (if y.isNeg then .zero false else .inf false)
  else match y with
    | .inf s => if a.l = 0 then ⟨0, false, 0⟩ else if decide (a.l < 0) = s then .inf false else .zero false
    | v => .fin false (((Fl.mul (Fl.ofInt a.l) v).toIntR .rn).getD 0)

end Sys2Proof.Machine
end

