-- ==== Sys2Proof/Machine/Mem.lean ====
section
/-! DEFINITION. Memory as one list of bytes in canonical form. A key says which memory a byte belongs to: device
physical memory from 0, host memory from 2^48 (spec 03 R75), the fabric of each peer port from 2^60 (port + 1)
(spec 09 R228), cluster SRAM from 2^63 (spec 03 R64), the tile stores from 2^64 (R70), the management core's RAM from
2^65 (spec 13 R342), the start record from 2^66 (spec 10 R250), the mailbox from 2^67 (spec 09 R233). -/

namespace Sys2Proof.Machine

/-- What an unlisted byte reads as (DESIGN CHOICE, log 2). -/
def emptyByte : Byte := 0

/-- The byte at a key. -/
def readCell (k : Nat) : List Host.Cell → Byte
  | [] => emptyByte
  | (k', v) :: t => if k' = k then v else readCell k t

/-- Stores a byte: rising keys, and no entry for a byte that reads as an unlisted one. -/
def writeCell (k : Nat) (v : Byte) : List Host.Cell → List Host.Cell
  | [] => if v = emptyByte then [] else [(k, v)]
  | (k', v') :: t =>
    if k < k' then (if v = emptyByte then (k', v') :: t else (k, v) :: (k', v') :: t)
    else if k' = k then (if v = emptyByte then t else (k, v) :: t)
    else (k', v') :: writeCell k v t

/-- Every entry lies above a bound, in rising order, and none is the empty byte. -/
def Memory.wfFrom : Nat → List Host.Cell → Bool
  | _, [] => true
  | lo, (k, v) :: t => decide (lo ≤ k) && decide (v ≠ emptyByte) && Memory.wfFrom (k + 1) t

/-- The canonical form of memory. -/
def Memory.wf (m : List Host.Cell) : Bool := Memory.wfFrom 0 m

/-- n bytes from a key. -/
def readCells (m : List Host.Cell) (k : Nat) : Nat → List Byte
  | 0 => []
  | n + 1 => readCell k m :: readCells m (k + 1) n

/-- Stores bytes from a key on. -/
def writeCells (m : List Host.Cell) (k : Nat) : List Byte → List Host.Cell
  | [] => m
  | b :: bs => writeCells (writeCell k b m) (k + 1) bs

/-- Bytes read as a little-endian number (spec 00 R2). -/
def natOfBytes : List Byte → Nat
  | [] => 0
  | b :: bs => b.toNat + 256 * natOfBytes bs

/-- The n bytes of a number, lowest first. -/
def bytesOfNat (x : Nat) : Nat → List Byte
  | 0 => []
  | n + 1 => BitVec.ofNat 8 x :: bytesOfNat (x / 256) n

/-- An n-byte little-endian value from a key. -/
def readNat (m : List Host.Cell) (k n : Nat) : Nat := natOfBytes (readCells m k n)

/-- A field of bytes inside a byte list. -/
def byteField (l : List Byte) (off n : Nat) : Nat := natOfBytes ((l.drop off).take n)

/-! ### Keys -/

def hostKey (a : Nat) : Nat := 2 ^ 48 + a % 2 ^ 48
def peerKey (port a : Nat) : Nat := 2 ^ 60 * (port + 1) + a % 2 ^ 60
def sramKey (cl bank byte : Nat) : Nat := 2 ^ 63 + cl * 2 ^ 23 + bank * 2 ^ 18 + byte
def tileKey (core chunk byte : Nat) : Nat := 2 ^ 64 + core * 2 ^ 18 + chunk * 512 + byte
def mgmtKey (a : Nat) : Nat := 2 ^ 65 + a
def startKey (a : Nat) : Nat := 2 ^ 66 + a
def mailKey (a : Nat) : Nat := 2 ^ 67 + a

/-- The key through which the bytes of a block of a compressed page are seen as a codebook decodes them (R83, R84). -/
def viewKey (book k : Nat) : Nat := 2 ^ 100 + book * 2 ^ 64 + k
def isView (k : Nat) : Bool := decide (2 ^ 100 ≤ k)
/-- The codebook of a view's key, and the physical key behind a key. -/
def viewBook (k : Nat) : Nat := (k - 2 ^ 100) / 2 ^ 64
def physOf (k : Nat) : Nat := if isView k then k % 2 ^ 64 else k

def isDevice (k : Nat) : Bool := decide (physOf k < 2 ^ 48)
def isHost (k : Nat) : Bool := decide (2 ^ 48 ≤ k ∧ k < 2 ^ 49)
def isPeer (k : Nat) : Bool := decide (2 ^ 60 ≤ k ∧ k < 2 ^ 60 * 3)
def isSram (k : Nat) : Bool := decide (2 ^ 63 ≤ k ∧ k < 2 ^ 64)
def isTile (k : Nat) : Bool := decide (2 ^ 64 ≤ k ∧ k < 2 ^ 65)
/-- Memory that is reached through the slices and cached in clusters (Table 3-1). -/
def isGlobal (k : Nat) : Bool := isDevice k || isHost k || isPeer k

/-! ### Poison (spec 19 R454, R455) -/

/-- The first poisoned range that the bytes touch. -/
def poisonAt (m : MemSys) (k n : Nat) : Option (Nat × Nat) :=
  m.poison.find? fun e => decide (e.1 < physOf k + n ∧ physOf k < e.1 + e.2)

/-- Marks a range poisoned. -/
def setPoison (m : MemSys) (k n : Nat) : MemSys :=
  if m.poison.contains (k, n) then m else { m with poison := insertBy (fun a b => decide (a.1 < b.1)) (k, n) m.poison }

/-- Ends the poison of the ranges that a write covers whole. -/
def clearPoison (m : MemSys) (k n : Nat) : MemSys :=
  { m with poison := m.poison.filter fun e => !(decide (k ≤ e.1 ∧ e.1 + e.2 ≤ k + n)) }

/-- Ends the poison of granules and chunks that one access writes whole; blocks of device memory keep theirs (R454). -/
def clearPoisonSmall (m : MemSys) (k n : Nat) : MemSys :=
  if isGlobal k then m else clearPoison m (physOf k) n

/-! ### Ownership (spec 03 R72, spec 04 R90) -/

/-- Words of a line that the bytes touch, as a mask of 32. -/
def wordMask (k n : Nat) : Nat :=
  let lo := k % 128 / 4
  let hi := (k % 128 + n - 1) / 4
  maskOf ((List.range 32).filter fun i => decide (lo ≤ i ∧ i ≤ hi))

/-- Clears bits of a mask. -/
def clearBits (m c : Nat) : Nat := maskOf ((bitList m 32).filter fun i => !bit c i)

/-- Registers ownership of words for a cluster: the words leave every other owner, and a third cluster releases the
owner that registered earlier (DEDUCED, log 53). -/
def register (m : MemSys) (cl k n : Nat) : MemSys :=
  let line := physOf k / 128
  let w := wordMask k n
  let others := ((m.registry.getD line []).filter fun e => e.1 != cl).map fun e => (e.1, clearBits e.2 w)
  let others := others.filter fun e => e.2 != 0
  let mine := ((m.registry.getD line []).filter fun e => e.1 == cl).foldl (fun a e => maskOf (bitList a 32 ++ bitList e.2 32)) w
  let keep := if others.length ≤ 1 then others else others.drop (others.length - 1)
  { m with registry := m.registry.set line (keep ++ [(cl, mine)]) }

/-- The words of one line that n bytes from a key touch leave every owner (DEDUCED, log 53). -/
def disownLine (k n : Nat) (m : MemSys) (line : Nat) : MemSys :=
  match m.registry.get? line with
  | none => m
  | some l =>
    let w := maskOf ((List.range 32).filter fun i => decide (128 * line + 4 * i < k + n ∧ k < 128 * line + 4 * i + 4))
    let l' := (l.map fun e => (e.1, clearBits e.2 w)).filter fun e => e.2 != 0
    { m with registry := if l'.isEmpty then m.registry.del line else m.registry.set line l' }

/-- A write from outside the clusters leaves its words without an owner (R90) (DEDUCED, log 53). -/
def disown (m : MemSys) (k n : Nat) : MemSys :=
  let p := physOf k
  ((List.range ((p + n - 1) / 128 + 1 - p / 128)).map (p / 128 + ·)).foldl (disownLine p n) m

/-- The words of whole lines from a key on leave every owner (R90). -/
def disownLines (m : MemSys) (k n : Nat) : MemSys :=
  { m with registry := m.registry.filter fun e => !(decide (k / 128 ≤ e.1 ∧ e.1 < (k + n) / 128)) }

/-- The cluster that owns the word of a byte. -/
def ownerOf (m : MemSys) (k : Nat) : Option Nat :=
  ((m.registry.getD (physOf k / 128) []).find? fun e => bit e.2 (k % 128 / 4)).map (·.1)

/-! ### Scratchpad (spec 03 R58, R64) -/

/-- Banks of a cluster in scratchpad mode, in ascending number. -/
def scratchBanks (c : Cluster) : List Nat := (List.range c.banks.length).filter fun b => (nth c.banks b ⟨0, none⟩).mode == 1

/-- The key of a scratchpad offset, if it lies in the scratchpad space. -/
def scratchKey (c : Cluster) (cl off : Nat) : Option Nat :=
  ((scratchBanks c)[off / 2 ^ 18]?).map fun b => sramKey cl b (off % 2 ^ 18)

end Sys2Proof.Machine
end

