-- ==== Sys2Proof/Machine/Access.lean ====
section
/-! DEFINITION. Reading and changing the objects of the state: clusters, cores, threads, gangs, teams, grids, tiles,
operations and contexts, with the values that an object not listed has at reset. -/

namespace Sys2Proof.Machine

/-- A cluster with every field at its reset value (Tables 3-2, 7-6, 10-3, 10-4). -/
def Cluster.initial : Cluster :=
  { bankMode := 0, banks := List.replicate 32 ⟨0, none⟩, throttle := 0, fstep := 15, cur := 2, req := 2, step := 15, base := 15, gap := 4, wave := 16,
    memoTable := List.replicate 16 0, memo := [], audit := ⟨0, 0, 0⟩, hits := [], skipCnt := 0, hitCnt := 0,
    savedFc := 0, infReqs := [], infBatches := [], infWait := [], copies := [], lines := [], rejected := [], forage := none, empties := 0, forageWait := none, slots := [] }

/-- A core that holds nothing. -/
def Core.initial : Core :=
  { records := [], matq := [], running := none, bypass := none, selfTest := false, rr := 0, tlb := [], spill := [],
    victims := [], joinSpill := [], slid := [], kicks := [] }

/-- The default of a thread lookup: a thread with no registers that has Exited. -/
def Thread.none : Thread :=
  { gang := 0, pos := 0, tid := 0, g := Vector.replicate 64 0, p := 0, f := Vector.replicate 12 0, pc := 0, after := 0, clause := .none, hintNow := [], hintEnd := [], run := .exited, since := 0,
    entered := [], held := [], region := .none, query := .none, savedPc := 0 }

/-- The default of a gang lookup. -/
def Gang.none : Gang :=
  { team := 0, num := 0, core := 0, window := 0, width := 8, index := 0, d := 64, jcount := 8, at_ := [], slots := [], words := [],
    jregs := [], w := Vector.replicate 32 0, joins := [], h := Vector.replicate 16 .none, offers := [], queue := [], raised := [], frameK := Vector.replicate 4 0, frameS := Vector.replicate 4 0,
    delivery := .none, nested := .none, nestq := [], undo := [], item := .none }

def Launch.none : Launch :=
  { entry := 0, n := 0, t := 0, joins := 0, gwidth := 0, regs := 0, tiles := 0, loc := 0, privSize := 0, privRing := 0,
    privBase := 0, args := 0, depAddr := 0, depVal := 0, cpl := 0, depKind := 0, order := false, coop := false }

def Team.none : Team :=
  { grid := 0, idx := 0, kind := .one, cores := [], gangs := [], localBase := 0, localSize := 0, role := .plain,
    res := .resident, urgent := false, waves := [], arrivals := [], groups := 0, partialGroups := 0, width := 8, d := 64, t := 0, entry := 0, tilesRes := 0, chunks := [] }

def Grid.none : Grid :=
  { ctx := 0, qid := 0, slot := 0, launch := .none, width := 8, n := 0, nextIdx := 0, done := 0, failed := false, urgent := false,
    firstPass := 0, pipeline := false, returned := [], resumed := [], assignedAt := 0, rank := 0,
    ringDone := [], batch := .none }

def Context.none : Context :=
  { root := 0, drainLimit := 2 ^ 24, pool := 0, poolUsed := [], saveArea := 0, freeFrames := [], frameBase := 0, frameCount := 0,
    pagingCtl := 0x0800, memoMode := 0x1000000000, energy := 0, div := [], divPending := [], peers := [], paged := [], transfer := [], booked := [],
    drain := .none, pins := [] }

/-- The number that stands for the management core in `Group.core` and `Gang.core`. -/
def mgmtCore : Nat := 288

namespace State

def cluster (s : State) (c : Nat) : Cluster := s.clusters.getD c .initial
def core (s : State) (c : Nat) : Core := s.cores.getD c .initial
def thread (s : State) (t : Nat) : Thread := s.threads.getD t .none
def gang (s : State) (g : Nat) : Gang := s.gangs.getD g .none
def team (s : State) (t : Nat) : Team := s.teams.getD t .none
def grid (s : State) (g : Nat) : Grid := s.grids.getD g .none
def ctx (s : State) (c : Nat) : Context := s.ctxs.getD c .none

def setCluster (s : State) (c : Nat) (v : Cluster) : State := { s with clusters := s.clusters.set c v }
def setCore (s : State) (c : Nat) (v : Core) : State := { s with cores := s.cores.set c v }
def setThread (s : State) (t : Nat) (v : Thread) : State := { s with threads := s.threads.set t v }
def setGang (s : State) (g : Nat) (v : Gang) : State := { s with gangs := s.gangs.set g v }
def setTeam (s : State) (t : Nat) (v : Team) : State := { s with teams := s.teams.set t v }
def setGrid (s : State) (g : Nat) (v : Grid) : State := { s with grids := s.grids.set g v }
def setTile (s : State) (t : Nat) (v : Tile) : State := { s with tiles := s.tiles.set t v }
def setOp (s : State) (o : Nat) (v : Op) : State := { s with ops := s.ops.set o v }
def setCtx (s : State) (c : Nat) (v : Context) : State := { s with ctxs := s.ctxs.set c v }
def setQueue (s : State) (q : Nat) (v : Queue) : State := { s with queues := s.queues.set q v }
def setInst (s : State) (i : Nat) (v : Instance) : State := { s with insts := s.insts.set i v }
def setFrame (s : State) (f : Nat) (v : Frame) : State := { s with frames := s.frames.set f v }
def setStruct (s : State) (k : Nat) (v : Struct) : State := { s with structs := s.structs.set k v }
def setMem (s : State) (m : MemSys) : State := { s with mem := m }
def setMgmt (s : State) (m : Mgmt) : State := { s with mgmt := m }
def setSched (s : State) (m : Sched) : State := { s with sched := m }

def modCluster (s : State) (c : Nat) (f : Cluster → Cluster) : State := s.setCluster c (f (s.cluster c))
def modCore (s : State) (c : Nat) (f : Core → Core) : State := s.setCore c (f (s.core c))
def modThread (s : State) (t : Nat) (f : Thread → Thread) : State :=
  match s.threads.get? t with
  | some v => s.setThread t (f v)
  | none => s
def modGang (s : State) (g : Nat) (f : Gang → Gang) : State :=
  match s.gangs.get? g with
  | some v => s.setGang g (f v)
  | none => s
def modTeam (s : State) (t : Nat) (f : Team → Team) : State :=
  match s.teams.get? t with
  | some v => s.setTeam t (f v)
  | none => s
def modGrid (s : State) (g : Nat) (f : Grid → Grid) : State :=
  match s.grids.get? g with
  | some v => s.setGrid g (f v)
  | none => s
def modTile (s : State) (t : Nat) (f : Tile → Tile) : State :=
  match s.tiles.get? t with
  | some v => s.setTile t (f v)
  | none => s
def modCtx (s : State) (c : Nat) (f : Context → Context) : State :=
  match s.ctxs.get? c with
  | some v => s.setCtx c (f v)
  | none => s
def modQueue (s : State) (q : Nat) (f : Queue → Queue) : State :=
  match s.queues.get? q with
  | some v => s.setQueue q (f v)
  | none => s
def modInst (s : State) (i : Nat) (f : Instance → Instance) : State :=
  match s.insts.get? i with
  | some v => s.setInst i (f v)
  | none => s
def modFrame (s : State) (i : Nat) (f : Frame → Frame) : State :=
  match s.frames.get? i with
  | some v => s.setFrame i (f v)
  | none => s
def modMgmt (s : State) (f : Mgmt → Mgmt) : State := s.setMgmt (f s.mgmt)
def modMem (s : State) (f : MemSys → MemSys) : State := s.setMem (f s.mem)

/-! ### Where a thread stands -/

def gangOf (s : State) (t : Nat) : Gang := s.gang (s.thread t).gang
def teamIdOf (s : State) (t : Nat) : Nat := (s.gangOf t).team
def teamOf (s : State) (t : Nat) : Team := s.team (s.gangOf t).team
def gridOf (s : State) (t : Nat) : Grid := s.grid (s.teamOf t).grid
def ctxOf (s : State) (t : Nat) : Nat := (s.gridOf t).ctx
def coreOf (s : State) (t : Nat) : Nat := (s.gangOf t).core
def clusterOf (s : State) (t : Nat) : Nat := s.coreOf t / 16
def isMgmt (s : State) (t : Nat) : Bool := s.coreOf t == mgmtCore
/-- The lane of a thread (R23). -/
def laneOf (s : State) (t : Nat) : Nat := (s.gangOf t).window * (s.gangOf t).width + (s.thread t).pos
/-- Front cycles of a core's cluster; the fabric count on the management core (Table 13-7). -/
def nowAt (s : State) (core : Nat) : Nat := if core == mgmtCore then s.clk.fabric else nth s.clk.front (core / 16) 0
def nowOf (s : State) (t : Nat) : Nat := s.nowAt (s.coreOf t)

/-- The handler level at which a thread runs (R432). -/
def levelOf (s : State) (t : Nat) : Level :=
  match (s.thread t).entered with
  | e :: _ => e.level
  | [] => .user

/-- Unperformed accesses of a thread, by number (R95). -/
def accsOf (s : State) (t : Nat) : Tab Access := s.accs.filter fun e => e.2.thread == t

/-- A fresh number for a record (DESIGN CHOICE, log 6). -/
def fresh (s : State) : Nat × State := (s.sched.nextId, { s with sched := { s.sched with nextId := s.sched.nextId + 1 } })

/-- The next place in issue order. -/
def nextOrder (s : State) : Nat × State := (s.sched.order, { s with sched := { s.sched with order := s.sched.order + 1 } })

/-- The next free value's index (DESIGN CHOICE, log 6). -/
def draw (s : State) : Nat × State := (s.sched.draws, { s with sched := { s.sched with draws := s.sched.draws + 1 } })

/-- How the next open choice among n falls; the first when the schedule names none (DESIGN CHOICE, log 3). -/
def choose (s : State) (n : Nat) : Nat × State :=
  match s.sched.choices with
  | [] => (0, s)
  | c :: cs => (if n = 0 then 0 else c % n, { s with sched := { s.sched with choices := cs } })

/-- Whether the next access is left unperformed at its issue (DESIGN CHOICE, log 4). -/
def deferNext (s : State) : Bool × State :=
  match s.sched.defer with
  | [] => (false, s)
  | c :: cs => (c, { s with sched := { s.sched with defer := cs } })

/-- Puts steps of the other agents next (DESIGN CHOICE, log 3). -/
def push (s : State) (l : List Instr) : State := { s with sched := { s.sched with agenda := s.sched.agenda ++ l } }

/-! ### Registers -/

/-- A general register of a thread (R20). -/
def gr (s : State) (t n : Nat) : Word := vget (s.thread t).g n 0
/-- Writes a general register. -/
def setG (s : State) (t n : Nat) (v : Word) : State := s.modThread t fun x => { x with g := vset x.g n v }
/-- A predicate; p15 reads as true (R268). -/
def pr (s : State) (t n : Nat) : Bool := n == 15 || (s.thread t).p.getLsbD n
/-- Writes a predicate; p15 ignores writes. -/
def setP (s : State) (t n : Nat) (v : Bool) : State :=
  if n == 15 then s else
  s.modThread t fun x => { x with p := if v then x.p ||| BitVec.ofNat 16 (2 ^ n) else x.p &&& ~~~ (BitVec.ofNat 16 (2 ^ n)) }
/-- A uniform register of a thread's gang. -/
def ur (s : State) (t n : Nat) : Word := vget (s.gangOf t).w n 0
/-- Writes a uniform register of a gang. -/
def setW (s : State) (g n : Nat) (v : Word) : State := s.modGang g fun x => { x with w := vset x.w n v }

/-- Adds 1 to a completion flag (R256); 12 to 15 name none. -/
def incFlag (s : State) (t n : Nat) : State := s.modThread t fun x => { x with f := vset x.f n (vget x.f n 0 + 1) }
/-- Takes 1 from a completion flag. -/
def decFlag (s : State) (t n : Nat) : State := s.modThread t fun x => { x with f := vset x.f n (vget x.f n 0 - 1) }

end State

/-- All flags of a thread are zero (R294). -/
def Thread.flagsClear (t : Thread) : Bool := t.f.toList.all (· == 0)

end Sys2Proof.Machine
end

