-- ==== Sys2Proof/Machine/Blocks.lean ====
section
/-! DEFINITION. Blocks of compressed pages (spec 03 R81 to R84): codebooks and their canonical codes, the payload of a
block, its slot in memory and its metadata code, and how a block looks through a leaf that names a codebook. An access through
such a leaf has a key of its own, at which the values of the block are kept for that access. -/

namespace Sys2Proof.Machine

/-- Elements of a block, their width, exponent bits, mantissa bits and the byte at which the stream starts (Table 3-10), by
the codebook's kind: 0 BF16, 1 E4M3, 2 E5M2 (PRESUMED, log 16). -/
def blockShape (kind : Nat) : Nat × Nat × Nat × Nat × Nat :=
  match kind with
  | 0 => (128, 16, 8, 7, 128)
  | 1 => (256, 8, 4, 3, 128)
  | _ => (256, 8, 5, 2, 96)

/-- Symbols of a kind of codebook (R84) (PRESUMED, log 16). -/
def bookSymbols (kind : Nat) : Nat := 2 ^ (blockShape kind).2.2.1

/-- The Kraft sum of a codebook in units of 2^-15 (R84). -/
def kraft (lens : List Nat) : Nat := (lens.map fun l => if l = 0 then 0 else 2 ^ (15 - l)).sum

/-- Symbols in order of length and value, each with its canonical code (R84). -/
def codeTable (b : Codebook) : List (Nat × Nat × Nat) :=
  let syms := ((List.range (bookSymbols b.kind)).map fun x => (x, nth b.lens x 0)).filter fun p => p.2 != 0
  let order := sortBy (fun (x y : Nat × Nat) => decide (x.2 < y.2) || (x.2 == y.2 && decide (x.1 < y.1))) syms
  (order.foldl (fun (acc : List (Nat × Nat × Nat) × Nat × Nat) p =>
    let code := if acc.1.isEmpty then 0 else (acc.2.1 + 1) * 2 ^ (p.2 - acc.2.2)
    ((p.1, p.2, code) :: acc.1, code, p.2)) ([], 0, 0)).1

/-- A code's bits from the most significant one, as a number read from bit 0 upward (R82). -/
def streamBits (len code : Nat) : Nat := maskOf ((List.range len).filter fun j => bit code (len - 1 - j))

/-- Element i of a block of values: its exponent, and its sign and mantissa as the raw section holds them. -/
def blockElem (kind v i : Nat) : Nat × Nat :=
  let (_, w, e, m, _) := blockShape kind
  let x := v / 2 ^ (w * i) % 2 ^ w
  (bits x (e + m - 1) m, b2n (bit x (e + m)) * 2 ^ m + x % 2 ^ m)

/-- The payload of a block and its stream's bits; none where an exponent has no code (R82, R83). -/
def encodeBlock (b : Codebook) (v : Nat) : Option (Nat × Nat) :=
  let (n, _, _, m, start) := blockShape b.kind
  let tab := codeTable b
  (List.range n).foldl (fun acc i => match acc, tab.find? fun c => c.1 == (blockElem b.kind v i).1 with
    | some (p, k), some (_, len, code) =>
      some (p + (blockElem b.kind v i).2 * 2 ^ ((m + 1) * i) + streamBits len code * 2 ^ (8 * start + k), k + len)
    | _, _ => none) (some (0, 0))

/-- The metadata code of a block of values under a codebook (Table 3-9, R83). -/
def blockCodeOf (b : Codebook) (v : Nat) : Nat :=
  if v = 0 then 0 else
  match encodeBlock b v with
  | none => 8
  | some (_, k) =>
    let len := (blockShape b.kind).2.2.2.2 + ceilDiv k 8
    if 224 < len then 8 else ceilDiv len 32

/-- Reads n elements of a payload from a stream position; none where the stream does not decode (R84). Bits that are left over
behind the last element are not looked at (DESIGN CHOICE, log 57). -/
def decodeGo (b : Codebook) (tab : List (Nat × Nat × Nat)) (p limit : Nat) (i pos : Nat) : Nat → Option Nat
  | 0 => some 0
  | left + 1 =>
    let (_, w, _, m, _) := blockShape b.kind
    match tab.find? fun c => decide (pos + c.2.1 ≤ limit) && p / 2 ^ pos % 2 ^ c.2.1 == streamBits c.2.1 c.2.2 with
    | none => none
    | some (sym, len, _) =>
      let raw := p / 2 ^ ((m + 1) * i) % 2 ^ (m + 1)
      let x := raw / 2 ^ m * 2 ^ (w - 1) + sym * 2 ^ m + raw % 2 ^ m
      (decodeGo b tab p limit (i + 1) (pos + len) left).map fun r => x * 2 ^ (w * i) + r

/-- Decodes a payload of a number of 32-byte sectors under a codebook. -/
def decodeBlock (b : Codebook) (p sectors : Nat) : Option Nat :=
  decodeGo b (codeTable b) p (256 * sectors) 0 (8 * (blockShape b.kind).2.2.2.2) (blockShape b.kind).1

/-- The codebook of an index. -/
def bookOf (s : State) (n : Nat) : Codebook := nth s.mgmt.codebooks n ⟨0, []⟩

/-- COMP agrees with the kind of the codebook that its leaf names (R82). -/
def kindFits (comp kind : Nat) : Bool := if comp = 1 then kind == 0 else kind != 0

/-- What a read of a block gives under the codebook that its leaf names now (Table 3-9, R84); none where it is poisoned. -/
def blockView (s : State) (book blk : Nat) : Option Nat :=
  match s.mem.blockCode.getD blk 0 with
  | 0 => some 0
  | 8 => some (readNat s.mem.cells (256 * blk) 256)
  | c => if 9 ≤ c then none else decodeBlock (bookOf s book) (readNat s.mem.cells (256 * blk) (32 * c)) c

/-- What the slot of a block holds for values of a code under a codebook (Table 3-9): no byte, the payload, or the values. -/
def slotBytes (b : Codebook) (v code : Nat) : List Byte :=
  match code with
  | 0 => []
  | 8 => bytesOfNat v 256
  | c => bytesOfNat (((encodeBlock b v).map (·.1)).getD 0) (32 * c)

/-- The memory controller encodes a block (R83). -/
def encodeAt (m : MemSys) (b : Codebook) (blk v : Nat) : MemSys :=
  let c := blockCodeOf b v
  { m with cells := writeCells m.cells (256 * blk) (slotBytes b v c), blockCode := m.blockCode.set blk c }

/-- A block of a compressed page is written under a codebook (R83). -/
def putBlock (s : State) (book blk v : Nat) : State := s.setMem (encodeAt s.mem (bookOf s book) blk v)

/-- The view of a block takes its values, for the access that follows. -/
def openView (s : State) (book blk v : Nat) : State :=
  s.setMem { s.mem with cells := writeCells s.mem.cells (viewKey book (256 * blk)) (bytesOfNat v 256) }

/-- Before a write through a view, the controller reads and decodes the block (R83). -/
def intoView (s : State) (k : Nat) : State :=
  if isView k then (match blockView s (viewBook k) (physOf k / 256) with
    | some v => openView s (viewBook k) (physOf k / 256) v
    | none => s) else s

/-- After a write through a view, the controller encodes the block again (R83); the slot of a block that stays poisoned keeps the
values as they are, with code 15 (R454) (DEDUCED, log 52). -/
def settleView (s : State) (k : Nat) : State :=
  if isView k then
    let blk := physOf k / 256
    let v := readNat s.mem.cells (viewKey (viewBook k) (256 * blk)) 256
    if 15 ≤ s.mem.blockCode.getD blk 0 then s.setMem { s.mem with cells := writeCells s.mem.cells (256 * blk) (bytesOfNat v 256) }
    else putBlock s (viewBook k) blk v
  else s

/-- The block behind a view's key does not decode now, so that a read returns poisoned data (R84). -/
def viewLost (s : State) (k : Nat) : Bool := isView k && (blockView s (viewBook k) (physOf k / 256)).isNone

/-- The key of an access through a leaf of a compressed page: a load sees the block as its codebook decodes it, and a store has
it decoded, merged and encoded again (R83, R84). None where the block reads as poisoned, and where COMP and the codebook's kind
disagree (DESIGN CHOICE, log 57). A store into a block that does not decode leaves it poisoned, with code 15
(DEDUCED, log 52). -/
def throughBook (s : State) (comp book k : Nat) (store : Bool) : State × Option Nat :=
  if comp = 0 || !isDevice k then (s, some k) else
  let blk := k / 256
  let fits := kindFits comp (bookOf s book).kind
  match (if fits then blockView s book blk else none), store with
  | some v, true => (openView s book blk v, some (viewKey book k))
  | some v, false =>
    if v = readNat s.mem.cells (256 * blk) 256 then (s, some k) else (openView s book blk v, some (viewKey book k))
  | none, true =>
    let s1 := openView s book blk (readNat s.mem.cells (256 * blk) 256)
    if 15 ≤ s.mem.blockCode.getD blk 0 then (s1, some (viewKey book k))
    else (s1.setMem (setPoison { s1.mem with blockCode := s1.mem.blockCode.set blk 15 } (256 * blk) 256), some (viewKey book k))
  | none, false => (s, none)

end Sys2Proof.Machine
end

