-- ==== Sys2Proof/Machine/Translate.lean ====
section
/-! DEFINITION. Addresses: the table walk (spec 03 R74 to R78, spec 19 R452), permissions, and the key of a thread's
access in each space (R56, R59, R342, R451). -/

namespace Sys2Proof.Machine

/-- Cause codes (Tables 18-1 and 19-1). -/
def cEncoding : Nat := 0x01
def cOperand : Nat := 0x02
def cAlign : Nat := 0x03
def cTransl : Nat := 0x04
def cPerm : Nat := 0x05
def cPoison : Nat := 0x06
def cStale : Nat := 0x07
def cShader : Nat := 0x08
def cJoin : Nat := 0x09
def cSoft : Nat := 0x0A
def cCopy : Nat := 0x10
def cGather : Nat := 0x11
def cPush : Nat := 0x12
def cTile : Nat := 0x13
def cCount : Nat := 0x14
def cPeer : Nat := 0x15
def cPaging : Nat := 0x16

/-- A cause and its INFO. -/
abbrev Flt := Nat × Word

/-- Where an address leads: a key; a cause; or a backed page to be paged in (R79). -/
inductive Res where
  | ok (key : Nat)
  | bad (f : Flt)
  | page (va : Nat)
  deriving DecidableEq, Repr

/-- What an access does with a page. -/
inductive Use where | load | store | fetch
  deriving DecidableEq, Repr

/-- Bytes of the page of a leaf at a level (Table 3-6). -/
def pageSize (lv : Nat) : Nat := if lv = 1 then 2 ^ 34 else if lv = 2 then 2 ^ 25 else 2 ^ 16

/-- Index of a level in a virtual address (Table 3-6). -/
def levelIndex (va lv : Nat) : Nat := va / 2 ^ (43 - 9 * lv) % 512

/-- INFO of a translation fault (Table 18-1): 2^63 for a leaf not present, 2^62 for a broken entry. -/
def translInfo (va flag : Nat) : Word := wordOf (2 ^ flag + va % 2 ^ 52)

/-- The absolute scratchpad address of a byte of cluster SRAM: cluster and offset in the scratchpad space (R58, R455). -/
def scratchAddr (s : State) (k : Nat) : Nat :=
  let cl := k % 2 ^ 63 / 2 ^ 23
  let i := ((scratchBanks (s.cluster cl)).takeWhile fun b => b != k % 2 ^ 23 / 2 ^ 18).length
  cl * 2 ^ 23 + i * 2 ^ 18 + k % 2 ^ 18

/-- INFO of a poison cause in global memory: the block's physical address (Table 18-1). -/
def poisonInfo (k : Nat) : Word :=
  if isHost k then wordOf ((k - 2 ^ 48) / 256 * 256) else wordOf (k % 2 ^ 60 / 256 * 256)

/-- The end of a walk. -/
inductive WalkEnd where
  | leaf (lv : Nat) (pa : Nat) (e : Nat)
  | backed (lv : Nat) (pa : Nat)
  | bad (f : Flt)
  deriving DecidableEq, Repr

/-- A present leaf breaks Table 3-7 (DEDUCED, log 50). -/
def leafBroken (peers : Tab (Nat × Nat)) (lv e : Nat) : Bool :=
  lv == 0 || bits e 59 58 == 3 || bits e 57 56 == 3 || bits e 47 12 * 4096 % pageSize lv != 0
    || (bits e 57 56 == 2 && (peers.get? (bits e 55 52)).isNone)

/-- The walk from a table down the levels (R74, R452). An entry with P = 0 is judged before its other fields
(DEDUCED, log 50). -/
def walk (m : MemSys) (c : Context) (va : Nat) (tbl : Nat) : List Nat → WalkEnd
  | [] => .bad (cTransl, translInfo va 62)
  | lv :: rest =>
    let pa := tbl + 8 * levelIndex va lv
    match poisonAt m pa 8 with
    | some p => .bad (cPoison, poisonInfo p.1)
    | none =>
      let e := readNat m.cells pa 8
      if !bit e 0 then
        if bit e 1 && bit e 2 && lv != 0 && c.pagingCtl.getLsbD 0 then .backed lv pa else .bad (cTransl, translInfo va 63)
      else if bits e 51 48 != 0 || bits e 11 8 != 0 || bit e 5 then .bad (cTransl, translInfo va 62)
      else if bit e 1 then
        if leafBroken c.peers lv e then .bad (cTransl, translInfo va 62) else .leaf lv pa e
      else if lv == 3 then .bad (cTransl, translInfo va 62)
      else walk m c va (bits e 47 12 * 4096) rest

/-- The key that a leaf gives an address (R75, R228). -/
def leafKey (c : Context) (lv e va : Nat) : Nat :=
  let pa := bits e 47 12 * 4096 + va % pageSize lv
  match bits e 57 56 with
  | 0 => pa % 2 ^ 48
  | 1 => hostKey pa
  | _ =>
    match c.peers.get? (bits e 55 52) with
    | some pr => peerKey pr.1 (pr.2 + pa)
    | none => peerKey 0 pa

/-- The permission cause of a leaf for an access (Table 3-7, R519). -/
def leafDenies (e : Nat) (sup : Bool) (u : Use) : Bool :=
  (bit e 4 && !sup) || (decide (u = .store) && !bit e 3) || (decide (u = .fetch) && bit e 63)

/-- The entry with ACC set, and DIRTY for a store (R76). -/
def touched (e : Nat) (u : Use) : Nat :=
  let e1 := if bit e 6 then e else e + 2 ^ 6
  if decide (u = .store) && !bit e1 7 then e1 + 2 ^ 7 else e1

/-- Writes the touched entry back when it changed. -/
def touchEntry (m : MemSys) (pa e : Nat) (u : Use) : MemSys :=
  if touched e u = e then m else { m with cells := writeCells m.cells pa (bytesOfNat (touched e u) 8) }

/-- A cached translation of a core for an address (R77). -/
def tlbHit (s : State) (core ctx va : Nat) : Option TlbEntry :=
  (s.core core).tlb.find? fun e => e.ctx == ctx && decide (e.va ≤ va ∧ va < e.va + e.size)

/-- The end of an address at a leaf: its key, as the leaf's compression shows it (R84). -/
def leafRes (s : State) (ctx lv e va : Nat) (u : Use) : State × Res :=
  let k := leafKey (s.ctx ctx) lv e va
  match throughBook s (bits e 59 58) (bits e 62 60) k (u == .store) with
  | (s1, some k1) => (s1, .ok k1)
  | (s1, none) => (s1, .bad (cPoison, poisonInfo k))

/-- Two translations of a cache that stand in one set: of 64 KiB pages in eight-way sets, 128 of them, by page number; all
larger pages in one (R77) (DESIGN CHOICE, log 56). -/
def TlbEntry.sameSet (e f : TlbEntry) : Bool :=
  let small (x : TlbEntry) := x.size == 2 ^ 16
  small e == small f && (!small e || e.va / 2 ^ 16 % 128 == f.va / 2 ^ 16 % 128)

/-- A cache's list without what does not fit its set beside a new entry, of which n may stay (R77). -/
def tlbTrim (e : TlbEntry) : Nat → List TlbEntry → List TlbEntry
  | _, [] => []
  | n, f :: fs =>
    if e.sameSet f then (match n with
      | 0 => tlbTrim e 0 fs
      | k + 1 => f :: tlbTrim e k fs)
    else f :: tlbTrim e n fs

/-- A core's cache takes a translation, in place of the oldest of a full set (R77) (DESIGN CHOICE, log 56). -/
def tlbTake (e : TlbEntry) (l : List TlbEntry) : List TlbEntry :=
  e :: tlbTrim e (if e.size = 2 ^ 16 then 7 else 127) (l.filter fun t => !(t.ctx == e.ctx && t.va == e.va))

/-- Ends a translation at a leaf: permission, then ACC and DIRTY. -/
def endAtLeaf (s : State) (core ctx va lv pa e : Nat) (sup : Bool) (u : Use) : State × Res :=
  if leafDenies e sup u then (s, .bad (cPerm, wordOf va))
  else
    let m := touchEntry s.mem pa e u
    let va0 := va / pageSize lv * pageSize lv
    let s1 := s.setMem m
    let s2 := if core < 288 then
        s1.modCore core fun c =>
          { c with tlb := tlbTake ⟨ctx, va0, pageSize lv, pa, touched e u⟩ c.tlb }
      else s1
    leafRes s2 ctx lv e va u

/-- A walk and what it leads to. -/
def translateWalk (s : State) (core ctx va : Nat) (sup : Bool) (u : Use) : State × Res :=
  match walk s.mem (s.ctx ctx) va (s.ctx ctx).root [0, 1, 2, 3] with
  | .bad f => (s, .bad f)
  | .backed lv _ => (s, .page (va / pageSize lv * pageSize lv))
  | .leaf lv pa e => endAtLeaf s core ctx va lv pa e sup u

/-- The level of a page by its size. -/
def levelOfSize (n : Nat) : Nat := if n = 2 ^ 34 then 1 else if n = 2 ^ 25 then 2 else 3

/-- Translates a virtual address of a context. A cached entry serves unless the schedule says that it is gone (DESIGN CHOICE, log 4);
a store through a cached entry without DIRTY sets it in an entry still present with the same ADDR, and walks again
otherwise (R76). -/
def translate (s : State) (core ctx va : Nat) (sup : Bool) (u : Use) : State × Res :=
  match tlbHit s core ctx va with
  | none => translateWalk s core ctx va sup u
  | some t =>
    let (again, s) := s.choose 2
    let e := readNat s.mem.cells t.entryPa 8
    if again = 1 then translateWalk s core ctx va sup u
    else if leafDenies t.value sup u then (s, .bad (cPerm, wordOf va))
    else if touched t.value u = t.value then leafRes s ctx (levelOfSize t.size) t.value va u
    else if bit e 0 && bits e 47 12 == bits t.value 47 12 then endAtLeaf s core ctx va (levelOfSize t.size) t.entryPa e sup u
    else translateWalk s core ctx va sup u

/-- The key of a management-core global address (R342). -/
def mgmtGlobal (s : State) (a : Nat) : Res :=
  if bits a 63 56 != 0 || bits a 51 50 != 0 then .bad (cPerm, wordOf a)
  else match bits a 49 48 with
  | 0 => .ok (a % 2 ^ 48)
  | 1 => .ok (hostKey a)
  | 2 =>
    match (s.ctx 0).peers.get? (bits a 55 52) with
    | some pr => .ok (peerKey pr.1 (pr.2 + a % 2 ^ 48))
    | none => .ok (peerKey (bits a 55 52 % 2) (a % 2 ^ 48))
  | _ => .bad (cPerm, wordOf a)

/-- The virtual address of a private address (R59). -/
def privateVa (s : State) (t p : Nat) : Nat :=
  let l := (s.gridOf t).launch
  let size := 16 * l.privSize
  (l.privBase + (((s.teamOf t).idx % (l.privRing + 1)) * (s.teamOf t).t + (s.thread t).tid) * size + p) % 2 ^ 64

/-- The key of n bytes of a thread's space, with the causes of R451 and of the walk. -/
def resolve (s : State) (t : Nat) (sp : Space) (a n : Nat) (u : Use) : State × Res :=
  match sp with
  | .lo =>
    if s.isMgmt t then (s, if a + n ≤ 0x10000 then .ok (mgmtKey a) else .bad (cPerm, wordOf a))
    else if (s.teamOf t).localSize < a + n then (s, .bad (cPerm, wordOf a))
    else match scratchKey (s.cluster (s.clusterOf t)) (s.clusterOf t) ((s.teamOf t).localBase + a) with
    | some k => (s, .ok k)
    | none => (s, .bad (cPerm, wordOf a))
  | .gl =>
    if s.isMgmt t then (s, mgmtGlobal s a)
    else if 2 ^ 52 ≤ a then (s, .bad (cPerm, wordOf a))
    else translate s (s.coreOf t) (s.ctxOf t) a (decide (s.levelOf t = .sup)) u
  | .pv =>
    if 16 * (s.gridOf t).launch.privSize < a + n then (s, .bad (cPerm, wordOf a))
    else
      let va := privateVa s t a
      if 2 ^ 52 ≤ va then (s, .bad (cPerm, wordOf va))
      else translate s (s.coreOf t) (s.ctxOf t) va (decide (s.levelOf t = .sup)) u

/-- Resolves an engine's or the device's own access to a context's address (R452); no core's cache takes part. The
last argument says whether leaves with SUP = 1 may be reached: by the device's own accesses only (DEDUCED, log 13). -/
def resolveCtx (s : State) (ctx a : Nat) (u : Use) (sup : Bool) : State × Res :=
  if 2 ^ 52 ≤ a then (s, .bad (cPerm, wordOf a)) else translate s mgmtCore ctx a sup u

end Sys2Proof.Machine
end

