-- ==== Sys2Proof/Machine/Perform.lean ====
section
/-! DEFINITION. Performing accesses (spec 04 R89 to R99): loads through the cluster's copies, stores that register
ownership, acquires, full/empty bits, and the re-tests that a write brings about (R324). -/

namespace Sys2Proof.Machine

/-- The byte that a load by a cluster returns (R91): the owned or current value, unless the cluster holds a copy of a
word that it does not own. -/
def seenByte (s : State) (cl k : Nat) : Byte :=
  if isGlobal k && !(ownerOf s.mem k == some cl) then
    match Tab.get? k (s.cluster cl).copies with
    | some b => b
    | none => readCell k s.mem.cells
  else readCell k s.mem.cells

/-- The bytes that a load by a cluster returns. -/
def seenBytes (s : State) (cl k : Nat) : Nat → List Byte
  | 0 => []
  | n + 1 => seenByte s cl k :: seenBytes s cl (k + 1) n

/-- The cluster cache has a way (R63). -/
def hasWays (c : Cluster) : Bool := c.banks.any fun b => b.mode == 0 && b.target.isNone

/-- Ways of the cluster cache: the banks in cache mode that do not change (R63). -/
def cacheWays (c : Cluster) : Nat := (c.banks.filter fun b => b.mode == 0 && b.target.isNone).length

/-- Words of a line leave a cluster's ownership, and its copies of the line go: dirty bytes are written back, and the line leaves
the cluster cache (R63, Table 3-4). -/
def releaseLine (s : State) (cl line : Nat) : State :=
  let own := (s.mem.registry.getD line []).filter fun e => e.1 != cl
  let s1 := s.setMem { s.mem with registry := if own.isEmpty then s.mem.registry.del line else s.mem.registry.set line own }
  s1.modCluster cl fun c => { c with copies := c.copies.filter fun e => physOf e.1 / 128 != line, lines := c.lines.filter fun l => l != line }

/-- The set of a line: 2,048 lines in each way, by line number (R63) (DESIGN CHOICE, log 56). -/
def setOf (line : Nat) : Nat := line % 2048

/-- Lines of a set beyond the ways of the cache: the least recently used ones (R63). -/
def overflowing (c : Cluster) (line : Nat) : List Nat := (c.lines.filter fun l => setOf l == setOf line).drop (cacheWays c)

/-- An access of a cluster to a line of global memory: the line is the most recently used one of its set, and the least recently
used line leaves a set that has no way for it (R63). -/
def touchLine (s : State) (cl k : Nat) : State :=
  if isGlobal k && decide (cl < 18) && hasWays (s.cluster cl) then
    let line := physOf k / 128
    let s1 := s.modCluster cl fun c => { c with lines := line :: c.lines.filter fun l => l != line }
    (overflowing (s1.cluster cl) line).foldl (fun st l => releaseLine st cl l) s1
  else s

/-- Keeps copies of the bytes that a load brought into the cluster cache. -/
def keepCopies (s : State) (cl k n : Nat) : State :=
  if isGlobal k && decide (cl < 18) && hasWays (s.cluster cl) then
    s.modCluster cl fun c =>
      { c with copies := (List.range n).foldl (fun l i =>
          if ownerOf s.mem (k + i) == some cl || (Tab.get? (k + i) l).isSome then l else Tab.set (k + i) (readCell (k + i) s.mem.cells) l) c.copies }
  else s

/-- Drops a cluster's copies of the words that bytes touch. -/
def dropCopies (c : Cluster) (k n : Nat) : Cluster :=
  { c with copies := c.copies.filter fun e => !(decide (k / 4 * 4 ≤ e.1 ∧ e.1 < (k + n + 3) / 4 * 4)) }

/-- The cluster cache gives up copies that have become stale, unless the schedule says that it still holds them; no plain load
finds old bytes for ever (R53) (DESIGN CHOICE, log 56). -/
def refresh (s : State) (cl k n : Nat) : State :=
  if seenBytes s cl k n = readCells s.mem.cells k n then s else
  let (keep, s1) := s.choose 2
  if keep = 1 then s1 else s1.modCluster cl fun c => dropCopies c k n

/-- A load of n bytes by a cluster: what it returns, and the line and copies that it leaves in the cluster cache (R63, R91). -/
def loadAt (s : State) (cl k n : Nat) : State × List Byte :=
  let s1 := refresh (touchLine s cl k) cl k n
  (keepCopies s1 cl k n, seenBytes s1 cl k n)

/-- An acquire: the words that the cluster does not own leave its cache (R92). -/
def acquire (s : State) (cl : Nat) : State := if cl < 18 then s.modCluster cl fun c => { c with copies := [] } else s

/-- Threads that wait on a global word: at a waita, or at a qpost for RDIDX (R324, R329). -/
def globalWaiters (s : State) : List Nat :=
  (s.threads.filter fun e => match e.2.run with
    | .blocked (.post _ _ _ _ _) => true
    | .blocked (.waitaGe _ _ _) => true
    | .blocked (.waitaEq _ _ _) => true
    | _ => false).map (·.1)

/-- Threads Blocked at a wait on a barrier object. -/
def phaseWaiters (s : State) : List Nat :=
  (s.threads.filter fun e => match e.2.run with
    | .blocked (.waitaPhase _ _ _) => true
    | _ => false).map (·.1)

/-- A write at a slice has the waits on global words tested again (R324). -/
def notify (s : State) (k : Nat) : State :=
  if isGlobal k then (match globalWaiters s with
    | [] => s
    | l => s.push (l.map Instr.waitaRetest)) else s

/-! ### The error log -/

/-- Hands an entry to the management node (R484): class, code, unit, context, DETAIL1, DETAIL2. -/
def logErr (s : State) (cls code unit ctx d1 d2 : Nat) : State :=
  let w0 := code % 2 ^ 16 * 2 ^ 8 + cls % 2 ^ 8 * 2 ^ 24 + unit % 2 ^ 16 * 2 ^ 32 + ctx % 2 ^ 16 * 2 ^ 48
  s.modMgmt fun m => { m with errPending := m.errPending ++ [(w0, d1 % 2 ^ 64 + 2 ^ 64 * (d2 % 2 ^ 64))] }

/-! ### Slices and channels (R71) -/

/-- The slice hash of a physical address. -/
def sliceHash (a : Nat) : Nat := Nat.xor (Nat.xor (bits a 12 8) (bits a 17 13)) (Nat.xor (bits a 22 18) (bits a 27 23))

/-- The channel hash of a physical address. -/
def channelHash (a : Nat) : Nat := Nat.xor (Nat.xor (bits a 13 8) (bits a 19 14)) (Nat.xor (bits a 25 20) (bits a 31 26))

/-- The slice and the channel of a physical address, through the remap tables. -/
def sliceOf (m : Mgmt) (a : Nat) : Nat := nth m.sliceMap (sliceHash a) 0
def channelOf (m : Mgmt) (a : Nat) : Nat := nth m.channelMap (channelHash a) 0

/-! ### Links (spec 21 R487, R489) -/

/-- A key of host memory while the host link is down. -/
def hostDown (s : State) (k : Nat) : Bool := isHost k && !s.mgmt.linkUp

/-- The peer port of a key. -/
def portOf (k : Nat) : Nat := k / 2 ^ 60 - 1

/-- A key behind a peer port that is down. -/
def portDown (s : State) (k : Nat) : Bool := isPeer k && !(nth s.mgmt.ports (portOf k) true)

/-- A key of device memory behind the last usable byte: nothing stands there (R16, R71) (DESIGN CHOICE, log 58). -/
def beyondMemory (s : State) (k : Nat) : Bool := isDevice k && decide (s.mgmt.usable ≤ physOf k)

/-- A key that no access reaches. -/
def unreachable (s : State) (k : Nat) : Bool := hostDown s k || portDown s k || beyondMemory s k

/-- A write that a dead link discards: one entry for each 256-byte block (R487). -/
def logLost (s : State) (k n : Nat) : State :=
  (List.range ((k + n - 1) / 256 + 1 - k / 256)).foldl (fun st i =>
    logErr st 6 5 (if isHost k then 0xFF else portOf k) 0 ((k / 256 + i) * 256 % 2 ^ 48) 0) s

/-- What makes bytes unusable to a reader: poison (R455), a stream that does not decode (R84), or a link that is down (R458). -/
def spoiledAt (s : State) (k n : Nat) : Option (Nat × Nat) :=
  if unreachable s k then some (k / 256 * 256, 256)
  else (poisonAt s.mem k n).or (if viewLost s k then some (physOf k / 256 * 256, 256) else none)

/-! ### Writes -/

/-- Bytes written from outside the clusters: by an engine, the host, a peer or the management core (R90). -/
def writeAt (s : State) (k : Nat) (bs : List Byte) : State :=
  if beyondMemory s k then s else if unreachable s k then logLost s k bs.length else
  let s := intoView s k
  let m := { s.mem with cells := writeCells s.mem.cells k bs }
  let m := if isGlobal k then disown m k bs.length else m
  notify (settleView (s.setMem (clearPoisonSmall m k bs.length)) k) k

/-- Bytes that an engine operation has written at a key: how many, and whether their source was poisoned. -/
structure Land where
  (key : Nat) (n : Nat) (bad : Bool)
  deriving DecidableEq, Repr

/-- Bytes that an operation has written (DEDUCED, log 24). -/
def landed (ls : List Land) : Nat := (ls.map (·.n)).sum

/-- The landed bytes cover a range whole, none of them from a poisoned source (DEDUCED, log 24). -/
def coversRange (ls : List Land) (k n : Nat) : Bool :=
  let near := ls.filter fun l => decide (physOf l.key < k + n ∧ k < physOf l.key + l.n)
  !(near.any (·.bad)) && (List.range n).all fun i => near.any fun l => decide (physOf l.key ≤ k + i ∧ k + i < physOf l.key + l.n)

/-- The slot of a block with code 15 that one operation has written whole is encoded again, under the codebook of the leaf that it
was written through, or holds its values as they are (R83) (DEDUCED, log 52). -/
def healBlock (s : State) (ls : List Land) (blk : Nat) : State :=
  if s.mem.blockCode.getD blk 0 = 15 then
    match ls.find? fun l => physOf l.key / 256 == blk && isView l.key with
    | some l => putBlock s (viewBook l.key) blk (readNat s.mem.cells (256 * blk) 256)
    | none => s.setMem { s.mem with blockCode := s.mem.blockCode.set blk 8 }
  else s

/-- Ends the poison of the blocks and granules that one engine operation has written whole (R454) (DEDUCED, log 24). -/
def healRanges (s : State) (ls : List Land) : State :=
  let healed := s.mem.poison.filter fun e => coversRange ls e.1 e.2
  (healed.filter fun e => isDevice e.1).foldl (fun st e => healBlock st ls (e.1 / 256))
    (s.setMem { s.mem with poison := s.mem.poison.filter fun e => !(coversRange ls e.1 e.2) })

/-- Bytes stored by a thread of a cluster (R89, R90, R93): written, and in global memory owned by the cluster. A link that is
down discards them (R487); a peer port that is down has the store fail as `notePeer` gives. -/
def storeAt (s : State) (cl k : Nat) (bs : List Byte) : State :=
  if hostDown s k then logLost s k bs.length else if portDown s k || beyondMemory s k then s else
  let s := intoView s k
  let m := { s.mem with cells := writeCells s.mem.cells k bs }
  if isGlobal k && decide (cl < 18) then
    let s1 := (settleView (s.setMem (register m cl k bs.length)) k).modCluster cl fun c => dropCopies c k bs.length
    notify (touchLine s1 cl k) k
  else notify (s.setMem (clearPoisonSmall (if isGlobal k then disown m k bs.length else m) k bs.length)) k

/-! ### Full/empty bits (R67, R68) -/

def granuleFull (s : State) (k : Nat) : Bool := s.mem.full.contains (k / 16 * 16)

/-- Threads Blocked at a granule, in the order in which they blocked (R68). -/
def granuleWaiters (s : State) (g : Nat) : List Nat :=
  let l := s.threads.filterMap fun e => match e.2.run with
    | .blocked (.granule k seq _ _ _) => if k = g then some (e.1, seq) else none
    | _ => none
  (sortBy (fun (a b : Nat × Nat) => decide (a.2 < b.2)) l).map (·.1)

/-- A granule becomes full, and the threads Blocked on it issue again, in the order in which they blocked (R68). -/
def fillGranule (s : State) (k : Nat) : State :=
  let g := k / 16 * 16
  let s1 := if s.mem.full.contains g then s else
    s.setMem { s.mem with full := insertBy (fun a b => decide (a < b)) g s.mem.full }
  match granuleWaiters s1 g with
  | [] => s1
  | l => s1.push (l.map Instr.waitaRetest)

/-- What a consuming read of the cycle under way finds of a granule that a setting write has reached in the same cycle, since the
read is ordered first (R69): whether it was full, and its bytes. -/
def beforeFill (s : State) (k : Nat) : Option (Bool × List Byte) :=
  (s.mem.filled.find? fun e => e.1 == k / 16 * 16).map (·.2)

/-- A setting write is about to reach a granule: its bit and bytes from before the first one of the cycle are kept (R69). -/
def noteFill (s : State) (k : Nat) : State :=
  let g := k / 16 * 16
  if s.mem.filled.any fun e => e.1 == g then s else
  s.setMem { s.mem with filled := (g, s.mem.full.contains g, readCells s.mem.cells g 16) :: s.mem.filled }

/-- A granule becomes empty. -/
def emptyGranule (s : State) (k : Nat) : State := s.setMem { s.mem with full := s.mem.full.filter fun g => g != k / 16 * 16 }

/-! ### Barrier objects (R104, R105, R460) -/

/-- The fields of a barrier object. -/
structure Bobj where
  (bytes : Int) (expect : Nat) (arrive : Nat) (low : Nat) (phase : Bool)
  deriving DecidableEq, Repr

def bobjOf (x : Nat) : Bobj := ⟨sextNat 32 (bits x 127 96), bits x 95 64, bits x 63 32, bits x 31 1, bit x 0⟩
def Bobj.toNat (b : Bobj) : Nat :=
  b2n b.phase + 2 * b.low + 2 ^ 32 * (b.arrive % 2 ^ 32) + 2 ^ 64 * b.expect + 2 ^ 96 * wrapInt 32 b.bytes
def readBobj (s : State) (k : Nat) : Bobj := bobjOf (readNat s.mem.cells k 16)

/-- The advance test after an update (R105). -/
def Bobj.advance (b : Bobj) : Bobj :=
  if b.arrive = 0 ∧ b.bytes = 0 then { b with phase := !b.phase, arrive := b.expect } else b

/-! ### Sensor windows -/

/-- Fields of a sensor window (Table 9-4). -/
structure Window where
  (en : Bool) (ctx : Nat) (cl : Nat) (obj : Nat) (frame : Nat) (base : Nat) (size : Nat)
  deriving DecidableEq, Repr

def windowOf (w : Nat) : Window :=
  ⟨bit w 0, bits w 127 112, bits w 111 107, 16 * bits w 106 87, bits w 86 64, 2 ^ 16 * bits w 63 32, 2 ^ 16 * bits w 31 16⟩

/-- A sensor window of the device. -/
def window (s : State) (n : Nat) : Window := windowOf (nth s.mgmt.sensor n 0)

/-- Enabled windows bound to the object at a key. -/
def windowsAt (s : State) (k : Nat) : List Nat :=
  (List.range 16).filter fun n =>
    let w := window s n
    w.en && scratchKey (s.cluster w.cl) w.cl w.obj == some k

/-- Writes the 16 bytes of a barrier object at the bank; its granule's full/empty bit stays (R104). -/
def putBobj (s : State) (k : Nat) (b : Bobj) : State :=
  s.setMem { s.mem with cells := writeCells s.mem.cells k (bytesOfNat b.toNat 16) }

/-- The waiters on barrier objects test again (R324). -/
def notifyPhase (s : State) : State :=
  match phaseWaiters s with
  | [] => s
  | l => s.push (l.map Instr.waitaRetest)

/-- An update of a barrier object: its waiters test again (R324), and after an advance each window bound to it applies a new
expect of FRAME before any other update (R231). -/
def writeBobj (s : State) (k : Nat) (b : Bobj) : State :=
  let s1 := putBobj s k b
  notifyPhase (if b.phase != (readBobj s k).phase then
      (windowsAt s1 k).foldl (fun st n => let o := readBobj st k; putBobj st k { o with bytes := o.bytes + (window st n).frame }) s1
    else s1)

/-- The setting of a barrier object, which is no advance (R321). -/
def setBobj (s : State) (k : Nat) (b : Bobj) : State := notifyPhase (putBobj s k b)

end Sys2Proof.Machine
end

