-- ==== Sys2Proof/Machine/Log.lean ====
section
/-! DEFINITION. The error log (spec 21 R483, R484), the paging service (spec 03 R79, R80, spec 19 R453), and the device's
own and the engines' accesses to a context's addresses. -/

namespace Sys2Proof.Machine

/-- The word 0 of an appended entry, with its details (R484). -/
def logWord0 (s : State) (w0 d1 d2 : Nat) : State :=
  s.modMgmt fun m => { m with errPending := m.errPending ++ [(w0, d1 + 2 ^ 64 * d2)] }

/-! ### Backing store and frames -/

/-- The key of a byte of a page in backing store; which host or peer bytes hold it is left open (DESIGN CHOICE, log 14). -/
def backKey (ctx index off : Nat) : Nat := 2 ^ 90 + ctx * 2 ^ 72 + index * 2 ^ 34 + off

/-- Frames of 64 KiB that a page of a level takes (DESIGN CHOICE, log 14). -/
def framesFor (lv : Nat) : Nat := pageSize lv / 2 ^ 16

/-- The first run of n free frames that starts at a multiple of n (DESIGN CHOICE, log 14). -/
def findRun (free : List Nat) (n : Nat) : Option Nat :=
  free.find? fun f => f % n == 0 && (List.range n).all fun i => free.contains (f + i)

/-- Copies n bytes from one key to another. -/
def copyCells (m : List Host.Cell) (src dst n : Nat) : List Host.Cell :=
  let moved := (m.filter fun c => decide (src ≤ c.1 ∧ c.1 < src + n)).map fun c => (c.1 - src + dst, c.2)
  let rest := m.filter fun c => !(decide (dst ≤ c.1 ∧ c.1 < dst + n))
  moved.foldl (fun l c => writeCell c.1 c.2 l) rest

/-- Drops cached translations of a range of a context (R78). -/
def dropTlb (s : State) (ctx va n : Nat) : State :=
  { s with cores := s.cores.map fun e =>
      (e.1, { e.2 with tlb := e.2.tlb.filter fun t => !(t.ctx == ctx && decide (t.va < va + n ∧ va < t.va + t.size)) }) }

/-- Clears ACC of an entry, as the clock passes it (Table 3-8). -/
def clearAcc (m : List Host.Cell) (q : PagedPage) : List Host.Cell :=
  let e := readNat m q.pa 8
  if bit e 6 then writeCells m q.pa (bytesOfNat (e - 2 ^ 6) 8) else m

/-- The leaf of an evicted page (R80): its entry with P = 0, BACKED = 1, ACC and DIRTY clear and the backing index. -/
def backedEntry (e index : Nat) : Nat :=
  (e % 2 ^ 12 / 2 ^ 8 * 2 ^ 8 + bits e 5 3 * 2 ^ 3 + 2 ^ 2 + b2n (bit e 1) * 2) + index % 2 ^ 36 * 2 ^ 12 + e / 2 ^ 48 * 2 ^ 48

/-- The values of a block that a leaf with COMP and a codebook shows; none where they are poisoned (R84). -/
def leafBlock (s : State) (e blk : Nat) : Option Nat :=
  if kindFits (bits e 59 58) (bookOf s (bits e 62 60)).kind then blockView s (bits e 62 60) blk else none

/-- Copies a page of n bytes from its frame to backing store: of a compressed page the values of its blocks (R80, R83). -/
def pageOut (s : State) (e pa back n : Nat) : List Host.Cell :=
  if bits e 59 58 = 0 then copyCells s.mem.cells pa back n
  else (List.range (n / 256)).foldl (fun m i => match leafBlock s e (pa / 256 + i) with
    | some v => writeCells m (back + 256 * i) (bytesOfNat v 256)
    | none => m) s.mem.cells

/-- Copies a page of n bytes from backing store into its frame; the controller encodes the blocks of a compressed page
(R79, R83). -/
def pageFill (s : State) (e back dst n : Nat) : MemSys :=
  if bits e 59 58 = 0 then { s.mem with cells := copyCells s.mem.cells back dst n }
  else (List.range (n / 256)).foldl (fun m i => encodeAt m (bookOf s (bits e 62 60)) (dst / 256 + i) (readNat m.cells (back + 256 * i) 256)) s.mem

/-- A write by the paging service: its words leave every owner, and no cluster keeps a copy of them (R90, R111). -/
def serviceWrote (s : State) (k n : Nat) : State :=
  { s.setMem (disownLines (disown s.mem k (min n 128)) k n) with
    clusters := s.clusters.map fun e =>
      (e.1, { e.2 with copies := e.2.copies.filter fun c => !(decide (k ≤ physOf c.1 ∧ physOf c.1 < k + n)) }) }

/-- The page that VICTIM chooses, and the pages that the clock passes before it: all of them where every page has ACC set, and then
it comes to the first again (Table 3-8). -/
def victimPage (s : State) (c : Context) : Option PagedPage × List PagedPage :=
  if bits c.pagingCtl.toNat 3 2 = 1 then (leastBy (fun (a b : PagedPage) => decide (a.born < b.born)) c.paged, [])
  else
    let passed := c.paged.takeWhile fun p => bit (readNat s.mem.cells p.pa 8) 6
    (((c.paged.drop passed.length).head?).or c.paged.head?, passed)

/-- Evicts one page, the one VICTIM chooses (R80): not present and backed again, invalidated, written back when DIRTY. The clock
goes on from behind it at the next eviction. A write-back that fails leaves the page present (R453). -/
def evictOne (s : State) (ctx : Nat) (writeOk : Bool) : State :=
  let c := s.ctx ctx
  match victimPage s c with
  | (none, _) => s
  | (some p, passed) =>
    let order := (c.paged.drop passed.length ++ passed).filter fun q => q != p
    let e := readNat s.mem.cells p.pa 8
    let cells := passed.foldl clearAcc s.mem.cells
    let size := pageSize p.lv
    let pa := bits e 47 12 * 4096
    let s0 := s.setMem { s.mem with cells := cells }
    if bit e 7 && !writeOk then logErr (s0.modCtx ctx fun c => { c with paged := order ++ [p] }) 2 cPaging 0 ctx p.va 4
    else
      let cells1 := if bit e 7 then pageOut s0 e pa (backKey ctx p.index 0) size else cells
      let cells2 := writeCells cells1 p.pa (bytesOfNat (backedEntry e p.index) 8)
      let f0 := (pa - c.frameBase) / 2 ^ 16
      let s1 := serviceWrote (s0.setMem { s.mem with cells := cells2 }) p.pa 8
      let s2 := s1.modCtx ctx fun c =>
        { c with paged := order, freeFrames := c.freeFrames ++ (List.range (framesFor p.lv)).map (f0 + ·) }
      dropTlb s2 ctx p.va size

/-- Ends the transfer of a page: the accesses that wait for it try their translation again, or take the cause of a page-in that
failed (R79, R453). -/
def endTransfer (s : State) (ctx va : Nat) (ok : Bool) : State :=
  let accs := s.accs.map fun e =>
    if e.2.page == some va && s.ctxOf e.2.thread == ctx then (e.1, { e.2 with page := none, failed := !ok }) else e
  State.modCtx { s with accs := accs } ctx fun c => { c with transfer := c.transfer.filter fun x => x != va }

/-- Evicts until the pool holds HIGHWATER free frames or no page is left. -/
def evict (s : State) (ctx : Nat) (writeOk : Bool) (want : Nat) : Nat → State
  | 0 => s
  | fuel + 1 =>
    if want ≤ (s.ctx ctx).freeFrames.length || (s.ctx ctx).paged.isEmpty then s
    else evict (evictOne s ctx writeOk) ctx writeOk want fuel

/-- Pages in one backed leaf (R79): takes a frame, copies the page, writes the leaf, and wakes what waits for the page. It says
whether it did (R453). Where the pool has enough free frames but no run for the page, pages are evicted too
(DESIGN CHOICE, log 14). -/
def pageInOne (s : State) (ctx va : Nat) (readOk writeOk : Bool) : State × Bool :=
  match walk s.mem (s.ctx ctx) va (s.ctx ctx).root [0, 1, 2, 3] with
  | .backed lv pa =>
    let e := readNat s.mem.cells pa 8
    let ctl := (s.ctx ctx).pagingCtl.toNat
    let never := bits ctl 3 2 == 2
    let n := framesFor lv
    let s1 := if never || decide (bits ctl 31 16 ≤ (s.ctx ctx).freeFrames.length) && (findRun (s.ctx ctx).freeFrames n).isSome then s
      else evict s ctx writeOk (max (bits ctl 47 32) n) ((s.ctx ctx).paged.length + 1)
    match findRun (s1.ctx ctx).freeFrames n, readOk with
    | some f, true =>
      let dst := (s1.ctx ctx).frameBase + f * 2 ^ 16
      let idx := bits e 47 12
      let m := pageFill s1 e (backKey ctx idx 0) dst (pageSize lv)
      let e1 := e % 2 ^ 12 + 1 + dst % 2 ^ 48 / 2 ^ 12 * 2 ^ 12 + e / 2 ^ 48 * 2 ^ 48
      let m1 := { m with cells := writeCells m.cells pa (bytesOfNat e1 8) }
      let (born, s2) := (serviceWrote (serviceWrote (s1.setMem m1) dst (pageSize lv)) pa 8).fresh
      (endTransfer (s2.modCtx ctx fun c =>
        { c with freeFrames := c.freeFrames.filter fun x => !(decide (f ≤ x ∧ x < f + n)),
                 paged := c.paged ++ [⟨va / pageSize lv * pageSize lv, lv, pa, idx, born⟩] }) ctx (va / pageSize lv * pageSize lv) true, true)
    | _, _ => (logErr (endTransfer s1 ctx (va / pageSize lv * pageSize lv) false) 2 cPaging 0 ctx va 4, false)
  | _ => (s, true)

/-- A page-in, and with NEXT = 1 that of the next virtual page when it is backed (R79, Table 3-8). -/
def pageInAt (s : State) (ctx va : Nat) (readOk writeOk : Bool) : State × Bool :=
  let size := match walk s.mem (s.ctx ctx) va (s.ctx ctx).root [0, 1, 2, 3] with
    | .backed lv _ => pageSize lv
    | _ => 0
  match pageInOne s ctx va readOk writeOk with
  | (s1, true) =>
    if (s1.ctx ctx).pagingCtl.getLsbD 1 && size != 0 then ((pageInOne s1 ctx (va / size * size + size) readOk writeOk).1, true) else (s1, true)
  | r => r

/-- Resolves an address that the device or an engine uses, paging it in when it is backed. A failed page-in answers the
paging-failure cause (R453). -/
def resolveEng (s : State) (ctx a : Nat) (u : Use) (sup : Bool) : State × Res :=
  match resolveCtx s ctx a u sup with
  | (s1, .page va) =>
    match pageInAt s1 ctx va true true with
    | (s2, true) => resolveCtx s2 ctx a u sup
    | (s2, false) => (s2, .bad (cPaging, wordOf a))
  | r => r

/-- The translation cause of a page-in that failed (R452, R453). -/
def pagedInfo (va : Nat) : Word := wordOf (2 ^ 63 + 2 ^ 61 + va % 2 ^ 52)

/-- The end of an access that met a backed page: it is paged in, as the schedule says with success or without, and the
access goes on or takes the translation cause (R79, R453). -/
def pageThen (s : State) (ctx va a : Nat) (again : State → State × Res) : State × Except Flt Nat :=
  let (no, s2) := s.choose 2
  match pageInAt s2 ctx va (no == 0) true with
  | (s3, false) => (s3, .error (cTransl, pagedInfo a))
  | (s3, true) =>
    match again s3 with
    | (s4, .ok k) => (s4, .ok k)
    | (s4, .bad f) => (s4, .error f)
    | (s4, .page _) => (s4, .error (cTransl, pagedInfo a))

/-- The key of a thread's access that is performed at issue, after a page-in where one is needed. -/
def resolveNow (s : State) (t : Nat) (sp : Space) (a n : Nat) (u : Use) : State × Except Flt Nat :=
  match resolve s t sp a n u with
  | (s1, .ok k) => (s1, .ok k)
  | (s1, .bad f) => (s1, .error f)
  | (s1, .page va) => pageThen s1 (s.ctxOf t) va a fun s3 => resolve s3 t sp a n u

/-- Reads n bytes of a context's memory for the device; none when the read faults (DEDUCED, log 13). -/
def devRead (s : State) (ctx a n : Nat) : State × Option (List Byte) :=
  match resolveEng s ctx a .load true with
  | (s1, .ok k) => if (spoiledAt s1 k n).isSome then (s1, none) else (s1, some (readCells s1.mem.cells k n))
  | (s1, _) => (s1, none)

/-- Reads bytes that may cross pages, in pieces of 64 bytes. -/
def devReadLong (s : State) (ctx a : Nat) : Nat → State × Option (List Byte)
  | 0 => (s, some [])
  | fuel + 1 =>
    match devRead s ctx a 64 with
    | (s1, none) => (s1, none)
    | (s1, some l) =>
      match devReadLong s1 ctx (a + 64) fuel with
      | (s2, some r) => (s2, some (l ++ r))
      | (s2, none) => (s2, none)

/-- Writes bytes of a context's memory for the device, within one page; nothing when the write faults. -/
def devWrite (s : State) (ctx a : Nat) (bs : List Byte) : State × Bool :=
  match resolveEng s ctx a .store true with
  | (s1, .ok k) => (writeAt s1 k bs, true)
  | (s1, _) => (s1, false)

/-- The release atomic add at a completion address (R140, R217); 0 names none. -/
def cplAdd (s : State) (ctx addr n : Nat) : State :=
  if addr = 0 || addr % 8 != 0 then s else
  match resolveEng s ctx addr .store true with
  | (s1, .ok k) => writeAt s1 k (bytesOfNat (readNat s1.mem.cells k 8 + n) 8)
  | (s1, _) => s1

/-- The add of a failure (R441): 2^63 + 1. -/
def cplFail : Nat := 2 ^ 63 + 1

/-- Adds to a field of the context's save-area header, saturating (Table 18-5): byte offset and bytes. -/
def saveAreaAdd (s : State) (ctx off n : Nat) : State :=
  match devRead s ctx ((s.ctx ctx).saveArea + off) n with
  | (s1, some l) =>
    if natOfBytes l + 1 < 2 ^ (8 * n) then (devWrite s1 ctx ((s.ctx ctx).saveArea + off) (bytesOfNat (natOfBytes l + 1) n)).1 else s1
  | (s1, none) => s1

/-- SUPENTRY of a context; 0 when there is none or it cannot be read (R428). -/
def supEntry (s : State) (ctx : Nat) : State × Nat :=
  if (s.ctx ctx).saveArea = 0 then (s, 0) else
  match devRead s ctx (s.ctx ctx).saveArea 8 with
  | (s1, some l) => (s1, natOfBytes l % 2 ^ 52)
  | (s1, none) => (s1, 0)

end Sys2Proof.Machine
end

