-- ==== Sys2Proof/Machine/MemoTable.lean ====
section
/-! DEFINITION. The Ovenadar signature (spec 07 R170), tolerance classes (R184, R185), and the memo tables: geometry, probes,
insertions, audit and saved work (R179 to R182, R188, R192, spec 20 R479, R480). -/

namespace Sys2Proof.Machine

/-! ### The signature (R170) -/

def sigM1 : Nat := 0xBF58476D1CE4E5B9
def sigM2 : Nat := 0x94D049BB133111EB
def sigM3 : Nat := 0xFF51AFD7ED558CCD

/-- The running pair (a, b) of a signature. -/
abbrev SigPair := Nat × Nat

def sigStart : SigPair := (0x6A09E667F3BCC908, 0xBB67AE8584CAA73B)

/-- Rotates a 64-bit value left. -/
def rotl64 (x n : Nat) : Nat := x * 2 ^ n % 2 ^ 64 + x / 2 ^ (64 - n)

/-- Folds one word. -/
def sigFold (p : SigPair) (w : Nat) : SigPair :=
  let a1 := Nat.xor p.1 (w % 2 ^ 64) * sigM1 % 2 ^ 64
  let a2 := Nat.xor a1 (a1 / 2 ^ 29)
  (a2, Nat.xor (rotl64 ((p.2 + w % 2 ^ 64) % 2 ^ 64 * sigM2 % 2 ^ 64) 23) a2)

/-- The final mixing. -/
def sigEnd (p : SigPair) : Nat :=
  let a := Nat.xor p.1 (p.2 / 2 ^ 31) * sigM3 % 2 ^ 64
  Nat.xor p.2 (a / 2 ^ 27) * sigM1 % 2 ^ 64 * 2 ^ 64 + a

/-- The signature of a sequence of words. -/
def signature64 (ws : List Nat) : Nat := sigEnd (ws.foldl sigFold sigStart)

/-- A signature as the words that it is folded as: b, then a. -/
def sigWords (x : Nat) : List Nat := [x / 2 ^ 64 % 2 ^ 64, x % 2 ^ 64]

/-- The words of a byte string (R170): little-endian words, the last padded, then the byte count. -/
def stringWords (bs : List Byte) : List Nat := (List.range (ceilDiv bs.length 8)).map (fun i => byteField bs (8 * i) 8) ++ [bs.length]

/-! ### Tolerance classes (R184, R185) -/

/-- The largest integer not above a multiple of a value, saturated to n bits; infinities give the limits. -/
def floorCode (n : Nat) (x : Fl) (k : Nat) : Int := toIntSat true n .rd (Fl.mul x (.ofNat k))

/-- The code of an FP32 value in a class (Table 7-8); none for a NaN. -/
def tolCode (cls x : Nat) : Option Nat :=
  let v := decodeF fFP32 x
  let y := if x = 2 ^ 31 then 0 else x
  if v.isNan then none else
  match cls with
  | 0 => some y
  | 1 => some (y / 2 ^ 8 * 2 ^ 8)
  | 2 => some (y / 2 ^ 13 * 2 ^ 13)
  | 3 => some (y / 2 ^ 16 * 2 ^ 16)
  | 4 => some (y / 2 ^ 19 * 2 ^ 19)
  | 5 => some (min 255 (max 0 (floorCode 32 v 256))).toNat
  | 6 => some (wrapInt 32 (floorCode 32 v 64))
  | _ => some (wrapInt 32 (floorCode 32 v 1024))

/-- The codes of several FP32 values; none when one is a NaN. -/
def tolCodes (cls : Nat) (xs : List Nat) : Option (List Nat) := xs.mapM (tolCode cls)

/-! ### Registers of a table (R179, R180) -/

def tabFirst (r : Word) : Nat := bits r.toNat 47 43
def tabBanks (r : Word) : Nat := bits r.toNat 42 38
def tabEn (r : Word) : Bool := r.getLsbD 63
/-- Payload bytes of a table. -/
def tabPayload (r : Word) : Nat := 32 * (bits r.toNat 37 36 + 1)
/-- Entries in one bank, and sets. -/
def tabPerBank (r : Word) : Nat := 262144 / (32 + tabPayload r)
def tabSets (r : Word) : Nat := (tabBanks r + 1) * tabPerBank r / 4

/-- Mode code of a bank that holds memo entries (Table 3-2). -/
def memoBank : Nat := 3

/-- A table is usable (R179). -/
def tableUsable (c : Cluster) (n : Nat) : Bool :=
  let r := nth c.memoTable n 0
  tabEn r && decide (tabFirst r + tabBanks r ≤ 31) &&
    ((List.range (tabBanks r + 1)).all fun i =>
      let b := tabFirst r + i
      let k := nth c.banks b ⟨0, none⟩
      k.mode == memoBank && k.target.isNone && bits c.bankMode.toNat (2 * b + 1) (2 * b) == memoBank) &&
    ((List.range 16).all fun m =>
      let q := nth c.memoTable m 0
      m == n || !(tabEn q) || !(decide (tabFirst r ≤ tabFirst q + tabBanks q ∧ tabFirst q ≤ tabFirst r + tabBanks r)))

/-- Set of a key (R180). -/
def keySet (r : Word) (key : Nat) : Nat := if tabSets r = 0 then 0 else key % 2 ^ 64 % tabSets r

/-- Bank of an entry (R180). -/
def entryBank (r : Word) (e : Nat) : Nat := tabFirst r + e / tabPerBank r

/-! ### Entries -/

/-- The bytes of an entry with PAR zero (Table 7-7). -/
def entryBytes (e : MemoEntry) : List Byte :=
  bytesOfNat (e.key % 2 ^ 128 + e.ctx % 2 ^ 16 * 2 ^ 128 + e.plen * 2 ^ 144 + e.age * 2 ^ 149 + 2 ^ 151 + e.cost * 2 ^ 160) 32 ++ e.payload

/-- PAR of an entry: bit i is the even parity of its bytes at offsets i modulo 8 (Table 7-7). -/
def entryParity (e : MemoEntry) : Nat :=
  let bs := entryBytes e
  ((List.range 8).map fun i => ((List.range bs.length).filter fun k => k % 8 == i).foldl (fun n k => n + popCount (nth bs k 0).toNat 8) 0 % 2 * 2 ^ i).sum

/-- An entry with its PAR. -/
def MemoEntry.sealed (e : MemoEntry) : MemoEntry := { e with parity := entryParity { e with parity := 0 } }

/-- The entry fails its parity. -/
def MemoEntry.broken (e : MemoEntry) : Bool := entryParity { e with parity := 0 } != e.parity

/-- A class 0x05 log entry; its code is not stated and left open (R469 to R482, DESIGN CHOICE, log 6). -/
def logRender (s : State) (unit ctx d1 d2 : Nat) : State :=
  let (n, s1) := s.draw
  logErr s1 5 (Config.free n % 2 ^ 16) unit ctx d1 d2

/-- Drops the broken ways of a set, each with a log entry (R480). -/
def checkSet (s : State) (cl table set : Nat) : State :=
  let bad := (s.cluster cl).memo.filter fun e => e.table == table && e.slot / 4 == set && e.broken
  bad.foldl (fun st e => logRender (st.modCluster cl fun c => { c with memo := c.memo.filter fun x => x != e }) cl 0 table e.slot) s

/-- The entry of a key in a table for a context (R181). -/
def findEntry (c : Cluster) (table ctx key : Nat) : Option MemoEntry :=
  c.memo.find? fun e => e.table == table && e.slot / 4 == keySet (nth c.memoTable table 0) key && e.key == key && e.ctx == ctx

/-- Makes a way the most recent of its set: older ranks below its old one rise (R181). -/
def touchWay (l : List MemoEntry) (table slot old : Nat) : List MemoEntry :=
  l.map fun e =>
    if e.table != table || e.slot / 4 != slot / 4 then e
    else if e.slot = slot then MemoEntry.sealed { e with age := 0 }
    else if e.age < old then MemoEntry.sealed { e with age := min 3 (e.age + 1) } else e

/-! ### Audit counters (R188, Table 7-10) -/

def addMis (a : Audit) : Audit := { a with mismatch := min (2 ^ 32 - 1) (a.mismatch + 1) }
def addAudited (a : Audit) : Audit := { a with audited := min (2 ^ 16 - 1) (a.audited + 1) }
def addTileMis (a : Audit) : Audit := { a with tileMis := min (2 ^ 16 - 1) (a.tileMis + 1) }

/-- Changes the audit counters of a cluster (DEDUCED, log 38). -/
def modAudit (s : State) (cl : Nat) (f : Audit → Audit) : State := s.modCluster cl fun c => { c with audit := f c.audit }

def countAudited (s : State) (cl : Nat) : State := modAudit s cl addAudited

/-- A mismatch: counted and logged (R479). -/
def countMismatch (s : State) (cl ctx table key : Nat) : State := logRender (modAudit s cl addMis) cl ctx table (key % 2 ^ 64)

/-- Counts saved work (R192). -/
def countSaved (s : State) (cl cost : Nat) : State :=
  s.modCluster cl fun c => { c with hitCnt := c.hitCnt + 1, savedFc := c.savedFc + wordOf cost }

/-! ### Probes and insertions -/

/-- AUDITK of a context; 0 acts as 1 (Table 7-9). -/
def auditK (s : State) (ctx : Nat) : Nat := max 1 (bits (s.ctx ctx).memoMode.toNat 47 32)

/-- Counts a hit of a context, modulo AUDITK (R188): whether the count has come to 0. -/
def countHit (s : State) (cl ctx : Nat) : State × Bool :=
  let n := ((s.cluster cl).hits.getD ctx 0 + 1) % auditK s ctx
  (s.modCluster cl fun c => { c with hits := c.hits.set ctx n }, n == 0)

/-- What a probe gives. -/
inductive Probe where
  | miss
  | audited
  | hit (payload : List Byte) (plen : Nat)
  deriving DecidableEq, Repr

/-- A probe of a table (R179 to R182, R188, R192, R480); the last argument says that hits are audited. -/
def probeTable (s : State) (cl table ctx key : Nat) (audits : Bool) : State × Probe :=
  if !(tableUsable (s.cluster cl) table) then (s, .miss) else
  let s1 := checkSet s cl table (keySet (nth (s.cluster cl).memoTable table 0) key)
  match findEntry (s1.cluster cl) table ctx key with
  | none => (s1, .miss)
  | some e =>
    let (s2, zero) := countHit s1 cl ctx
    if zero && audits then (s2, .audited) else
    (countSaved (s2.modCluster cl fun c => { c with memo := touchWay c.memo table e.slot e.age }) cl e.cost, .hit e.payload e.plen)

/-- The way that a new entry takes, with the rank that it replaces (R181); an invalid way ranks above all
(DEDUCED, log 38). -/
def victimWay (c : Cluster) (table set : Nat) : Nat × Nat :=
  let at_ (w : Nat) := c.memo.find? fun e => e.table == table && e.slot == 4 * set + w
  match (List.range 4).find? fun w => (at_ w).isNone with
  | some w => (4 * set + w, 4)
  | none =>
    let age (w : Nat) := ((at_ w).map (·.age)).getD 0
    let w := (leastBy (fun a b => decide (age b < age a)) (List.range 4)).getD 0
    (4 * set + w, age w)

/-- An insertion (R181, R182): an unusable table drops it. -/
def insertEntry (s : State) (cl table ctx key : Nat) (payload : List Byte) (cost : Nat) : State :=
  if !(tableUsable (s.cluster cl) table) then s else
  s.modCluster cl fun c =>
    let set := keySet (nth c.memoTable table 0) key
    let place := match findEntry c table ctx key with
      | some e => (e.slot, e.age)
      | none => victimWay c table set
    let e := MemoEntry.sealed { table := table, slot := place.1, key := key, ctx := ctx, plen := ceilDiv payload.length 16, age := 0, parity := 0,
                                cost := min 65535 cost, payload := payload }
    { c with memo := touchWay (e :: c.memo.filter fun x => !(x.table == table && x.slot == place.1)) table place.1 place.2 }

/-- The comparison of an audited hit with the insertion that follows (R188): counted, and a difference as a mismatch
(DEDUCED, log 38). -/
def auditCompare (s : State) (cl table ctx key : Nat) (payload : List Byte) : State :=
  let s1 := countAudited s cl
  if !(tableUsable (s.cluster cl) table) then s1 else
  match findEntry (s1.cluster cl) table ctx key with
  | some e => if payload.take (16 * e.plen) = e.payload then s1 else countMismatch s1 cl ctx table key
  | none => s1

/-- MODE of a context's memo mode: 0 normal, 1 exact, 2 audit, 3 off (Table 7-9). -/
def memoModeOf (s : State) (ctx : Nat) : Nat := (s.ctx ctx).memoMode.toNat % 4

end Sys2Proof.Machine
end

