-- ==== Sys2Proof/Machine/Pins.lean ====
section
/-! DEFINITION. Generations of the Loom's structures: pins, live generations, and the return of retired units (spec 08
R208 to R210). -/

namespace Sys2Proof.Machine

/-- Generation a precedes b (R208). -/
def genBefore (a b : Nat) : Bool :=
  let d := (b + 2 ^ 32 - a % 2 ^ 32) % 2 ^ 32
  decide (1 ≤ d ∧ d < 2 ^ 31)

/-- The structure of a header address in a context. -/
def structAt (s : State) (ctx header : Nat) : Option Nat :=
  (s.structs.find? fun e => e.2.ctx == ctx && e.2.header == header).map (·.1)

/-- A generation is live: current, or pinned (R208). -/
def genLive (t : Struct) (g : Gen) : Bool := t.cur == some g.num || decide (0 < g.pins)

/-- Adds to the pins of a generation of a structure. -/
def addPin (s : State) (k gen : Nat) : State :=
  match s.structs.get? k with
  | some t => s.setStruct k { t with gens := t.gens.map fun g => if g.num = gen then { g with pins := g.pins + 1 } else g }
  | none => s

/-- Returns the units retired by generations that no live generation precedes (R210). -/
def reclaim (s : State) (k : Nat) : State :=
  match s.structs.get? k with
  | none => s
  | some t =>
    let live := t.gens.filter (genLive t)
    let free := t.retired.filter fun r => !(live.any fun g => genBefore g.num r.1)
    let keep := t.retired.filter fun r => live.any fun g => genBefore g.num r.1
    let units := free.flatMap (·.2)
    (s.setStruct k { t with retired := keep, gens := live }).modCtx t.ctx fun c =>
      { c with poolUsed := c.poolUsed.filter fun u => !(units.contains u) }

/-- Takes a pin off a generation; a generation that stops being live lets go of the generations below it. -/
def dropPins (s : State) : Nat → List (Nat × Nat) → State
  | _, [] => s
  | 0, _ => s
  | fuel + 1, (k, gen) :: rest =>
    match s.structs.get? k with
    | none => dropPins s fuel rest
    | some t =>
      let t1 := { t with gens := t.gens.map fun g => if g.num = gen then { g with pins := g.pins - 1 } else g }
      let dead := t1.gens.filter fun g => g.num == gen && !(genLive t1 g)
      let s1 := reclaim (s.setStruct k t1) k
      dropPins s1 fuel (dead.flatMap (·.below) ++ rest)

/-- Fuel for the pins that one dropped pin can let go of: two levels of structures. -/
def pinFuel (s : State) : Nat := 64 + 17 * 4 * (s.structs.length + 1) * (s.structs.length + 1) +
  (s.structs.map fun e => (e.2.gens.map fun g => g.below.length).sum).sum

/-- Takes one pin off a generation (R209, R390). -/
def dropPin (s : State) (k gen : Nat) : State := dropPins s (pinFuel s) [(k, gen)]

end Sys2Proof.Machine
end

