-- ==== Sys2Proof/Machine/Teams.lean ====
section
/-! DEFINITION. The end of threads, teams and grids (spec 02 R32, R51, spec 06 R140, spec 14 R351, R354) and the forced
reset of a context (spec 18 R441). -/

namespace Sys2Proof.Machine

/-- Operations in flight that read or write a tile. -/
def opsOnTile (s : State) (tile : Nat) : Tab Op := s.ops.filter fun e => e.2.reads.contains tile || e.2.writes.contains tile

/-- Releases a tile (R351, R354): no handle names it, its drain key ends, and its chunks return once its operations and
permits are complete. -/
def freeTile (s : State) (tile : Nat) : State :=
  match s.tiles.get? tile with
  | some t => (s.setTile tile { t with freed := true, charge := none, key := 0 }).push [.tileRelease]
  | none => s

/-- Returns the chunks of a released tile when nothing is left on it (R351). -/
def tryReleaseTile (s : State) (tile : Nat) : State :=
  match s.tiles.get? tile with
  | some t =>
    if t.freed && t.permits.isEmpty && (opsOnTile s tile).isEmpty then
      let holders := t.chunks.foldl (fun h c => Tab.set (512 * t.core + c) t.ctx h) s.mem.chunkHolder
      { (s.setMem { s.mem with chunkHolder := holders }) with tiles := s.tiles.del tile }
    else s
  | none => s

/-- Releases the pin that a query holds (R209). -/
def releaseQueryPin (s : State) (t : Nat) (q : Query) : State :=
  if !q.pinned then s else
  match structAt s (s.ctxOf t) q.hdr with
  | some k => dropPin s k q.gen
  | none => s

/-- An audited hit that ends without its insertion is counted without comparison (R188). -/
def endAudit (s : State) (t : Nat) (pending : Bool) : State := if pending then countAudited s (s.clusterOf t) else s

/-- Closes a thread's memo region with no insertion (R394, R395). -/
def closeRegion (s : State) (t : Nat) : State :=
  match (s.thread t).region with
  | none => s
  | some r => (endAudit s t r.audit).modThread t fun x => { x with region := none }

/-- Ends a thread's ray query and releases its pin (R382, R209); nothing is inserted. -/
def endQuery (s : State) (t : Nat) : State :=
  match (s.thread t).query with
  | none => s
  | some q => (endAudit (releaseQueryPin s t q) t q.audit).modThread t fun x => { x with query := none }

/-- Threads of a gang, in ascending position. -/
def threadsOf (g : Gang) : List Nat := g.at_.filterMap id

/-- Threads of a team, gang by gang. -/
def teamThreads (s : State) (team : Nat) : List Nat := (s.team team).gangs.flatMap fun g => threadsOf (s.gang g)

/-- A gang's tiles: those its handles name and those offered to it. -/
def gangTiles (g : Gang) : List Nat := g.h.toList.filterMap id ++ g.offers.map (·.tile)

/-- The gang that answers for a tile: the one it is charged to, or, once the carder has dissolved that one (R49), the one that holds
it in an offer (DEDUCED, log 36); none for a released tile. -/
def tileGang (s : State) (id : Nat) (t : Tile) : Option Nat :=
  t.charge.bind fun g =>
    if (s.gangs.get? g).isSome then some g else ((s.gangs.find? fun e => (gangTiles e.2).contains id).map (·.1))

/-- Takes a gang and its threads out of the machine, releasing its tiles (R354). Tiles in an offer to a gang that the carder
dissolves are released with it (DESIGN CHOICE, log 9). -/
def removeGang (s : State) (gid : Nat) : State :=
  let g := s.gang gid
  let s1 := (gangTiles g).foldl freeTile s
  let ths := threadsOf g
  { s1 with threads := s1.threads.filter (fun e => !(ths.contains e.1)), gangs := s1.gangs.del gid,
            accs := s1.accs.filter fun e => !(ths.contains e.2.thread) }

/-- Takes a team's gangs out of the machine; its record stays for what still names it. -/
def removeGangs (s : State) (team : Nat) : State :=
  ((s.team team).gangs.foldl removeGang s).modTeam team fun t => { t with gangs := [] }

/-- Removes a team whole. -/
def removeTeam (s : State) (team : Nat) : State :=
  let s1 := removeGangs s team
  { s1 with teams := s1.teams.del team }

/-- A packet of a queue has completed: later packets with ORDER may become eligible (R142). -/
def packetDone (s : State) (qid slot : Nat) : State :=
  s.modQueue qid fun q => { q with opened := q.opened.filter fun i => i != slot }

/-- Completes a grid (R140): its CPLADDR receives the add unless it failed, and its grid entry is free again. -/
def completeGrid (s : State) (g : Nat) : State :=
  let r := s.grid g
  let s1 := if r.failed then s else cplAdd s r.ctx r.launch.cpl 1
  let s2 := packetDone s1 r.qid r.slot
  { s2 with grids := s2.grids.del g }

/-- Teams of a grid that are resident, suspended or saved. -/
def gridTeams (s : State) (g : Nat) : List Nat := (s.teams.filter fun e => e.2.grid == g).map (·.1)

/-- Records of a grid that wait in core buffers. -/
def gridRecords (s : State) (g : Nat) : List Record := s.cores.flatMap fun e => e.2.records.filter fun r => r.grid == g

/-- Every store of a grid's threads to peer memory has been acknowledged, as the release add of its completion needs (R110, R140). -/
def gridAcked (s : State) (g : Nat) : Bool := !(s.mgmt.peerStores.any fun e => e.2.grid == g)

/-- Completes a grid whose every team below its final N has completed (R32, R140). -/
def tryCompleteGrid (s : State) (g : Nat) : State :=
  match s.grids.get? g with
  | none => s
  | some r =>
    if r.pipeline then s
    else if gridAcked s g && r.n ≤ r.nextIdx && r.returned.isEmpty && r.resumed.isEmpty && (gridTeams s g).isEmpty && (gridRecords s g).isEmpty
    then completeGrid s g else s

/-- A failed grid loses its entry when its last saved team has completed (R441). -/
def dropFailedGrid (s : State) (g : Nat) : State :=
  if (s.grid g).failed && (gridTeams s g).isEmpty then
    { (packetDone s (s.grid g).qid (s.grid g).slot) with grids := s.grids.del g } else s

/-- D of a completed team (R51). -/
def measuredD (t : Team) : Nat := if t.groups = 0 then 0 else min 255 (256 * t.partialGroups / t.groups)

/-- Index of a kernel in the divergence table (R50). -/
def divIndex (e : Nat) : Nat := Nat.xor (bits e 11 6) (bits e 17 12)

/-- A team of an auto kernel has completed: its update of the divergence table is due at the end of the front cycle (R51). -/
def updateDivergence (s : State) (team : Nat) : State :=
  let t := s.team team
  let gr := s.grid t.grid
  if gr.launch.gwidth != 4 then s else
  let cl := t.cores.headD 0 / 16
  s.modCtx gr.ctx fun c => { c with divPending := c.divPending ++ [⟨cl, nth s.clk.front cl 0, t.idx, gr.launch.entry, measuredD t⟩] }

/-- One update of a divergence table (R51). -/
def applyDiv (div : Tab DivEntry) (u : DivUpdate) : Tab DivEntry :=
  let h := match div.get? (divIndex u.entry) with
    | some x => if x.entry = u.entry then x.h else u.d
    | none => u.d
  div.set (divIndex u.entry) ⟨u.entry, h - h / 8 + u.d / 8⟩

/-- The updates of the front cycles that have ended, those of one cycle in team-index order (R51). -/
def settleDivergence (s : State) : State :=
  { s with ctxs := s.ctxs.map fun e =>
      let ended (u : DivUpdate) : Bool := nth s.clk.front u.cl 0 != u.cycle
      (e.1, { e.2 with div := (sortBy (fun (a b : DivUpdate) => decide (a.idx < b.idx)) (e.2.divPending.filter ended)).foldl applyDiv e.2.div
                       divPending := e.2.divPending.filter fun u => !ended u }) }

/-- What follows the completion of a team, by its role (R140, R151, R190, R440). -/
def afterTeam (s : State) (team : Nat) : State :=
  let t := s.team team
  match t.role with
  | .plain =>
    let s1 := (updateDivergence s team).modGrid t.grid fun g => { g with done := g.done + 1, ringDone := t.idx :: g.ringDone }
    let s2 := removeTeam s1 team
    let s3 := if (s2.grid t.grid).failed then dropFailedGrid s2 t.grid else tryCompleteGrid s2 t.grid
    if t.urgent then s3.push [.urgentRestore] else s3
  | .stage inst st group =>
    let s1 := removeTeam s team
    (s1.modInst inst fun i => { i with groups := i.groups.map fun h =>
        if h.stage = st ∧ 64 * h.core + h.quarter = group then { h with team := none } else h }).push [.pipelineInstanceStart]
  | .batch _ _ => removeGangs s team

/-- Completes a team when every thread of it has Exited (R294). -/
def tryCompleteTeam (s : State) (team : Nat) : State :=
  match s.teams.get? team with
  | none => s
  | some t =>
    if t.res = .resident && !t.gangs.isEmpty && (teamThreads s team).all fun th => (s.thread th).run == .exited
    then afterTeam s team else s

/-! ### Record buffers (R146, R149) -/

/-- A record that has come to the head of its buffer stands there from now on (R149). -/
def newHead (now : Nat) (old new : List Record) : List Record :=
  match new with
  | r :: rs => if old.head? = some r then new else { r with since := now } :: rs
  | [] => []

/-- Sets the records of a core's buffer. -/
def setRecords (s : State) (core : Nat) (l : List Record) : State :=
  s.modCore core fun c => { c with records := newHead (s.nowAt core) c.records l }

/-- Keeps the records of every buffer that a test keeps. -/
def keepRecords (s : State) (p : Record → Bool) : State :=
  { s with cores := s.cores.map fun e => (e.1, { e.2 with records := newHead (s.nowAt e.1) e.2.records (e.2.records.filter p) }) }

/-! ### Forced reset (R441) -/

/-- Teams of a context that the predicate picks. -/
def ctxTeams (s : State) (ctx : Nat) (p : Team → Bool) : List Nat :=
  (s.teams.filter fun e => (s.grid e.2.grid).ctx == ctx && e.1 != 0 && p e.2).map (·.1)

/-- Stops one team without rollback or save: queries end, held stores and tiles go. -/
def stopTeam (s : State) (team : Nat) : State :=
  let s1 := (teamThreads s team).foldl endQuery s
  removeTeam s1 team

/-- Closes an instance that a reset stopped (R446): its FIFOs are discarded. -/
def closeInst (s : State) (i : Nat) : State := { s with insts := s.insts.del i }

/-- The inference requests of a context at a reset (R481): outputs take the poison value, flags fall, nothing is inserted, and
one log entry is written for each batch. -/
def dropInference (s : State) (ctx cl : Nat) : State :=
  let c := s.cluster cl
  let mine := c.infReqs.filter fun r => r.ctx == ctx
  let gone := c.infBatches.filter fun b => b.ctx == ctx
  let s1 := mine.foldl (fun st r =>
    let st1 := (List.range (bits r.desc 87 84 + 1)).foldl (fun st k => st.setG r.thread (r.dst + k) 0x7FFC00007FC00001) st
    let st2 := if r.audit then countAudited st1 cl else st1
    if r.flag < 12 then st2.decFlag r.thread r.flag else st2) s
  let s2 := gone.foldl (fun st b => logRender st cl ctx b.desc 0) s1
  s2.modCluster cl fun c =>
    { c with infReqs := c.infReqs.filter (fun r => r.ctx != ctx), infBatches := c.infBatches.filter fun b => b.ctx != ctx }

/-- Steps 1 to 6 of R441, and dropping saved teams for CTX_DESTROY. -/
def stopContext (s : State) (ctx : Nat) (dropSaved : Bool) : State :=
  let resident := ctxTeams s ctx fun t => match t.res with
    | .saved _ => dropSaved
    | .yielding _ => dropSaved
    | _ => true
  let hit := (s.grids.filter fun e => e.2.ctx == ctx && e.1 != 0 && !e.2.failed &&
      (decide (e.2.nextIdx < e.2.n) || !e.2.returned.isEmpty || !e.2.resumed.isEmpty && dropSaved || e.2.pipeline
        || resident.any (fun t => (s.team t).grid == e.1) || !(gridRecords s e.1).isEmpty || !(gridAcked s e.1))).map (·.1)
  let insts := (s.insts.filter fun e => (s.grid e.2.grid).ctx == ctx).map (·.1)
  let s0 := (s.clusters.map (·.1)).foldl (fun st cl => dropInference st ctx cl) s
  let s1 := insts.foldl closeInst (resident.foldl stopTeam s0)
  let s2 := keepRecords s1 fun r => !((s.grid r.grid).ctx == ctx && (r.resume.isNone || dropSaved))
  let s3 := hit.foldl (fun st g => (cplAdd st ctx (st.grid g).launch.cpl cplFail).modGrid g fun r =>
      { r with failed := true, nextIdx := r.n, returned := [], resumed := if dropSaved then [] else r.resumed }) s2
  hit.foldl (fun st g => if (gridTeams st g).isEmpty then
      { (packetDone st (st.grid g).qid (st.grid g).slot) with grids := st.grids.del g } else st) s3

/-- The forced reset of a context (R441): code, and the team index that LASTRESET records. -/
def forcedReset (s : State) (ctx code idx : Nat) : State :=
  let s1 := stopContext s ctx false
  let s2 := saveAreaAdd s1 ctx 48 4
  let s3 := if (s2.ctx ctx).saveArea = 0 then s2 else (devWrite s2 ctx ((s2.ctx ctx).saveArea + 40) (bytesOfNat (code + 256 * idx) 4)).1
  logErr (s3.modCtx ctx fun c => { c with drain := none }) 1 code (idx % 2 ^ 16) ctx 0 0

end Sys2Proof.Machine
end

