-- ==== Sys2Proof/Machine/Traps.lean ====
section
/-! DEFINITION. Taking an exception and returning from one (spec 18 R423 to R435): raised entries, the gang's queue,
delivery to a handler, nested delivery, the end of a delivery, and rollback. -/

namespace Sys2Proof.Machine

/-- The causes delivered to the supervisor handler (Tables 18-1 and 19-1). -/
def causeIsSup (c : Nat) : Bool := c == cTransl || c == cPerm || c == cPoison || c == cPeer || c == cPaging

/-- Rank of a cause (Tables 18-1 and 19-1). -/
def causeRank (c : Nat) : Nat := if c < 0x10 then c else 11

/-! ### Rollback (R435) -/

/-- The oldest unperformed access of a thread. -/
def oldestAcc (s : State) (t : Nat) : Option Access :=
  leastBy (fun a b => decide (a.seq < b.seq)) ((s.accsOf t).map (·.2))

/-- Restores one logged register of a thread. -/
def undoOne (s : State) (gid t : Nat) (u : Undo) : State :=
  match u.reg, (u.old.find? fun e => e.1 == t).map (·.2) with
  | .g n, some v => s.setG t n v
  | .p n, some v => s.setP t n (v.getLsbD 0)
  | .w n, some v => s.setW gid n v
  | _, none => s

/-- A thread that is rolled back stays Blocked when an entry names it. -/
def Thread.rolled (x : Thread) : Run := if x.run = .blocked .trap then x.run else .ready

/-- Rolls one thread back to before its oldest unperformed access; its held stores and accesses go. -/
def rollbackThread (s : State) (gid t : Nat) : State :=
  match oldestAcc s t with
  | none => s
  | some a =>
    let log := (s.gang gid).undo.filter fun u => decide (a.seq ≤ u.order)
    let s1 := log.foldr (fun u st => undoOne st gid t u) s
    let s2 := s1.modThread t fun x => { x with pc := a.pc, clause := a.clause, run := x.rolled }
    { s2 with accs := s2.accs.filter fun e => e.2.thread != t }

/-- Rollback of a gang (R435): threads with an unperformed access go back to it, the others keep their state. -/
def rollback (s : State) (gid : Nat) : State :=
  let s1 := (threadsOf (s.gang gid)).foldl (fun st t => rollbackThread st gid t) s
  s1.modGang gid fun g => { g with undo := [] }

/-! ### Delivery (R427 to R433) -/

/-- The kernel's handler clause, by the vector word below its entry clause (R428). -/
def kernelHandler (s : State) (team : Nat) : State × Option Nat :=
  let t := s.team team
  let ctx := (s.grid t.grid).ctx
  match resolveEng s ctx (t.entry - 8) .load false with
  | (s1, .ok k) =>
    if (spoiledAt s1 k 8).isSome then (logErr s1 2 cPoison 0 ctx (t.entry - 8) 0, none) else
    let v := readNat s1.mem.cells k 8
    (s1, if bit v 63 && bits v 62 52 == 0 then some (bits v 51 0) else none)
  | (s1, .bad f) => (logErr s1 2 f.1 0 ctx (t.entry - 8) 0, none)
  | (s1, .page _) => (s1, none)

/-- w30 at delivery (Table 18-3). -/
def statusWord (e : Entry) (sup : Bool) : Word := wordOf (e.pc * 2 ^ 12 + b2n sup * 2 ^ 8 + e.cause)

/-- w28 at delivery (Table 18-3): the PC, or the halfword after the trap word for Software. -/
def resumeWord (e : Entry) : Word := wordOf (if e.cause = cSoft then e.after else e.pc)

/-- Writes the trap frame and w28 to w31 of a gang (R430). -/
def saveAndSet (g : Gang) (e : Entry) (sup : Bool) : Gang :=
  let saved := Vector.ofFn fun i => vget g.w (28 + i) 0
  let w1 := vset (vset (vset (vset g.w 28 (resumeWord e)) 29 (wordOf e.mask)) 30 (statusWord e sup)) 31 e.info
  if sup then { g with frameS := saved, w := w1 } else { g with frameK := saved, w := w1 }

/-- Sends a thread into a handler at a level. -/
def enterHandler (x : Thread) (sup : Bool) (handler now : Nat) : Thread :=
  { x with entered := ⟨if sup then .sup else .kernel, x.clause, sup⟩ :: x.entered, pc := handler, clause := none, hintNow := [], hintEnd := [], run := .ready,
           since := now }

/-- Delivers an entry to a handler: frame, w28 to w31, and the named threads at the handler's clause (R430). -/
def deliverTo (s : State) (gid : Nat) (e : Entry) (ths : List Nat) (sup isNested : Bool) (handler : Nat) : State :=
  let s1 := s.modGang gid fun g =>
    let g1 := saveAndSet g e sup
    if isNested then { g1 with nested := some ⟨sup, ths, ths⟩ } else { g1 with delivery := some ⟨sup, ths, ths⟩ }
  ths.foldl (fun st t => st.modThread t fun x => enterHandler x sup handler (st.nowOf t)) s1

/-- The threads that an entry names. -/
def namedThreads (g : Gang) (mask : Nat) : List Nat := (bitList mask g.width).filterMap fun p => (nth g.at_ p none)

/-- Delivers the head entry of a gang's queue when no handler runs in it (R427, R429), in a resident team (R447). -/
def deliverNext (s : State) (gid : Nat) : State :=
  let g := s.gang gid
  if (s.team g.team).res ≠ .resident then s else
  match g.delivery, g.queue with
  | none, e :: rest =>
    let ctx := (s.grid (s.team g.team).grid).ctx
    let s0 := s.modGang gid fun g => { g with queue := rest }
    let (s1, kh) := if causeIsSup e.cause then (s0, none) else kernelHandler s0 g.team
    match kh with
    | some h => deliverTo s1 gid e (namedThreads g e.mask) false false h
    | none =>
      let (s2, h) := supEntry s1 ctx
      if h = 0 then forcedReset s2 ctx 2 (s.team g.team).idx
      else deliverTo s2 gid e (namedThreads g e.mask) true false h
  | _, _ => s

/-- Delivers the next trap raised in a kernel handler, to the supervisor handler (R433). -/
def deliverNested (s : State) (gid : Nat) : State :=
  let g := s.gang gid
  if (s.team g.team).res ≠ .resident then s else
  match g.nested, g.nestq with
  | none, r :: rest =>
    let ctx := (s.grid (s.team g.team).grid).ctx
    let s0 := s.modGang gid fun g => { g with nestq := rest }
    let (s1, h) := supEntry s0 ctx
    if h = 0 then forcedReset s1 ctx 2 (s.team g.team).idx
    else deliverTo s1 gid r.entry r.threads true true h
  | _, _ => s

/-! ### The queue (R425, R426) -/

/-- The entries of one instruction may enter the queue once every cause of it is known, and every access that the threads named in
them issued before is performed (R426). -/
def raisedReady (s : State) (gid : Nat) (r : Raised) : Bool :=
  let named := ((s.gang gid).raised.filter fun x => x.seq == r.seq).flatMap (·.threads)
  s.accs.all fun e =>
    !((s.thread e.2.thread).gang == gid &&
      ((e.2.seq == r.seq && !e.2.faulted) || (decide (e.2.seq < r.seq) && named.contains e.2.thread)))

/-- A join-lost entry enters in the front cycle of the abandonment, whatever else waits (R426). -/
def Raised.atOnce (r : Raised) : Bool := r.entry.cause == cJoin

/-- A thread has logged writes (R435). -/
def hasLogged (g : Gang) (t : Nat) : Bool := g.undo.any fun u => u.old.any fun o => o.1 == t

/-- Enters raised entries into the gang's queue, in order, as far as they are ready, and join-lost entries at once. Rollback comes first: of the gang
where a named thread has logged writes, else of the named threads whose access faulted (R435). -/
def queueRaised (s : State) (gid : Nat) : State :=
  let g := s.gang gid
  let rest := g.raised.dropWhile (raisedReady s gid)
  let go := g.raised.takeWhile (raisedReady s gid) ++ rest.filter (·.atOnce)
  if go.isEmpty then s else
  let named := go.flatMap (·.threads)
  let s1 := if named.any (hasLogged g) then rollback s gid else named.foldl (fun st t => rollbackThread st gid t) s
  s1.modGang gid fun g => { g with queue := g.queue ++ go.map (·.entry), raised := rest.filter fun r => !r.atOnce }

/-- Queues and delivers what can be in a gang. -/
def settleTraps (s : State) (gid : Nat) : State := deliverNested (deliverNext (queueRaised s gid) gid) gid

/-! ### Raising (R423, R502, R503) -/

/-- A fault of one thread at an instruction: thread, cause and INFO. -/
structure Fx where
  (thread : Nat) (cause : Nat) (info : Word)
  deriving DecidableEq, Repr

/-- The entry of some faults of one cause in one gang: INFO is that of the lowest position (R423). -/
def entryOf (s : State) (fs : List Fx) (pc after seq : Nat) : Raised :=
  let low := (leastBy (fun (a b : Fx) => decide ((s.thread a.thread).pos < (s.thread b.thread).pos)) fs).getD ⟨0, 0, 0⟩
  ⟨{ info := low.info, mask := maskOf (fs.map fun f => (s.thread f.thread).pos), pc := pc, more := false, cause := low.cause,
     after := after }, fs.map (·.thread), fs.map fun f => (f.thread, f.info), seq⟩

/-- The management core's trap (R522): its ROM handler logs it and restarts the thread with its registers as at start. -/
def mgmtTrap (s : State) (f : Fx) (pc : Nat) : State :=
  let s1 := s.modThread f.thread fun x =>
    { x with g := Vector.replicate 64 0, p := 0, f := Vector.replicate 12 0, pc := 0, clause := none, hintNow := [], hintEnd := [], run := .ready, entered := [] }
  let s2 := s1.modGang (s.thread f.thread).gang fun g =>
    { g with w := Vector.replicate 32 0, joins := List.replicate 8 ⟨.idle, 0, 0, []⟩ }
  let busy := s2.mgmt.mbxStatus.getLsbD 0
  let s3 := if busy then s2.modMgmt fun m =>
      { m with mbxStatus := wordOf (bits m.mbxCmd.toNat 63 48 * 2 ^ 48 + 6 * 2 ^ 16 + bits m.mbxStatus.toNat 1 1 * 2),
               msi := m.msi ++ [0] } else s2
  logErr s3 0x0A f.cause 0xFFFF 0 pc f.info.toNat

/-- Blocks a thread that is named in an entry (R425). -/
def blockForTrap (s : State) (t : Nat) : State := s.modThread t fun x => { x with run := .blocked .trap }

/-- The INFO of the lowest of some positions (R423). -/
def lowestInfo (s : State) (ths : List Nat) (infos : List (Nat × Word)) : Option Word :=
  (leastBy (fun a b => decide ((s.thread a).pos < (s.thread b).pos)) ths).bind fun t => (infos.find? fun x => x.1 == t).map (·.2)

/-- Takes threads out of an entry that has not entered the queue. -/
def Raised.without (s : State) (r : Raised) (ths : List Nat) : Raised :=
  let left := r.threads.filter fun t => !(ths.contains t)
  { r with threads := left, entry := { r.entry with mask := maskOf (left.map fun t => (s.thread t).pos), info := (lowestInfo s left r.infos).getD r.entry.info } }

/-- The lowest position that a mask names. -/
def lowPos (m : Nat) : Nat := ((bitList m 64).head?).getD 64

/-- Two entries of one instruction and cause as one: INFO is that of the lowest position (R423). -/
def Raised.join (a b : Raised) : Raised :=
  let low := if lowPos b.entry.mask < lowPos a.entry.mask then b.entry else a.entry
  { a with threads := a.threads ++ b.threads, infos := a.infos ++ b.infos, entry := { low with mask := maskOf (bitList a.entry.mask 64 ++ bitList b.entry.mask 64) } }

/-- Adds an entry: a thread is named only at its oldest faulting instruction (R435), the entries of an instruction stand in
ascending rank, and those of the gang in issue order (R426). -/
def addRaised (s : State) (l : List Raised) (r : Raised) : List Raised :=
  let older := (l.filter fun x => decide (x.seq < r.seq)).flatMap (·.threads)
  let r1 := r.without s older
  if r1.threads.isEmpty then l else
  let l1 := (l.map fun x => if r1.seq < x.seq then x.without s r1.threads else x).filter fun x => !x.threads.isEmpty
  if l1.any fun x => x.seq == r1.seq && x.entry.cause == r1.entry.cause then
    l1.map fun x => if x.seq = r1.seq ∧ x.entry.cause = r1.entry.cause then x.join r1 else x
  else insertBy (fun (a b : Raised) => decide (a.seq < b.seq) || (a.seq == b.seq && decide (causeRank a.entry.cause < causeRank b.entry.cause)))
    r1 l1

/-- The faults of one gang's threads, one entry per cause in ascending rank. -/
def raiseInGang (s : State) (gid : Nat) (fs : List Fx) (pc after seq : Nat) : State :=
  let user := fs.filter fun f => s.levelOf f.thread == .user
  let kern := fs.filter fun f => s.levelOf f.thread == .kernel
  let sups := fs.filter fun f => s.levelOf f.thread == .sup
  let causes := sortBy (fun a b => decide (causeRank a < causeRank b)) (dedup (user.map (·.cause)))
  let entries := causes.map fun c => entryOf s (user.filter fun f => f.cause == c) pc after seq
  let nests := kern.map fun f => entryOf s [f] pc after seq
  let s1 := (fs.map (·.thread)).foldl blockForTrap s
  let s2 := s1.modGang gid fun g => { g with raised := entries.foldl (addRaised s1) g.raised, nestq := g.nestq ++ nests }
  let s3 := settleTraps s2 gid
  if sups.isEmpty then s3 else forcedReset s3 (s.grid (s.team (s.gang gid).team).grid).ctx 2 (s.team (s.gang gid).team).idx

/-- Takes the exceptions of one instruction: faults in ascending lane order, the address of the first prefix, that of the
halfword after the instruction, and its place in issue order. -/
def raise (s : State) (fs : List Fx) (pc after seq : Nat) : State :=
  let gids := dedup (fs.map fun f => (s.thread f.thread).gang)
  gids.foldl (fun st gid =>
    let mine := fs.filter fun f => (s.thread f.thread).gang == gid
    if (s.gang gid).core == mgmtCore then mine.foldl (fun st f => mgmtTrap st f pc) st
    else raiseInGang st gid mine pc after seq) s

/-! ### The end of a delivery (R431) -/

/-- Restores w28 to w31 from a trap frame. -/
def restoreFrame (g : Gang) (sup : Bool) : Gang :=
  let f := if sup then g.frameS else g.frameK
  { g with w := vset (vset (vset (vset g.w 28 (vget f 0 0)) 29 (vget f 1 0)) 30 (vget f 2 0)) 31 (vget f 3 0) }

/-- A thread leaves the nested delivery, which ends with its last thread. -/
def leaveNested (s : State) (gid t : Nat) : State :=
  match (s.gang gid).nested with
  | some d =>
    if d.left.contains t then
      let left := d.left.filter fun x => x != t
      if left.isEmpty then deliverNested (s.modGang gid fun g => { restoreFrame g d.sup with nested := none }) gid
      else s.modGang gid fun g => { g with nested := some { d with left := left } }
    else s
  | none => s

/-- A thread leaves the delivery of the queue's entry, which ends with its last thread; causes held for its threads may enter then
(R425). -/
def leaveOuter (s : State) (gid t : Nat) : State :=
  match (s.gang gid).delivery with
  | some d =>
    if d.left.contains t then
      let left := d.left.filter fun x => x != t
      if left.isEmpty then
        deliverNext ((s.modGang gid fun g => { restoreFrame g d.sup with delivery := none }).push
          (d.named.map Instr.asyncTrapEntry)) gid
      else s.modGang gid fun g => { g with delivery := some { d with left := left } }
    else s
  | none => s

/-- A thread has executed tret in its handler: it leaves the delivery that it runs. -/
def leaveDelivery (s : State) (gid t : Nat) : State :=
  if (s.gang gid).nested.isSome then leaveNested s gid t else leaveOuter s gid t

/-- A thread ends in a handler: it leaves every delivery that it stands in (R431). -/
def leaveAll (s : State) (gid t : Nat) : State := leaveOuter (leaveNested s gid t) gid t

/-- An address lies in the body of a clause (DEDUCED, log 15). -/
def Clause.holds (c : Clause) (a : Nat) : Bool := decide (c.hdr + 4 ≤ a ∧ a < c.fin)

/-- The return from an exception: the thread goes to the address in w28 and to the level that it held (R431, R432). An
address inside the body of the clause that it left resumes in that clause, any other is a header (DEDUCED, log 15). -/
def returnFrom (s : State) (t : Nat) : State :=
  let gid := (s.thread t).gang
  let dest := bits (s.ur t 28).toNat 51 0
  match (s.thread t).entered with
  | [] => s
  | e :: rest =>
    let back := match e.back with
      | some c => if c.holds dest then some c else none
      | none => none
    let s1 := s.modThread t fun x => { x with pc := dest, clause := back, entered := rest, run := .ready, since := s.nowOf t }
    leaveDelivery s1 gid t

/-- A thread is held Waiting while a handler runs in its gang without it (R427, R433). -/
def heldByHandler (g : Gang) (t : Nat) : Bool :=
  match g.nested with
  | some d => !(d.left.contains t)
  | none =>
    match g.delivery with
    | some d => !(d.left.contains t)
    | none => false

/-! ### Asynchronous causes (R449) -/

/-- Raises an asynchronous cause for a thread; fail tells one failure from another. The failed operation's flag decrements wait until the entry has entered
the queue: at once when the thread can be named, else with the held entry. -/
def raiseAsync (s : State) (fail t cause : Nat) (info : Word) (decs : List (Nat × Nat)) (back : Option (Nat × Option Clause)) : State :=
  match s.threads.get? t with
  | none => decs.foldl (fun st d => st.decFlag d.1 d.2) s
  | some x =>
    if x.run = .exited then decs.foldl (fun st d => st.decFlag d.1 d.2) s
    else
      let held := if x.held.any fun h => h.cause == cause
        then x.held.map fun h => if h.cause = cause then { h with more := true, decs := h.decs ++ decs } else h
        else x.held ++ [⟨fail, cause, info, false, decs, back⟩]
      (s.modThread t fun x => { x with held := held }).push [.asyncTrapEntry t]

/-- A thread is named in a raised or queued entry, or in one whose delivery has not ended (R425). -/
def isNamed (s : State) (t : Nat) : Bool :=
  (s.thread t).run == .blocked .trap || !(s.thread t).entered.isEmpty || (s.gangOf t).delivery.any (·.named.contains t)

end Sys2Proof.Machine
end

