-- ==== Sys2Proof/Machine/Operands.lean ====
section
/-! DEFINITION. Operands: the elements of a register (spec 12 R274), and for each instruction the registers it reads and
writes with their hints (spec 11 R259 to R263), the modifiers it accepts (Table 12-2), its engine port (Table 6-9) and the
classes that the issue rules need (R26, R255, R275, R343, R434). -/

namespace Sys2Proof.Machine

/-! ### Elements -/

/-- Element j of width n. -/
def elemAt (n j x : Nat) : Nat := x / 2 ^ (n * j) % 2 ^ n

/-- Elements of a 64-bit register (R274). -/
def elems (n x : Nat) : List Nat := (List.range (64 / n)).map fun j => elemAt n j x

/-- Puts elements of width n back, element 0 lowest. -/
def joinElems (n : Nat) : List Nat → Nat
  | [] => 0
  | x :: xs => x % 2 ^ n + 2 ^ n * joinElems n xs

/-- Applies an operation to every element of A, B and D (R274). -/
def map3 (n : Nat) (f : Nat → Nat → Nat → Nat) (a b d : Word) : Word :=
  wordOf (joinElems n ((List.range (64 / n)).map fun j => f (elemAt n j a.toNat) (elemAt n j b.toNat) (elemAt n j d.toNat)))

/-- Applies an operation to every element of A. -/
def map1 (n : Nat) (f : Nat → Nat) (a : Word) : Word := wordOf (joinElems n ((elems n a.toNat).map f))

/-- The immediates of formats I, M and N, sign-extended. -/
def immWord (i : BitVec 10) : Word := i.signExtend 64

/-- Registers of a group as one little-endian number. -/
def groupNat (s : State) (t first n : Nat) : Nat := joinElems 64 ((List.range n).map fun k => (s.gr t (first + k)).toNat)

/-- Registers of a group as bytes. -/
def groupBytes (s : State) (t first n : Nat) : List Byte := bytesOfNat (groupNat s t first n) (8 * n)

/-- Writes the bytes of a list to consecutive registers. -/
def setGroup (s : State) (t first n x : Nat) : State :=
  (List.range n).foldl (fun st k => st.setG t (first + k) (wordOf (elemAt 64 k x))) s

end Sys2Proof.Machine

namespace Sys2Proof

/-! ### What an instruction reads and writes -/

/-- A read of g registers: its hint, the first register and the count. -/
abbrev Rd := Hint × Nat × Nat

/-- Engine ports (Table 6-9). -/
inductive Port where | matrix | intersect | special | memory | request | tile
  deriving DecidableEq, Repr

/-- What the issue rules need to know of an instruction. -/
structure Uses where
  (rd : List Rd := []) (wr : List (Nat × Nat) := []) (pr : List Nat := []) (pw : List Nat := [])
  (ur : List Nat := []) (uw : List Nat := []) (join : Option Nat := none)
  deriving DecidableEq, Repr

/-- The registers of Format A: A and B read, D written. -/
def u3 (hb : Hint) (b : Reg) (ha : Hint) (a d : Reg) : Uses := { rd := [(ha, a.val, 1), (hb, b.val, 1)], wr := [(d.val, 1)] }
def Op3.uses (o : Op3) : Uses := u3 o.hb o.b o.ha o.a o.d
def Op3.usesD (o : Op3) : Uses := { rd := [(o.ha, o.a.val, 1), (o.hb, o.b.val, 1), (.none, o.d.val, 1)], wr := [(o.d.val, 1)] }
def Op3F.uses (o : Op3F) : Uses := u3 o.hb o.b o.ha o.a o.d
def Op3X.uses (o : Op3X) : Uses := u3 o.hb o.b o.ha o.a o.d
def u2 (ha : Hint) (a d : Reg) : Uses := { rd := [(ha, a.val, 1)], wr := [(d.val, 1)] }
def u1 (ha : Hint) (a : Reg) : Uses := { rd := [(ha, a.val, 1)] }
def OpCmp.uses (o : OpCmp) : Uses := { rd := [(o.ha, o.a.val, 1), (o.hb, o.b.val, 1)], pw := [o.pd.val] }
def OpU3.uses (o : OpU3) : Uses := { ur := [o.a.val, o.b.val], uw := [o.d.val] }
def OpSt.uses (o : OpSt) : Uses := { rd := [(o.ha, o.a.val, 1), (o.hs, o.s.val, 1)] }
def OpS.uses (o : OpS) : Uses := { rd := [(.none, o.d.val, 1), (.none, o.a.val, 1)], wr := [(o.d.val, 1)] }
def OpSI.uses (o : OpSI) : Uses := { rd := [(.none, o.d.val, 1)], wr := [(o.d.val, 1)] }
def OpMma.uses (o : OpMma) : Uses := { rd := [(o.hb, o.b.val, o.el.bRegs)], join := some o.n.val }
def OpMma8.uses (o : OpMma8) : Uses := { rd := [(o.hb, o.b.val, o.el.bRegs)], join := some o.n.val }
/-- Texture reads: the pair A, the descriptor address B, the pair D (Table 15-1). -/
def Op3X.tex (o : Op3X) : Uses := { rd := [(o.ha, o.a.val, 2), (o.hb, o.b.val, 1)], wr := [(o.d.val, 2)] }
def Op3X.interp (o : Op3X) : Uses := { rd := [(o.ha, o.a.val, 1), (o.hb, o.b.val, 3)], wr := [(o.d.val, 1)] }

/-- Registers that an instruction reads and writes (Tables 11-6, 11-7, 12-8, 12-9, 14-2, 14-6, 15-1) (DEDUCED, log 19). -/
def Instr.uses : Instr → Uses
  | .add o | .sub o | .mul o | .mulhiS o | .mulhiN o | .addsatS o | .addsatN o | .subsatS o | .subsatN o | .minS o | .minN o
  | .maxS o | .maxN o | .andOp o | .orOp o | .xor o | .andn o | .shl o | .shr o | .sar o | .rotl o | .bfeS o | .bfeN o
  | .shfl o => o.uses
  | .bfi o | .madd o => o.usesD
  | .sel o | .lmul o | .ldiv o | .lpow o | .waitaPhase o | .waitaGe o | .waitaEq o | .rqreport o | .bobjExpect o => o.uses
  | .popc o | .clz o | .ctz o | .brev o | .matchOp o => u2 o.ha o.a o.d
  | .addImm o | .andImm o => u2 o.ha o.a o.d
  | .shlImm o | .shrImm o | .sarImm o | .rotlImm o => u2 o.ha o.a o.d
  | .movz o => { wr := [(o.d.val, 1)] }
  | .movk o => { rd := [(.none, o.d.val, 1)], wr := [(o.d.val, 1)] }
  | .addF o | .subF o | .mulF o | .minF o | .maxF o => o.uses
  | .fma o => { rd := [(o.ha, o.a.val, 1), (o.hb, o.b.val, 1), (.none, o.d.val, 1)], wr := [(o.d.val, 1)] }
  | .classOp o | .rnd o | .rcp o | .sqrt o | .rsqrt o | .log2 o | .exp2 o | .tolog o | .fromlog o => u2 o.ha o.a o.d
  | .lsqrt o | .lrcp o => u2 o.ha o.a o.d
  | .cmpS o | .cmpN o | .cmpF32F64 o | .cmpF16Bf16 o => o.uses
  | .cvt o => u2 o.ha o.a o.d
  | .plop o => { pr := [o.pa.val, o.pb.val, o.pc.val], pw := [o.pd.val] }
  | .bra o => { pr := [o.p.val] }
  | .call o => { wr := [(o.d.val, 1)] }
  | .jmp o => u1 o.ha o.a
  | .jset o => { rd := [(o.ha, o.a.val, 1)], join := some o.n.val }
  | .jarrive n => { join := some n.val }
  | .jwait o => { pw := [o.p.val], join := some o.n.val }
  | .shfliIdx o | .shfliUp o | .shfliDown o | .shfliXor o => u2 o.ha o.a o.d
  | .bcast o => u2 o.ha o.a o.d
  | .voteAny o | .voteAll o | .voteUni o => { pr := [o.a.val], pw := [o.d.val] }
  | .ballot o => { pr := [o.n.val], wr := [(o.d.val, 1)] }
  | .reduceAdd o | .reduceMin o | .reduceMax o => u2 o.ha o.a o.d
  | .xmovG o => { ur := [o.a.val], wr := [(o.d.val, 1)] }
  | .xmovW o => { rd := [(o.ha, o.a.val, 1)], uw := [o.d.val] }
  | .addU o | .subU o | .andU o | .orU o | .xorU o | .shlU o | .shrU o | .mulU o => o.uses
  | .addUimm o => { ur := [o.a.val], uw := [o.d.val] }
  | .movkU o => { ur := [o.d.val], uw := [o.d.val] }
  | .ldS8 o | .ldN8 o | .ldS16 o | .ldN16 o | .ldS32 o | .ldN32 o | .ldB64 o => u2 o.ha o.a o.d
  | .ldq o => { rd := [(o.ha, o.a.val, 1)], wr := [(2 * o.d.val, 2)] }
  | .stB8 o | .stB16 o | .stB32 o | .stB64 o => o.uses
  | .stq o => { rd := [(o.ha, o.a.val, 1), (o.hs, 2 * o.s.val, 2)] }
  | .ldrl o => { rd := [(o.ha, o.a.val, 1), (o.hb, o.b.val, 1)], wr := [(4 * o.d.val, 4)] }
  | .atom o => { rd := [(o.ha, o.a.val, 1), (o.hd, o.d.val, if o.op = .cas then 2 else 1)], wr := [(o.d.val, 1)] }
  | .ared o => { rd := [(o.ha, o.a.val, 1), (o.hd, o.d.val, 1)] }
  | .bobjArrive o => u2 o.ha o.a o.d
  | .bobjInit o | .mwr o | .gunpin o => { rd := [(o.ha, o.a.val, 1), (o.hb, o.b.val, 1)] }
  | .waitm o | .thand o | .tacc o => u1 o.ha o.a
  | .pop o => { wr := [(o.d.val, o.n.val + 1)], pw := [o.pd.val] }
  | .push o => { rd := [(o.hs, o.d.val, o.n.val + 1)], pw := [o.pd.val] }
  | .qpost o => { rd := [(o.ha, o.a.val, 1), (o.hb, 8 * o.b.val, 8)], wr := [(o.d.val, 1)] }
  | .copy o => { rd := [(o.ha, 8 * o.a.val, 8)] }
  | .permit o => { rd := [(o.ha, o.a.val, 1), (o.hb, o.b.val, 1)] }
  | .grow o | .mrd o | .rqbegin o | .rqget o | .gpin o | .gqry o => u2 o.ha o.a o.d
  | .smov o => { wr := [(o.d.val, 1)] }
  | .pref o => u1 o.ha o.a
  | .talloc o => u1 o.ha o.a
  | .tld o | .tst o => u1 o.ha o.a
  | .tqry o => { wr := [(o.a.val, 1)] }
  | .scaleacc o => u1 o.ha o.a
  | .tdrainPeer o => u1 o.ha o.a
  | .mmaFa o | .mmaFb o => o.uses
  | .mmaSp8Fa o | .mmaSp8Fb o => o.uses
  | .edge o => { rd := [(o.ha, o.a.val, 1), (o.hb, o.b.val, 6)], wr := [(o.d.val, 2)] }
  | .interpPersp o | .interpLin o | .interpFlat o => o.interp
  | .deriv o => u2 o.ha o.a o.d
  | .texs o | .texg o | .imld o => o.tex
  | .imst o => { rd := [(o.ha, o.a.val, 2), (o.hb, o.b.val, 1), (.none, o.d.val, 2)] }
  | .exportOp o => { rd := [(o.ha, o.a.val, 3)] }
  | .infq o => { rd := [(o.ha, o.a.val, 1), (o.hb, o.b.val, 1)], wr := [(o.d.val, 1)] }
  | .rqset o => { rd := [(o.ha, o.a.val, 8)] }
  | .rqstep d | .rqcommit d => { wr := [(d.val, 1)] }
  | .card o => u1 o.ha o.a
  | .bld o => u1 o.ha o.a
  | .mkey o => u1 o.ha o.a
  | .mexcl o => u1 o.ha o.a
  | .mprobe o => { wr := [(2 * o.d.val, 2 * (o.p.val + 1))] }
  | .mstore o => { rd := [(o.ha, 2 * o.a.val, 2 * (o.p.val + 1))] }
  | .add16 o | .sub16 o | .and16 o | .or16 o | .xor16 o | .fadd16 o | .fmul16 o | .fsub16 o | .hadd16 o | .hmul16 o => o.uses
  | .mov16 o => { rd := [(.none, o.a.val, 1)], wr := [(o.d.val, 1)] }
  | .addi16 o | .shli16 o | .shri16 o | .sari16 o => o.uses
  | .movi16 o => { wr := [(o.d.val, 1)] }
  | _ => {}

/-- Length in bytes (R253, R267). -/
def Instr.len : Instr → Nat
  | .add16 _ | .sub16 _ | .and16 _ | .or16 _ | .xor16 _ | .mov16 _ | .addi16 _ | .movi16 _ | .shli16 _ | .shri16 _ | .fadd16 _
  | .fmul16 _ | .fsub16 _ | .hadd16 _ | .hmul16 _ | .sari16 _ | .guardPrefix _ _ | .modePrefix _ _ => 2
  | _ => 4

/-- f16 and bf16, the types whose results `.ftz` flushes (Table 12-2). -/
def Ft.small : Ft → Bool
  | .f16 | .bf16 => true
  | _ => false

def Ty.small : Ty → Bool
  | .f16 | .bf16 => true
  | _ => false

def Ty.isFloat : Ty → Bool
  | .f16 | .bf16 | .f32 | .f64 | .e4m3 | .e5m2 | .e3m2 | .e2m3 | .e2m1 => true
  | _ => false

/-- Modifiers accepted: a rounding mode, and `.ftz` (Table 12-2, R505). -/
def Instr.modifiers : Instr → Bool × Bool
  | .addF o | .subF o | .mulF o | .fma o => (true, o.ft.small)
  | .rnd _ => (true, false)
  | .cvt o => (o.dst.isFloat || o.src.isFloat, o.dst.small)
  | .rcp o | .sqrt o | .rsqrt o | .log2 o | .exp2 o | .fromlog o => (true, o.ft.small)
  | .reduceAdd o => (o.ty.isFloat, o.ty.small)
  | .fadd16 _ | .fmul16 _ | .fsub16 _ => (true, false)
  | .hadd16 _ | .hmul16 _ => (true, true)
  | _ => (false, false)

/-- Transfer instructions (R255). -/
def Instr.transfer : Instr → Bool
  | .bra _ | .call _ | .jmp _ | .mprobe _ => true
  | _ => false

/-- The selected set flag of a counted instruction: false for A, true for B (R256, Table 11-6). -/
def Instr.counted : Instr → Option Bool
  | .copy o => some o.fs
  | .tld o | .tst o => some o.fs
  | .tcvt o => some o.fs
  | .scaleacc o => some o.fs
  | .tdrainH o => some o.fs
  | .tdrainPeer o => some o.fs
  | .tdrainByp o => some o.fs
  | .mmaFa _ | .mmaSp8Fa _ => some false
  | .mmaFb _ | .mmaSp8Fb _ => some true
  | .infq o => some o.fs
  | .bld o => some o.fs
  | _ => none

/-- Gang-wide lane instructions (R275). -/
def Instr.gangWideLane : Instr → Bool
  | .jset _ | .jarrive _ | .jwait _ | .shfl _ | .shfliIdx _ | .shfliUp _ | .shfliDown _ | .shfliXor _ | .bcast _ | .voteAny _
  | .voteAll _ | .voteUni _ | .ballot _ | .matchOp _ | .reduceAdd _ | .reduceMin _ | .reduceMax _ | .xmovW _ | .deriv _ => true
  | _ => false

/-- Instructions on the uniform datapath (R26). -/
def Instr.uniform : Instr → Bool
  | .addU _ | .subU _ | .andU _ | .orU _ | .xorU _ | .shlU _ | .shrU _ | .mulU _ | .addUimm _ | .movkU _ => true
  | _ => false

/-- Engine port of an instruction (Table 6-9). -/
def Instr.port : Instr → Option Port
  | .mmaFa _ | .mmaFb _ | .mmaSp8Fa _ | .mmaSp8Fb _ | .scaleacc _ => some .matrix
  | .rqbegin _ | .rqset _ | .rqstep _ | .rqcommit _ | .rqget _ | .rqend | .rqreport _ => some .intersect
  | .rcp _ | .sqrt _ | .rsqrt _ | .log2 _ | .exp2 _ | .tolog _ | .fromlog _ | .lsqrt _ | .lrcp _ | .lmul _ | .ldiv _ | .lpow _ =>
    some .special
  | .ldS8 _ | .ldN8 _ | .ldS16 _ | .ldN16 _ | .ldS32 _ | .ldN32 _ | .ldB64 _ | .ldq _ | .stB8 _ | .stB16 _ | .stB32 _ | .stB64 _
  | .stq _ | .ldrl _ | .atom _ | .ared _ | .pref _ | .bobjArrive _ | .bobjExpect _ | .bobjInit _ | .waitaPhase _ | .waitaGe _
  | .waitaEq _ | .pop _ | .push _ | .qpost _ | .texs _ | .texg _ | .imld _ | .imst _ | .exportOp _ | .mprobe _ | .mstore _ =>
    some .memory
  | .copy _ => some .request
  | .talloc _ | .tfree _ | .thand _ | .tacc _ | .tld _ | .tst _ | .tzero _ | .tcvt _ | .tqry _ | .tdrainH _ | .tdrainPeer _
  | .tdrainByp _ | .waitm _ | .permit _ => some .tile
  | _ => none

/-- Tile instructions of Table 14-6. -/
def Instr.tileOp : Instr → Bool
  | .talloc _ | .tfree _ | .thand _ | .tacc _ | .tld _ | .tst _ | .tzero _ | .tcvt _ | .tqry _ | .scaleacc _ | .tdrainH _
  | .tdrainPeer _ | .tdrainByp _ => true
  | _ => false

/-- Run-ahead past an unperformed access stops before it (R434). -/
def Instr.stops (i : Instr) : Bool :=
  i.counted.isSome || i.gangWideLane || i.tileOp || i.transfer ||
  match i with
  | .ldS8 o | .ldN8 o | .ldS16 o | .ldN16 o | .ldS32 o | .ldN32 o | .ldB64 o => o.q != .plain
  | .ldq o => o.q != .plain
  | .stB8 o | .stB16 o | .stB32 o | .stB64 o => o.q != .plain
  | .stq o => o.q != .plain
  | .atom _ | .ared _ | .fenceAcq | .fenceRel | .fenceAr | .exit | .discard | .yield | .trap _ | .tret | .bar | .barG
  | .bobjArrive _ | .bobjExpect _ | .bobjInit _ | .waitaPhase _ | .waitaGe _ | .waitaEq _ | .waitm _ | .pop _ | .push _
  | .qpost _ | .permit _ | .grow _ | .mrd _ | .mwr _ | .card _ | .pureOp _ | .mkey _ | .mexcl _ | .mstore _ | .pend | .exportOp _
  | .gpin _ | .gunpin _ | .gqry _ | .rqbegin _ | .rqset _ | .rqstep _ | .rqcommit _ | .rqget _ | .rqend | .rqreport _
  | .imst _ => true
  | _ => false

/-- Encodings that the management core does not execute (R343). -/
def Instr.mgmtBad : Instr → Bool
  | .ldS8 o | .ldN8 o | .ldS16 o | .ldN16 o | .ldS32 o | .ldN32 o | .ldB64 o => o.q == .fe || o.q == .fec || o.sp == .pv
  | .ldq o => o.q == .fe || o.q == .fec || o.sp == .pv
  | .stB8 o | .stB16 o | .stB32 o | .stB64 o => o.q == .fill || o.sp == .pv
  | .stq o => o.q == .fill || o.sp == .pv
  | .ldrl o => o.sp == .pv
  | .pref o => o.sp == .pv
  | .bar | .barG | .yield | .discard | .pend => true
  | .bobjArrive _ | .bobjExpect _ | .bobjInit _ | .waitaPhase _ | .waitm _ | .pop _ | .push _ | .copy _ | .permit _ | .grow _
  | .card _ => true
  | .talloc _ | .tfree _ | .thand _ | .tacc _ | .tld _ | .tst _ | .tzero _ | .tcvt _ | .tqry _ | .scaleacc _ | .tdrainH _
  | .tdrainPeer _ | .tdrainByp _ | .mmaFa _ | .mmaFb _ | .mmaSp8Fa _ | .mmaSp8Fb _ | .edge _ | .interpPersp _ | .interpLin _
  | .interpFlat _ | .deriv _ | .texs _ | .texg _ | .imld _ | .imst _ | .exportOp _ | .infq _ | .rqbegin _ | .rqset _ | .rqstep _
  | .rqcommit _ | .rqget _ | .rqend | .rqreport _ | .bld _ | .gpin _ | .gunpin _ | .gqry _ | .pureOp _ | .mkey _ | .mexcl _
  | .mprobe _ | .mstore _ => true
  | _ => false

end Sys2Proof
end

