-- ==== Sys2Proof/Machine/Flags.lean ====
section
/-! DEFINITION. Compare conditions and predicates (spec 12 R284, R286), class masks (R282), and the completion flags of
counted instructions (spec 11 R256). -/

namespace Sys2Proof.Machine

/-- An integer compare (R284); conditions 6 and 7 are reserved. -/
def condInt (c : Cond) (a b : Int) : Bool :=
  match c with
  | .eq => decide (a = b) | .ne => decide (a ≠ b) | .lt => decide (a < b) | .le => decide (a ≤ b)
  | .gt => decide (b < a) | .ge => decide (b ≤ a) | .un => false | .or => false

/-- A float compare (R284): with a NaN only ne and un are true. -/
def condFl (c : Cond) (a b : Fl) : Bool :=
  let un := a.isNan || b.isNan
  match c with
  | .eq => a.eqv b | .ne => !(a.eqv b) | .lt => a.lt b | .le => a.le b | .gt => b.lt a | .ge => b.le a | .un => un | .or => !un

/-- The truth table of plop (R286). -/
def lutBit (lut : BitVec 8) (a b c : Bool) : Bool := lut.getLsbD (4 * b2n a + 2 * b2n b + b2n c)

/-- The class mask of a code (Table 12-3). -/
def classMask (f : Fmt) (c : Nat) : Nat :=
  let e := bits c (f.exp + f.man - 1) f.man
  let m := c % 2 ^ f.man
  let neg := bit c (f.exp + f.man)
  let k := if e = 2 ^ f.exp - 1 then (if m = 0 then (if neg then 0 else 7) else if bit c (f.man - 1) then 8 else 9)
    else if e = 0 then (if m = 0 then (if neg then 3 else 4) else if neg then 2 else 5)
    else if neg then 1 else 6
  2 ^ k

/-- The flag that a counted instruction selects for a thread; none when it is uncounted (R256). -/
def flagOf (x : Thread) (fs : Bool) : Option Nat :=
  match x.clause with
  | some c => let n := if fs then c.setB else c.setA; if n < 12 then some n else none
  | none => none

/-- Counts an operation on a thread's selected flag. -/
def countFlag (s : State) (t : Nat) (fs : Bool) : State :=
  match flagOf (s.thread t) fs with
  | some n => s.incFlag t n
  | none => s

/-- The threads that count on an operation, each with its flag (R256, R347). -/
def countersOf (s : State) (ths : List Nat) (fs : Bool) : List (Nat × Nat) :=
  ths.filterMap fun t => (flagOf (s.thread t) fs).map fun n => (t, n)

/-- Counts an operation for several threads. -/
def countAll (s : State) (l : List (Nat × Nat)) : State := l.foldl (fun st e => st.incFlag e.1 e.2) s

/-- The value for a jwait or pop status. -/
def statusP (b : Bool) : Word := if b then 1 else 0

end Sys2Proof.Machine
end

