-- ==== Sys2Proof/Machine/Ops.lean ====
section
/-! DEFINITION. The carrying of one instruction by an issue group: guards (spec 11 R258), the encoding cause (R266), the
threads' effects in ascending lane, operand hints (R262, R263), the undo log (spec 18 R434), the advance of the program
counter and the end of the clause (R255), and the taking of exceptions (R423, R502); and the return from one (R431). -/

namespace Sys2Proof.Machine

/-- What an instruction does for one thread: its effect; a cause, alone or after what a page-in or a walk left; or
nothing yet, since it issues again later. -/
inductive Act where
  | done (s : State)
  | bad (f : Flt)
  | fail (s : State) (f : Flt)
  | stay (s : State)

/-- What an instruction did for the group: the state, the faults, and the threads that issue it again. -/
structure Out where
  (s : State) (fx : List Fx) (stay : List Nat)

/-- Where a thread goes after the instruction: the next halfword; a target, late by one cycle when it is not on the
preferred path (R264); or where the instruction itself put it. -/
inductive Goes where
  | next
  | to (a : Nat) (late : Bool)
  | own
  deriving DecidableEq, Repr

/-! ### The group -/

/-- The guard of the instruction for a thread (R258). -/
def State.guardOf (s : State) (t : Nat) : Bool :=
  match s.grp.guard with
  | some (neg, p) => xor neg (s.pr t p.val)
  | none => true

/-- The threads of the group whose guard is true. -/
def State.active (s : State) : List Nat := s.grp.threads.filter s.guardOf

/-- The rounding mode in force (R257). -/
def State.mode (s : State) : RMode :=
  match s.grp.mode with
  | some (_, m) => m
  | none => .rn

/-- `.ftz` is given. -/
def State.ftz (s : State) : Bool :=
  match s.grp.mode with
  | some (z, _) => z
  | none => false

/-- The place in issue order of the instruction being carried. -/
def State.seq (s : State) : Nat := s.sched.order - 1

/-- Runs a per-thread effect in the order of the list. -/
def runThreads (body : State → Nat → Act) : State → List Nat → Out
  | s, [] => ⟨s, [], []⟩
  | s, t :: ts =>
    match body s t with
    | .done s1 => runThreads body s1 ts
    | .bad f => let o := runThreads body s ts; { o with fx := ⟨t, f.1, f.2⟩ :: o.fx }
    | .fail s1 f => let o := runThreads body s1 ts; { o with fx := ⟨t, f.1, f.2⟩ :: o.fx }
    | .stay s1 => let o := runThreads body s1 ts; { o with stay := t :: o.stay }

/-- The gangs of some threads, in order of their lowest lane. -/
def gangsOf (s : State) (ths : List Nat) : List Nat := dedup (ths.map fun t => (s.thread t).gang)

/-- Threads of the list in one gang. -/
def inGang (s : State) (gid : Nat) (ths : List Nat) : List Nat := ths.filter fun t => (s.thread t).gang == gid

/-- Runs a gang-wide effect once for each gang with participants, over its participants in ascending position (R275, R347). -/
def runGangs (body : State → Nat → List Nat → Out) (s : State) (ths : List Nat) : Out :=
  (gangsOf s ths).foldl (fun o g => let r := body o.s g (inGang s g ths); ⟨r.s, o.fx ++ r.fx, o.stay ++ r.stay⟩) ⟨s, [], []⟩

/-- Names every participant under one cause (R503). -/
def Out.fail (s : State) (ps : List Nat) (f : Flt) : Out := ⟨s, ps.map fun t => ⟨t, f.1, f.2⟩, []⟩

/-- No fault, and nobody issues again. -/
def Out.ok (s : State) : Out := ⟨s, [], []⟩

/-- Every participant issues the instruction again. -/
def Out.wait (s : State) (ps : List Nat) : Out := ⟨s, [], ps⟩

/-! ### The encoding cause (R266, R504, R505) -/

/-- A register group passes the declared count. -/
def regsBad (d : Nat) (u : Uses) : Bool := u.rd.any (fun r => decide (d < r.2.1 + r.2.2)) || u.wr.any (fun r => decide (d < r.1 + r.2))

/-- A prefix that the instruction does not accept (R257, R505). -/
def prefixBad (g : Group) (i : Instr) : Bool :=
  (match g.mode with
    | none => false
    | some (z, m) => !(i.modifiers.1 || i.modifiers.2) || (z && !i.modifiers.2) || (m != .rn && !i.modifiers.1)) ||
  (match i with
    | .bra _ => g.guard.isSome
    | _ => false)

/-- The instruction does not fit the clause (R255). -/
def clauseBad (g : Group) (c : Option Clause) (i : Instr) : Bool :=
  match c with
  | some c => decide (c.fin < g.cursor + i.len) || (i.transfer && g.cursor + i.len != c.fin)
  | none => false

/-- The encoding cause arises for a thread that issues the instruction. -/
def encodingBad (s : State) (i : Instr) (t : Nat) : Bool :=
  !i.wellFormed || regsBad (s.gangOf t).d i.uses ||
  (match i.uses.join with
    | some n => decide ((s.gangOf t).jcount ≤ n)
    | none => false) ||
  prefixBad s.grp i || clauseBad s.grp (s.thread t).clause i || (s.isMgmt t && i.mgmtBad)

/-- The two bytes of a halfword that a thread would fetch; 0 where the fetch faults. -/
def peekHalf (s : State) (t a : Nat) : Nat :=
  match (resolve s t .gl a 2 .fetch).2 with
  | .ok k => readNat s.mem.cells k 2
  | _ => 0

/-- INFO of the encoding cause: the first 32 bits at the entry's PC (Table 18-1). -/
def encodingInfo (s : State) (t a : Nat) : Word := wordOf (peekHalf s t a + 65536 * peekHalf s t (a + 2))

/-! ### Hints, program counter and clause -/

/-- The value that a last use leaves (R262). -/
def poisonValue : Word := 0x7FFC00007FC00001

/-- Registers that a hint names (DEDUCED, log 19). -/
def hinted (u : Uses) (h : Hint) : List Nat := (u.rd.filter fun r => r.1 == h).flatMap fun r => (List.range r.2.2).map (r.2.1 + ·)

/-- Registers written. -/
def written (u : Uses) : List Nat := u.wr.flatMap fun r => (List.range r.2).map (r.1 + ·)

/-- Writes the poison value to registers. -/
def poisonRegs (g : Vector Word 64) (l : List Nat) : Vector Word 64 := l.foldl (fun g n => vset g n poisonValue) g

end Sys2Proof.Machine

namespace Sys2Proof

/-- sel writes for every thread, whatever its guard (R258, R285). -/
def Instr.writesAlways : Instr → Bool
  | .sel _ => true
  | _ => false

end Sys2Proof

namespace Sys2Proof.Machine

/-- Registers that an instruction has written for a thread. -/
def wroteRegs (i : Instr) (act : Bool) : List Nat := if act || i.writesAlways then written i.uses else []

/-- Registers that take the poison value at once (R262): last uses that the instruction did not write. -/
def poisonNow (i : Instr) (act : Bool) : List Nat := (hinted i.uses .last).filter fun r => !(wroteRegs i act).contains r

/-- The registers whose poison waits for the end of the clause, after the instruction (R262). -/
def poisonLater (i : Instr) (act : Bool) (old : List Nat) : List Nat :=
  old.filter (fun r => !(wroteRegs i act).contains r) ++
    (hinted i.uses .lastEnd).filter fun r => !(wroteRegs i act).contains r && !(hinted i.uses .last).contains r

/-- The instruction is the last of the clause (R255). -/
def lastOfClause (g : Group) (c : Clause) (i : Instr) : Bool := i.transfer || decide (c.fin ≤ g.cursor + i.len)

/-- The clause in force after the instruction, for a thread that had `old` (R255, R262). -/
def clauseAfter (g : Group) (i : Instr) (act : Bool) : Option Clause → Option Clause
  | some c => if lastOfClause g c i then none else some { c with poison := poisonLater i act c.poison }
  | none => none

/-- Registers that the end of the clause poisons (R262). -/
def clausePoison (g : Group) (i : Instr) (act : Bool) : Option Clause → List Nat
  | some c => if lastOfClause g c i then poisonLater i act c.poison else []
  | none => []

/-- The registers whose poison waits for the end of the clause once a Blocked thread goes on. -/
def hintsHeld (i : Instr) (act : Bool) : Option Clause → List Nat
  | some c => poisonLater i act c.poison
  | none => []

/-- What the end of an instruction does to a thread that carried it: hints, program counter, clause, Ready time
(DEDUCED, log 21). -/
def finishThread (g : Group) (i : Instr) (act : Bool) (old : Option Clause) (goes : Goes) (now : Nat) (x : Thread) : Thread :=
  let regs := poisonRegs (poisonRegs x.g (poisonNow i act)) (clausePoison g i act old)
  match x.run, goes with
  | .ready, .next => { x with g := regs, pc := g.cursor + i.len, clause := clauseAfter g i act old, since := now + 1 }
  | .ready, .to a late => { x with g := regs, pc := a, clause := clauseAfter g i act old, since := now + 1 + b2n late }
  | .ready, .own => { x with g := regs }
  | .exited, _ => { x with g := regs }
  | .blocked _, _ => { x with pc := g.pc, hintNow := poisonNow i act, hintEnd := hintsHeld i act old }

/-- Changes some threads. -/
def State.mapThreads (s : State) (l : List Nat) (f : Nat → Thread → Thread) : State :=
  { s with threads := s.threads.map fun e => if l.contains e.1 then (e.1, f e.1 e.2) else e }

/-- The g registers that an instruction changes for a thread. -/
def changedRegs (g : Group) (i : Instr) (act : Bool) (old : Option Clause) : List Nat :=
  dedup (wroteRegs i act ++ poisonNow i act ++ clausePoison g i act old)

/-- The g registers that the hints of an instruction poison for a thread. -/
def hintedRegs (g : Group) (i : Instr) (act : Bool) (old : Option Clause) : List Nat := dedup (poisonNow i act ++ clausePoison g i act old)

/-- Logs what the threads of one gang that hold an unperformed access have written (R434); of one whose access the instruction
itself has left unperformed, what its hints poison, since rollback returns to before that access (R262, R435). -/
def logGang (i : Instr) (s0 s : State) (gid : Nat) (ths : List Nat) : State :=
  match ths with
  | [] => s
  | t0 :: _ =>
    let waits := (s.accs.filter fun e => (s.thread e.2.thread).gang == gid).map (·.1)
    let acts := ths.filter fun t => s0.guardOf t && !(s0.accsOf t).isEmpty
    let regs := dedup (ths.flatMap fun t =>
      (if (s0.accsOf t).isEmpty then hintedRegs else changedRegs) s0.grp i (s0.guardOf t) (s0.thread t).clause)
    let gs := regs.map fun r => Undo.mk s0.seq (.g r) (ths.map fun t => (t, s0.gr t r)) waits
    let ps := if acts.isEmpty then [] else i.uses.pw.map fun p => Undo.mk s0.seq (.p p) (acts.map fun t => (t, wordOf (b2n (s0.pr t p)))) waits
    let us := if acts.isEmpty then [] else i.uses.uw.map fun w => Undo.mk s0.seq (.w w) (acts.map fun t => (t, s0.ur t0 w)) waits
    let all := gs ++ ps ++ us
    if 16 < all.length then s else s.modGang gid fun g => { g with undo := g.undo ++ all }

/-- The undo log after an instruction; nothing where no access is unperformed (R434). -/
def logUndo (i : Instr) (s0 s : State) (good : List Nat) : State :=
  if s0.accs.isEmpty && s.accs.isEmpty then s else
  let ths := good.filter fun t => !((s0.accsOf t).isEmpty && (s.accsOf t).isEmpty)
  (gangsOf s0 ths).foldl (fun st g => logGang i s0 st g (inGang s0 g ths)) s

/-! ### Exceptions -/

/-- Taking exceptions: every fault of an instruction becomes an entry of its gang's queue and is delivered as the spec
gives (R423 to R433). -/
def takeExceptions (s : State) (fs : List Fx) (pc after seq : Nat) : State := if fs.isEmpty then s else raise s fs pc after seq

/-- Ends the instruction for the group (R255, R262), and takes the exceptions it raised. A thread that the effect has sent into
a handler stays there. -/
def finish (i : Instr) (s0 : State) (o : Out) (goes : State → Nat → Goes) : State :=
  let gone := o.fx.map (·.thread) ++ o.stay
  let good := s0.grp.threads.filter fun t => !gone.contains t
  let s1 := logUndo i s0 o.s good
  let s2 := s1.mapThreads good fun t x =>
    if (s0.thread t).entered.length < x.entered.length then x
    else finishThread s0.grp i (s0.guardOf t) (s0.thread t).clause (goes o.s t) (s0.nowOf t) x
  let s3 := s2.mapThreads o.stay fun t x => { x with since := s0.nowOf t + 1 }
  takeExceptions { s3 with grp := Group.empty } o.fx s0.grp.pc (s0.grp.cursor + i.len) s0.seq

/-- The start of an instruction: its place in issue order, and for each thread the halfword that follows. -/
def startIssue (i : Instr) (s : State) : State :=
  let s1 := { s with sched := { s.sched with order := s.sched.order + 1 } }
  s1.mapThreads s.grp.threads fun _ x => { x with after := s.grp.cursor + i.len }

/-- Carries an instruction: the encoding cause for the threads that it arises for (R502, R503), the effect for the others
with a true guard, and the end. -/
def issueTo (i : Instr) (eff : State → List Nat → Out) (goes : State → Nat → Goes) (s : State) : State :=
  let s0 := startIssue i s
  let bad := s0.grp.threads.filter (encodingBad s0 i)
  let o := eff s0 (s0.active.filter fun t => !bad.contains t)
  finish i s0 { o with fx := (bad.map fun t => ⟨t, cEncoding, encodingInfo s0 t s0.grp.pc⟩) ++ o.fx } goes

/-- Carries an instruction after which every thread goes on to the next halfword. -/
def issue (i : Instr) (eff : State → List Nat → Out) (s : State) : State := issueTo i eff (fun _ _ => .next) s

/-- A thread after an instruction that wrote the registers `wrote`, with their values, besides those that its encoding names, and did
not write `kept`, which the encoding names: results stand, and poison that waits for the clause's end still comes (R262). -/
def Thread.rehint (old : Option Clause) (wrote : List (Nat × Word)) (kept : List Nat) (x : Thread) : Thread :=
  let owed := ((old.map (·.poison)).getD []).filter kept.contains
  let regs := wrote.foldl (fun g p => vset g p.1 p.2) x.g
  match x.run, x.clause with
  | .blocked _, _ => x
  | _, .some c => { x with g := regs, hintEnd := [], clause := .some { c with poison := (c.poison ++ owed).filter fun r => !(wrote.any fun p => p.1 == r) } }
  | _, .none => { x with g := poisonRegs regs owed, hintEnd := [] }

/-- Carries an instruction whose encoding does not tell which registers it writes: `fix` says, of the states before and after the
effect, which a thread wrote besides and which it did not write. -/
def issueFix (i : Instr) (eff : State → List Nat → Out) (goes : State → Nat → Goes) (fix : State → State → Nat → List Nat × List Nat)
    (s : State) : State :=
  let s0 := startIssue i s
  let o := eff s0 (s0.active.filter fun t => !(encodingBad s0 i t))
  let gone := o.fx.map (·.thread) ++ o.stay
  (issueTo i eff goes s).mapThreads (s0.active.filter fun t => !(encodingBad s0 i t) && !(gone.contains t)) fun t x =>
    x.rehint (s0.thread t).clause ((fix s0 o.s t).1.map fun r => (r, o.s.gr t r)) (fix s0 o.s t).2

/-- An instruction with a per-thread effect. -/
def laneOp (i : Instr) (body : State → Nat → Act) (s : State) : Host.Outcome State Fault Refusal :=
  .next (issue i (runThreads body) s)

/-- An instruction that writes one g register of each thread with a true guard. -/
def regOp (i : Instr) (d : Reg) (f : State → Nat → Word) (s : State) : Host.Outcome State Fault Refusal :=
  laneOp i (fun s t => .done (s.setG t d.val (f s t))) s

/-- An instruction that writes one predicate of each thread with a true guard. -/
def predOp (i : Instr) (d : Pred) (f : State → Nat → Bool) (s : State) : Host.Outcome State Fault Refusal :=
  laneOp i (fun s t => .done (s.setP t d.val (f s t))) s

/-- A gang-wide instruction. -/
def gangOp (i : Instr) (body : State → Nat → List Nat → Out) (s : State) : Host.Outcome State Fault Refusal :=
  .next (issue i (runGangs body) s)

/-! ### Units (R13, R249) -/

/-- A cluster is ready. -/
def clusterUp (s : State) (cl : Nat) : Bool := bit (nth s.mgmt.ready 1 0) (32 + cl)

/-- A core is ready: its cluster is, and the start did not exclude it. -/
def coreReady (s : State) (c : Nat) : Bool := decide (c < 288) && clusterUp s (c / 16) && !bit (nth s.mgmt.coreX (c / 16) 0) (c % 16)

/-- The ready geometry engines, in ascending number: four behind each geometry node (Table 10-1). -/
def readyGeoms (m : Mgmt) : List Nat := (List.range 8).filter fun e => bit (nth m.ready 2 0) (21 + e / 4) && !bit m.unitX (8 + e)

/-! ### Blocking and going on -/

/-- Blocks a thread (Table 2-5). -/
def block (s : State) (t : Nat) (w : Why) : State := s.modThread t fun x => { x with run := .blocked w }

/-- A thread that goes on after the instruction that it was Blocked at. -/
def Thread.goOn (x : Thread) (now : Nat) : Thread :=
  let stays := match x.clause with
    | .some c => c.holds x.after
    | .none => false
  { x with run := .ready, pc := x.after, since := now, hintNow := [], hintEnd := [],
           g := poisonRegs (poisonRegs x.g x.hintNow) (if stays then [] else x.hintEnd),
           clause := match x.clause with
             | .some c => if stays then .some { c with poison := x.hintEnd } else .none
             | .none => .none }

/-- Ends what a thread was Blocked at. -/
def resume (s : State) (t : Nat) : State := s.modThread t fun x => x.goOn (s.nowOf t)

end Sys2Proof.Machine
end

