-- ==== Sys2Proof/Machine/Items.lean ====
section
/-! DEFINITION. Fragment work items: who takes part in one, and when it retires (spec 07 R169, spec 15 R379, R380). -/

namespace Sys2Proof.Machine

/-- Changes an item of a frame. -/
def modItem (s : State) (fr id : Nat) (f : WorkItem → WorkItem) : State :=
  s.modFrame fr fun x => { x with items := x.items.map fun i => if i.id = id then f i else i }

/-- An item of a frame. -/
def itemAt (s : State) (fr id : Nat) : Option WorkItem := (s.frames.get? fr).bind fun x => x.items.find? fun i => i.id == id

/-- Retires an item; its gang has no current item any more. -/
def retireItem (s : State) (fr id : Nat) : State :=
  match itemAt s fr id with
  | none => s
  | some w =>
    let s1 := modItem s fr id fun i => { i with retired := true }
    match w.gang with
    | some g => s1.modGang g fun x => if x.item = some ⟨fr, id⟩ then { x with item := none } else x
    | none => s1

/-- A thread takes part in an item. -/
def joinItem (s : State) (fr id t : Nat) : State :=
  modItem s fr id fun i => if i.part.contains t then i else { i with part := i.part ++ [t] }

/-- Every thread that took part in an item is through with it, or every one of them that its gang still holds is (R169, R380). -/
def itemThrough (s : State) (w : WorkItem) : Bool :=
  let own := w.part.filter fun p => some (s.thread p).gang == w.gang
  w.part.all w.through.contains || (!own.isEmpty && own.all w.through.contains)

/-- Retires an item that every thread is through with. -/
def settleItem (s : State) (fr id : Nat) : State :=
  match itemAt s fr id with
  | some w => if !w.retired && !w.part.isEmpty && itemThrough s w then retireItem s fr id else s
  | none => s

/-- The items that a thread took part in and that have not retired: frame and item. -/
def itemsOf (s : State) (t : Nat) : List (Nat × Nat) :=
  s.frames.flatMap fun e => (e.2.items.filter fun w => !w.retired && w.part.contains t).map fun w => (e.1, w.id)

/-- A thread is through with the items that it took part in, whichever gang the carder has moved it to: it has discarded or
exited (R169, R380). -/
def leaveItem (s : State) (t : Nat) : State :=
  (itemsOf s t).foldl (fun st i => settleItem (modItem st i.1 i.2 fun w =>
    { w with through := if w.through.contains t then w.through else t :: w.through }) i.1 i.2) s

/-- Tests the current item of a gang again, once the carder has moved threads (R380). -/
def retestItem (s : State) (g : Nat) : State :=
  match (s.gang g).item with
  | some it => settleItem s it.frame it.item
  | none => s

/-- The number of a tile in the order of R168: view, then ty, then tx. -/
def tileNumber (wt ht v ty tx : Nat) : Nat := (v * ht + ty) * wt + tx

/-- Tiles across and down of a frame (Table 7-3). -/
def Frame.wt (f : Frame) : Nat := byteField f.block 40 1
def Frame.ht (f : Frame) : Nat := byteField f.block 41 1

/-- The item that a fragment work entry names. -/
def entryItem (f : Frame) (e : List Byte) : Option WorkItem :=
  let tile := tileNumber f.wt f.ht (byteField e 4 1 % 16) (byteField e 2 2) (byteField e 0 2)
  f.items.find? fun i => i.tile == tile && i.order == byteField e 24 4

/-- A thread of a gang has popped a fragment work entry: it becomes the gang's current item, and the item before it retires
(R379). -/
def takeEntry (s : State) (inst t : Nat) (e : List Byte) : State :=
  match (s.insts.get? inst).bind (·.frame) with
  | none => s
  | some fr =>
    match s.frames.get? fr with
    | none => s
    | some f =>
      match entryItem f e with
      | none => s
      | some w =>
        let gid := (s.thread t).gang
        let s1 := match (s.gang gid).item with
          | some it => retireItem s it.frame it.item
          | none => s
        let s2 := modItem s1 fr w.id fun i => { i with gang := some gid }
        joinItem (s2.modGang gid fun g => { g with item := some ⟨fr, w.id⟩ }) fr w.id t

end Sys2Proof.Machine
end

