-- ==== Sys2Proof/Machine/Joins.lean ====
section
/-! DEFINITION. Join registers (spec 02 R38 to R41), the signatures recorded on them (R42, spec 14 R361), team barriers
(spec 13 R319, spec 06 R156), the end of a thread (spec 12 R294) and the fall of completion flags (spec 11 R256). -/

namespace Sys2Proof.Machine

/-! ### Barriers -/

/-- A thread is Blocked at a team barrier. -/
def Thread.atBar (x : Thread) : Bool :=
  match x.run with
  | .blocked (.bar _) => true
  | _ => false

/-- Cuts a list into pieces of n, the fuel being its length. -/
def chunksOf (n : Nat) (l : List Nat) : Nat → List (List Nat)
  | 0 => []
  | fuel + 1 => if l.isEmpty then [] else l.take n :: chunksOf n (l.drop n) fuel

/-- The waves of an open barrier (R156): the first in the next front cycle, each later one GAP cycles after. -/
def wavesOf (c : Cluster) (now : Nat) (gangs : List Nat) : List (Nat × List Nat) :=
  let gap := if c.gap = 0 then 1 else c.gap
  let parts := if c.wave = 0 then [gangs] else chunksOf c.wave gangs gangs.length
  (List.range parts.length).map fun i => (now + 1 + (if c.wave = 0 then 0 else i * gap), nth parts i [])

/-- Opens the team's barrier when every thread that has not Exited is Blocked at it (R319). -/
def tryOpenBar (s : State) (team : Nat) : State :=
  match s.teams.get? team with
  | none => s
  | some t =>
    let live := (teamThreads s team).filter fun th => !((s.thread th).run == .exited)
    if live.isEmpty || !t.waves.isEmpty || !(live.all fun th => (s.thread th).atBar) then s
    else
      let core := (t.cores.head?).getD 0
      let gs := sortBy (fun (a b : Nat) =>
        let x := t.arrivals.getD a 0
        let y := t.arrivals.getD b 0
        decide (x < y) || (x == y && decide ((s.gang a).num < (s.gang b).num))) (t.gangs.filter fun g => (threadsOf (s.gang g)).any live.contains)
      (s.modTeam team fun t => { t with waves := wavesOf (s.cluster (core / 16)) (s.nowAt core) gs, arrivals := [] }).push [.barrierWave]

/-! ### Repacks wait for everything else to block (R43) -/

/-- Some thread of the team is Blocked at CARD. -/
def hasCards (s : State) (team : Nat) : Bool :=
  (teamThreads s team).any fun t => match (s.thread t).run with
    | .blocked (.card _) => true
    | _ => false

/-- Has the carder look at a team whose threads have blocked or ended. -/
def notifyCarder (s : State) (team : Nat) : State := if hasCards s team then s.push [.repack] else s

/-! ### The end of a thread -/

/-- What follows a thread's end for its team (R39, R48, R294): the caller has settled its joins. The management core's
team, number 0, completes never. -/
def afterExit (s : State) (team : Nat) : State := if team = 0 then s else tryCompleteTeam (notifyCarder (tryOpenBar s team) team) team

/-! ### Join registers -/

def Join.idle : Join := ⟨.idle, 0, 0, []⟩

def joinOf (s : State) (gid n : Nat) : Join := nth (s.gang gid).joins n .idle

def setJoin (s : State) (gid n : Nat) (j : Join) : State := s.modGang gid fun g => { g with joins := g.joins.set n j }

/-- Positions of the expected set that have not arrived (R38). -/
def Join.pending (j : Join) : List Nat := (bitList j.expected 64).filter fun p => !bit j.arrived p

/-- A thread waits at a jwait, on any join. -/
def Thread.atJwait (x : Thread) : Bool :=
  match x.run with
  | .blocked (.join _ _) => true
  | _ => false

/-- Releases the threads Blocked on a join with a status (R38) (DEDUCED, log 35). -/
def releaseJoin (s : State) (gid n : Nat) (status : Bool) : State :=
  (threadsOf (s.gang gid)).foldl (fun st t =>
    match (st.thread t).run with
    | .blocked (.join m pd) => if m = n then resume (st.setP t pd status) t else st
    | _ => st) s

/-- Lets a thread end when it is Blocked at its exit and its flags are zero (R294). -/
def tryExit (s : State) (t : Nat) : State :=
  let x := s.thread t
  if x.run = .blocked .exiting ∧ x.flagsClear then leaveItem (s.modThread t fun x => { x with run := .exited }) t else s

/-- Takes 1 from a thread's flag; none when the operation was uncounted (R256). -/
def decSig (s : State) (g : Sig) : State := if g.flag < 12 then tryExit (s.decFlag g.thread g.flag) g.thread else s

/-- Discards the signatures of a join: each signer's count falls, and each is named in one entry whose PC is the mma of the
signer at the lowest position, where they go on in its clause (R42, R361, R444). A signer that is named already has the entry held for it (R425). -/
def dropSigs (s : State) (sigs : List Sig) (cause : Nat) (info : Word) : State :=
  match leastBy (fun (a b : Sig) => decide (a.pos < b.pos)) sigs with
  | none => s
  | some low =>
    let (seq, s1) := s.nextOrder
    let free := sigs.filter fun g => !isNamed s1 g.thread && !((s1.thread g.thread).run == .exited)
    let busy := sigs.filter fun g => isNamed s1 g.thread
    let s0 := s1.mapThreads (free.map (·.thread)) fun _ x => { x with pc := low.pc, clause := low.clause }
    let s2 := takeExceptions s0 (free.map fun g => ⟨g.thread, cause, info⟩) low.pc (low.pc + 4) seq
    let s3 := busy.foldl (fun st g => raiseAsync st seq g.thread cause info [] (some (low.pc, low.clause))) s2
    sigs.foldl decSig s3

/-- INFO of the join-lost cause (Table 18-1). -/
def joinLostInfo (n : Nat) (sigs : List Sig) : Word := wordOf (n + ((sigs.head?.map (·.fmt)).getD 0) * 2 ^ 8)

/-! ### The matrix operation of a completed join (R358, R361) -/

/-- Bytes of a row of A (Table 14-2). -/
def rowBytes (fmt : Nat) (sp8 : Bool) : Nat :=
  let el := fmt % 16
  let dense := if el = 0 then 128 else if el = 1 ∨ el = 2 ∨ el = 12 then 64 else if el = 7 ∨ el = 10 ∨ el = 11 then 16 else 32
  if fmt < 16 then dense else if el = 5 ∨ el = 6 then 16 else if sp8 then dense / 4 else dense / 2

/-- Rows of an A tile of c chunks. -/
def rowCount (fmt : Nat) (sp8 : Bool) (c : Nat) : Nat := (if fmt < 16 then c else c - 1) * 512 / rowBytes fmt sp8

/-- Majors 0x6C and 0x6D are the 8-of-32 forms. -/
def isSp8 (major : Nat) : Bool := decide (0x6C ≤ major)

/-- The first rule of R358 that an operation breaks, by the detail of Table 20-1. -/
def shapeDetail (fmt major c d w : Nat) (same : Bool) : Option Nat :=
  let m := rowCount fmt (isSp8 major) c
  if d < ceilDiv (m * w) 128 then some 1 else if same then some 2 else if 128 < m then some 3
  else if 16 ≤ fmt ∧ c < 2 then some 4 else none

/-- INFO of an operand-format entry of a tile or matrix instruction (R465). -/
def kindInfo (kind detail : Nat) : Word := wordOf (kind * 2 ^ 60 + detail % 2 ^ 32)

/-- The matrix queue of a core (R363) (DEDUCED, log 37). -/
def matrixFull (s : State) (core : Nat) : Bool := decide (8 ≤ (s.core core).matq.length)

/-- A completed join with signatures becomes an operation of the core's matrix queue, or fails as R361 says. -/
def resolveMma (s : State) (gid : Nat) (sigs : List Sig) : State :=
  match sigs with
  | [] => s
  | f :: _ =>
    let g := s.gang gid
    match vget g.h f.ta none, vget g.h f.td none with
    | none, _ => dropSigs s sigs cStale (wordOf f.ta)
    | _, none => dropSigs s sigs cStale (wordOf f.td)
    | some ta, some td =>
      let c := ((s.tiles.get? ta).map (·.chunks.length)).getD 0
      let d := ((s.tiles.get? td).map (·.chunks.length)).getD 0
      match shapeDetail f.fmt f.major c d g.width (ta == td) with
      | some k => dropSigs s sigs cOperand (kindInfo 3 k)
      | none =>
        let core := s.core g.core
        let (id, s1) := s.fresh
        let (seq, s2) := s1.nextOrder
        let op : Op := { job := .mma f.fmt f.major ta td g.width gid sigs core.bypass,
                         ctx := (s.grid (s.team g.team).grid).ctx, core := g.core,
                         decs := sigs.filterMap fun x => if x.flag < 12 then some (x.thread, x.flag) else none,
                         issuer := some f.thread, parts := sigs.map (·.thread), qid := none, slot := 0, cpl := 0,
                         reads := [ta], writes := [td], seq := seq }
        (s2.setOp id op).modCore g.core fun c => { c with matq := c.matq ++ [id], bypass := none }

/-- A join with nothing pending becomes Complete: waiters go on with status 1, and its signatures are issued (R38, R361). -/
def completeJoin (s : State) (gid n : Nat) : State :=
  let j := joinOf s gid n
  resolveMma (releaseJoin (setJoin s gid n { j with st := .complete, sigs := [] }) gid n true) gid j.sigs

/-- Every pending position is vacant, or its thread has Exited or waits at a jwait; the threads of a team that is not resident are
Suspended, and what holds of them is tested when the team is resident again (R39, R55). -/
def abandonedBy (s : State) (g : Gang) (j : Join) : Bool :=
  (s.team g.team).res == .resident && j.pending.all fun p => match nth g.at_ p none with
    | none => true
    | some t => (s.thread t).run == .exited || (s.thread t).atJwait

/-- What an event makes of a join: completion is tested before abandonment (R39, R40). -/
def verdict (s : State) (gid n : Nat) : JState :=
  let j := joinOf s gid n
  if j.st = .opened then
    if j.pending.isEmpty then .complete else if abandonedBy s (s.gang gid) j then .abandoned else .opened
  else j.st

/-- Has an Open join take up what an event makes of it. -/
def applyVerdict (s : State) (gid n : Nat) (v : JState) : State :=
  let j := joinOf s gid n
  if j.st != .opened then s else
  match v with
  | .complete => completeJoin s gid n
  | .abandoned =>
    let s1 := releaseJoin (setJoin s gid n { j with st := .abandoned, sigs := [] }) gid n false
    dropSigs s1 j.sigs cJoin (joinLostInfo n j.sigs)
  | _ => s

/-- Tests an Open join: completion first, then abandonment (R39, R40). -/
def settleJoin (s : State) (gid n : Nat) : State := applyVerdict s gid n (verdict s gid n)

/-- Tests every join of a gang: each is judged by the state that the event has left, so one event abandons every join that meets
R39, in ascending number (DESIGN CHOICE, log 59). -/
def settleJoins (s : State) (gid : Nat) : State :=
  ((List.range (s.gang gid).jcount).map fun n => (n, verdict s gid n)).foldl (fun st p => applyVerdict st gid p.1 p.2) s

/-- Records arrivals of positions on a join (R38, R297). -/
def arrive (s : State) (gid n : Nat) (ps : List Nat) : State :=
  let j := joinOf s gid n
  if j.st != .opened then s
  else setJoin s gid n { j with arrived := maskOf (bitList j.arrived 64 ++ ps.filter fun p => j.pending.contains p) }

/-- Declares a join's expected mask (R38, R296); signatures of an earlier declaration are discarded (R361). -/
def declareJoin (s : State) (gid n m : Nat) : State :=
  let j := joinOf s gid n
  let g := s.gang gid
  let e := maskOf ((bitList m g.width).filter fun p => (nth g.at_ p none).isSome)
  let s1 := setJoin s gid n ⟨if e = 0 then .complete else .opened, e, 0, []⟩
  let s2 := if e = 0 then releaseJoin s1 gid n true else s1
  settleJoin (dropSigs s2 j.sigs cJoin (joinLostInfo n j.sigs)) gid n

/-! ### Exit (R294) -/

/-- A thread of an inference batch's team has ended in a handler: its request's outputs count as unwritten (R481). -/
def noteBatch (s : State) (t : Nat) : State :=
  match (s.teamOf t).role with
  | .batch cl b => s.modCluster cl fun c => { c with infBatches := c.infBatches.map fun x =>
      if x.id = b then { x with failed := (s.thread t).tid :: x.failed } else x }
  | _ => s

/-- Ends a thread's issue: its region closes and its query ends with no insertion, and it waits for its flags. A thread in
a handler leaves the delivery (R431). -/
def exitThread (s : State) (t : Nat) : State :=
  let s1 := closeRegion (endQuery s t) t
  let inHandler := !(s1.thread t).entered.isEmpty
  let s2 := s1.modThread t fun x => { x with entered := [], run := .blocked .exiting }
  let s3 := tryExit (if inHandler then noteBatch s2 t else s2) t
  if inHandler then leaveAll s3 (s.thread t).gang t else s3

/-- What follows for the gangs and teams of threads that have ended. -/
def settleExits (s : State) (gids : List Nat) : State :=
  let s1 := gids.foldl settleJoins s
  (dedup (gids.map fun g => (s.gang g).team)).foldl afterExit s1

/-- Takes counts off flags at the completion of an operation, and ends the threads that waited for them (R256, R294). -/
def decFlags (s : State) (l : List (Nat × Nat)) : State :=
  let s1 := l.foldl (fun st d => tryExit (st.decFlag d.1 d.2) d.1) s
  let ended := (l.map (·.1)).filter fun t => (s1.thread t).run == .exited
  if ended.isEmpty then s1 else settleExits s1 (gangsOf s1 ended)

end Sys2Proof.Machine
end

