-- ==== Sys2Proof/Machine/LaneInt.lean ====
section
/-! DEFINITION. Integer and bit operations (spec 12 R276 to R279, R285): one function on elements per operation, and
one meaning per instruction. -/

namespace Sys2Proof.Machine

/-! ### Results for one element of n bits (Table 12-1) -/

def elAdd (n a b _d : Nat) : Nat := (a + b) % 2 ^ n
def elSub (n a b _d : Nat) : Nat := (a + 2 ^ n - b) % 2 ^ n
def elMul (n a b _d : Nat) : Nat := a * b % 2 ^ n
def elMulhiS (n a b _d : Nat) : Nat := wrapInt n (sextNat n a * sextNat n b / (2 ^ n : Nat))
def elMulhiN (n a b _d : Nat) : Nat := a * b / 2 ^ n
def elAddsatS (n a b _d : Nat) : Nat := wrapInt n (satInt true n (sextNat n a + sextNat n b))
def elAddsatN (n a b _d : Nat) : Nat := min (a + b) (2 ^ n - 1)
def elSubsatS (n a b _d : Nat) : Nat := wrapInt n (satInt true n (sextNat n a - sextNat n b))
def elSubsatN (_n a b _d : Nat) : Nat := a - b
def elMinS (n a b _d : Nat) : Nat := if sextNat n b < sextNat n a then b else a
def elMinN (_n a b _d : Nat) : Nat := min a b
def elMaxS (n a b _d : Nat) : Nat := if sextNat n a < sextNat n b then b else a
def elMaxN (_n a b _d : Nat) : Nat := max a b
def elAnd (_n a b _d : Nat) : Nat := Nat.land a b
def elOr (_n a b _d : Nat) : Nat := Nat.lor a b
def elXor (_n a b _d : Nat) : Nat := Nat.xor a b
def elAndn (n a b _d : Nat) : Nat := Nat.land a (2 ^ n - 1 - b)
def elShl (n a b _d : Nat) : Nat := if b < n then a * 2 ^ b % 2 ^ n else 0
def elShr (n a b _d : Nat) : Nat := if b < n then a / 2 ^ b else 0
def elSar (n a b _d : Nat) : Nat := wrapInt n (sextNat n a / (2 ^ min b (n - 1) : Nat))
def elRotl (n a b _d : Nat) : Nat := (a * 2 ^ (b % n) + a / 2 ^ (n - b % n)) % 2 ^ n
/-- Offset and length of a bit field (R277). -/
def fieldOf (n b : Nat) : Nat × Nat := let k := Nat.log2 n; let o := b % 2 ^ k; (o, min (bits b (2 * k) k) (n - o))
def elBfeN (n a b _d : Nat) : Nat := a / 2 ^ (fieldOf n b).1 % 2 ^ (fieldOf n b).2
def elBfeS (n a b d : Nat) : Nat := if (fieldOf n b).2 = 0 then 0 else wrapInt n (sextNat (fieldOf n b).2 (elBfeN n a b d))
def elBfi (n a b d : Nat) : Nat :=
  let o := (fieldOf n b).1
  let l := (fieldOf n b).2
  d % 2 ^ o + a % 2 ^ l * 2 ^ o + d / 2 ^ (o + l) * 2 ^ (o + l)
def elMadd (n a b d : Nat) : Nat := (a * b + d) % 2 ^ n

/-- Population count, leading zeros, trailing zeros and bit reversal (R278). -/
def elPopc (n a : Nat) : Nat := popCount a n
def elClz (n a : Nat) : Nat := if a = 0 then n else n - 1 - Nat.log2 a
def elCtz (n a : Nat) : Nat := ((bitList a n).head?).getD n
def elBrev (n a : Nat) : Nat := maskOf ((bitList a n).map fun i => n - 1 - i)

/-! ### Shapes -/

/-- An element-wise instruction of format A (R274, R276). -/
def intOp (i : Instr) (o : Op3) (f : Nat → Nat → Nat → Nat → Nat) (s : State) : Host.Outcome State Fault Refusal :=
  regOp i o.d (fun s t => map3 o.wid.size (f o.wid.size) (s.gr t o.a.val) (s.gr t o.b.val) (s.gr t o.d.val)) s

/-- An element-wise instruction of one operand (R278). -/
def intOp1 (i : Instr) (o : Op2W) (f : Nat → Nat → Nat) (s : State) : Host.Outcome State Fault Refusal :=
  regOp i o.d (fun s t => map1 o.wid.size (f o.wid.size) (s.gr t o.a.val)) s

/-- A shift by an immediate count (R279). -/
def shiftOp (i : Instr) (o : OpSh) (f : Nat → Nat → Nat → Nat → Nat) (s : State) : Host.Outcome State Fault Refusal :=
  regOp i o.d (fun s t => map1 o.wid.size (fun a => f o.wid.size a o.cnt.val 0) (s.gr t o.a.val)) s

/-- Replaces quarter q of a word (R279). -/
def putQuarter (x : Word) (q : Nat) (imm : BitVec 16) : Word :=
  wordOf (x.toNat % 2 ^ (16 * q) + imm.toNat * 2 ^ (16 * q) + x.toNat / 2 ^ (16 * q + 16) * 2 ^ (16 * q + 16))

/-! ### Meanings -/

/-- `add` (Table 12-1). -/
def execAdd (o : Op3) (s : State) : Host.Outcome State Fault Refusal := intOp (.add o) o elAdd s
/-- `sub` (Table 12-1). -/
def execSub (o : Op3) (s : State) : Host.Outcome State Fault Refusal := intOp (.sub o) o elSub s
/-- `mul` (Table 12-1). -/
def execMul (o : Op3) (s : State) : Host.Outcome State Fault Refusal := intOp (.mul o) o elMul s
/-- `mulhiS` (Table 12-1). -/
def execMulhiS (o : Op3) (s : State) : Host.Outcome State Fault Refusal := intOp (.mulhiS o) o elMulhiS s
/-- `mulhiN` (Table 12-1). -/
def execMulhiN (o : Op3) (s : State) : Host.Outcome State Fault Refusal := intOp (.mulhiN o) o elMulhiN s
/-- `addsatS` (Table 12-1). -/
def execAddsatS (o : Op3) (s : State) : Host.Outcome State Fault Refusal := intOp (.addsatS o) o elAddsatS s
/-- `addsatN` (Table 12-1). -/
def execAddsatN (o : Op3) (s : State) : Host.Outcome State Fault Refusal := intOp (.addsatN o) o elAddsatN s
/-- `subsatS` (Table 12-1). -/
def execSubsatS (o : Op3) (s : State) : Host.Outcome State Fault Refusal := intOp (.subsatS o) o elSubsatS s
/-- `subsatN` (Table 12-1). -/
def execSubsatN (o : Op3) (s : State) : Host.Outcome State Fault Refusal := intOp (.subsatN o) o elSubsatN s
/-- `minS` (Table 12-1). -/
def execMinS (o : Op3) (s : State) : Host.Outcome State Fault Refusal := intOp (.minS o) o elMinS s
/-- `minN` (Table 12-1). -/
def execMinN (o : Op3) (s : State) : Host.Outcome State Fault Refusal := intOp (.minN o) o elMinN s
/-- `maxS` (Table 12-1). -/
def execMaxS (o : Op3) (s : State) : Host.Outcome State Fault Refusal := intOp (.maxS o) o elMaxS s
/-- `maxN` (Table 12-1). -/
def execMaxN (o : Op3) (s : State) : Host.Outcome State Fault Refusal := intOp (.maxN o) o elMaxN s
/-- `andOp` (Table 12-1). -/
def execAndOp (o : Op3) (s : State) : Host.Outcome State Fault Refusal := intOp (.andOp o) o elAnd s
/-- `orOp` (Table 12-1). -/
def execOrOp (o : Op3) (s : State) : Host.Outcome State Fault Refusal := intOp (.orOp o) o elOr s
/-- `xor` (Table 12-1). -/
def execXor (o : Op3) (s : State) : Host.Outcome State Fault Refusal := intOp (.xor o) o elXor s
/-- `andn` (Table 12-1). -/
def execAndn (o : Op3) (s : State) : Host.Outcome State Fault Refusal := intOp (.andn o) o elAndn s
/-- `shl` (Table 12-1). -/
def execShl (o : Op3) (s : State) : Host.Outcome State Fault Refusal := intOp (.shl o) o elShl s
/-- `shr` (Table 12-1). -/
def execShr (o : Op3) (s : State) : Host.Outcome State Fault Refusal := intOp (.shr o) o elShr s
/-- `sar` (Table 12-1). -/
def execSar (o : Op3) (s : State) : Host.Outcome State Fault Refusal := intOp (.sar o) o elSar s
/-- `rotl` (Table 12-1). -/
def execRotl (o : Op3) (s : State) : Host.Outcome State Fault Refusal := intOp (.rotl o) o elRotl s
/-- `bfeS` (Table 12-1). -/
def execBfeS (o : Op3) (s : State) : Host.Outcome State Fault Refusal := intOp (.bfeS o) o elBfeS s
/-- `bfeN` (Table 12-1). -/
def execBfeN (o : Op3) (s : State) : Host.Outcome State Fault Refusal := intOp (.bfeN o) o elBfeN s
/-- `bfi` (Table 12-1). -/
def execBfi (o : Op3) (s : State) : Host.Outcome State Fault Refusal := intOp (.bfi o) o elBfi s
/-- `madd` (Table 12-1). -/
def execMadd (o : Op3) (s : State) : Host.Outcome State Fault Refusal := intOp (.madd o) o elMadd s
/-- `sel` (R285): every thread of the group writes A or B by its guard. -/
def execSel (o : Op3X) (s : State) : Host.Outcome State Fault Refusal :=
  .next (issue (.sel o) (fun s _ => runThreads (fun s t =>
    .done (s.setG t o.d.val (if s.guardOf t then s.gr t o.a.val else s.gr t o.b.val))) s
      (s.grp.threads.filter fun t => !encodingBad s (.sel o) t)) s)
/-- `popc` (R278). -/
def execPopc (o : Op2W) (s : State) : Host.Outcome State Fault Refusal := intOp1 (.popc o) o elPopc s
/-- `clz` (R278). -/
def execClz (o : Op2W) (s : State) : Host.Outcome State Fault Refusal := intOp1 (.clz o) o elClz s
/-- `ctz` (R278). -/
def execCtz (o : Op2W) (s : State) : Host.Outcome State Fault Refusal := intOp1 (.ctz o) o elCtz s
/-- `brev` (R278). -/
def execBrev (o : Op2W) (s : State) : Host.Outcome State Fault Refusal := intOp1 (.brev o) o elBrev s
/-- `add` with an immediate (R279). -/
def execAddImm (o : OpI) (s : State) : Host.Outcome State Fault Refusal :=
  regOp (.addImm o) o.d (fun s t => s.gr t o.a.val + immWord o.imm) s
/-- `and` with an immediate (R279). -/
def execAndImm (o : OpI) (s : State) : Host.Outcome State Fault Refusal :=
  regOp (.andImm o) o.d (fun s t => s.gr t o.a.val &&& immWord o.imm) s
/-- `shl` with an immediate count (R279). -/
def execShlImm (o : OpSh) (s : State) : Host.Outcome State Fault Refusal := shiftOp (.shlImm o) o elShl s
/-- `shr` with an immediate count (R279). -/
def execShrImm (o : OpSh) (s : State) : Host.Outcome State Fault Refusal := shiftOp (.shrImm o) o elShr s
/-- `sar` with an immediate count (R279). -/
def execSarImm (o : OpSh) (s : State) : Host.Outcome State Fault Refusal := shiftOp (.sarImm o) o elSar s
/-- `rotl` with an immediate count (R279). -/
def execRotlImm (o : OpSh) (s : State) : Host.Outcome State Fault Refusal := shiftOp (.rotlImm o) o elRotl s
/-- `movz` (R279). -/
def execMovz (o : OpL) (s : State) : Host.Outcome State Fault Refusal :=
  regOp (.movz o) o.d (fun _ _ => wordOf (o.imm.toNat * 2 ^ (16 * o.q.val))) s
/-- `movk` (R279). -/
def execMovk (o : OpL) (s : State) : Host.Outcome State Fault Refusal :=
  regOp (.movk o) o.d (fun s t => putQuarter (s.gr t o.d.val) o.q.val o.imm) s

end Sys2Proof.Machine
end

