-- ==== Sys2Proof/Machine/LoadStore.lean ====
section
/-! DEFINITION. Addresses, loads, stores and the realigning load (spec 13 R309 to R314), performed at their issue or left
unperformed behind other accesses (spec 04 R89 to R96), consuming loads and fill stores (spec 03 R67, R68), and pref. -/

namespace Sys2Proof.Machine

/-- EA of formats M and N: the offset is scaled by the access size (R309). -/
def effAddr (a : Word) (off : Int) (z : Nat) : Nat := wrapInt 64 ((a.toNat : Int) + off * z)

/-! ### Keys of accesses -/

/-- Bytes of an access. -/
def AccKind.size : AccKind → Nat
  | .load z _ _ => z
  | .ldq _ => 16
  | .ldrl _ _ => 48
  | .store z _ _ => z
  | .hold => 0

def AccKind.isStore : AccKind → Bool
  | .store _ _ _ => true
  | _ => false

/-- The key that a thread's bytes have now, changing nothing; none where the address does not resolve. -/
def keyNow (s : State) (t : Nat) (sp : Space) (a n : Nat) : Option Nat :=
  match (resolve s t sp a n .load).2 with
  | .ok k => some k
  | _ => none

/-- An unperformed access may touch some bytes; a realigning load and an address that does not resolve count as touching. -/
def mayTouch (s : State) (a : Access) (k n : Nat) : Bool :=
  match a.kind, keyNow s a.thread a.space a.addr a.kind.size with
  | .hold, _ => false
  | .ldrl _ _, _ => true
  | _, some k' => decide (k' < k + n ∧ k < k' + a.kind.size)
  | _, none => true

/-- A lower lane's store of the same instruction to some of the bytes is not performed yet: the highest lane writes last
(R66, R94). -/
def laneBehind (s : State) (t seq k n : Nat) (store : Bool) : Bool :=
  store && s.accs.any fun e =>
    e.2.seq == seq && e.2.kind.isStore && decide (s.laneOf e.2.thread < s.laneOf t) && mayTouch s e.2 k n

/-- An access of a thread at n bytes may be performed before the thread's older unperformed accesses (Table 4-2, R94):
accesses to one byte keep program order, and a store waits for older loads; and the lanes of one instruction keep their order. -/
def mayPass (s : State) (t seq k n : Nat) (store : Bool) : Bool :=
  !(laneBehind s t seq k n store) &&
    (s.accsOf t).all fun e => decide (seq ≤ e.2.seq) || (!(mayTouch s e.2 k n) && (e.2.kind.isStore || !store))

/-- The register value of bytes loaded. -/
def loadValue (z : Nat) (signed : Bool) (bs : List Byte) : Word :=
  if signed then sextWord (8 * z) (natOfBytes bs) else wordOf (natOfBytes bs)

/-! ### Performing -/

/-- INFO of poison in bytes that a load, an atomic or a wait reads: the block, or in local memory the first poisoned byte
accessed (R455, the example after R507). -/
def poisonFlt (s : State) (k n : Nat) : Option Flt :=
  (spoiledAt s k n).map fun p => (cPoison, if isSram p.1 then wordOf (2 ^ 63 + scratchAddr s (max k p.1)) else poisonInfo p.1)

/-- A store meets metadata that cannot be corrected (R456): the block takes code 15, and the cause is poison
(DEDUCED, log 52). -/
def metadataFlt (s : State) (k : Nat) : Option (State × Flt) :=
  let b := physOf k / 256
  if isDevice k && s.mem.blockCode.getD b 0 == 16 then
    some (s.setMem (setPoison { s.mem with blockCode := s.mem.blockCode.set b 15 } (b * 256) 256), (cPoison, poisonInfo k))
  else none

/-- INFO of a failed store to a peer (R448): kind 5 and the virtual address. -/
def peerInfo (va : Nat) : Word := wordOf (5 * 2 ^ 60 + va % 2 ^ 52)

/-- A store to a peer fails (R458): an entry for its thread, and one of the log (DEDUCED, log 44). -/
def failPeer (s : State) (id : Nat) (p : PeerStore) : State :=
  raiseAsync (logErr s 6 5 p.port p.ctx p.va 0) id p.thread cPeer (peerInfo p.va) [] none

/-- A store to a peer page waits for its acknowledgement (R110); on a port that is down it fails at once (R489). -/
def notePeer (s : State) (t k va : Nat) : State :=
  if isPeer k then
    let (id, s1) := s.fresh
    let p : PeerStore := { thread := t, grid := (s.teamOf t).grid, ctx := s.ctxOf t, port := portOf k, va := va, since := s.clk.fabric }
    if portDown s k then failPeer s1 id p else
    s1.modMgmt fun m => { m with peerStores := m.peerStores.set id p }
  else s

/-- The element bytes of block b of a linear FP6 array, from its words (R314, R126). -/
def realign (b : Nat) (ws : List Nat) : Nat :=
  let k0 := 32 * b / 21
  let e (i : Nat) := bits (nth ws ((32 * b + i) / 21 - k0) 0) (6 * ((32 * b + i) % 21) + 5) (6 * ((32 * b + i) % 21))
  ((List.range 21).map fun i => e i * 2 ^ (6 * i)).sum + 2 ^ 128 * ((List.range 11).map fun i => e (21 + i) * 2 ^ (6 * i)).sum

/-- The words that a realigning load reads, in ascending order, with the cause of the first failing one (R314, R507). -/
def realignWords (s : State) (t : Nat) (sp : Space) (a k0 : Nat) : List Nat → State × Except Flt (List Nat)
  | [] => (s, .ok [])
  | k :: ks =>
    match resolveNow s t sp (wrapInt 64 (a + 16 * k)) 16 .load with
    | (s1, .error f) => (s1, .error f)
    | (s1, .ok key) =>
      match poisonFlt s1 key 16 with
      | some f => (s1, .error f)
      | none =>
        let (s2, bs) := loadAt s1 (s1.clusterOf t) key 16
        if 2 ^ 126 ≤ natOfBytes bs then (s2, .error (cOperand, wordOf (k - k0))) else
        match realignWords s2 t sp a k0 ks with
        | (s3, .ok r) => (s3, .ok (natOfBytes bs :: r))
        | (s3, .error f) => (s3, .error f)

/-- Numbers of the words of block b. -/
def realignRange (b : Nat) : List Nat := (List.range ((32 * b + 31) / 21 + 1 - 32 * b / 21)).map (32 * b / 21 + ·)

/-- Performs an access at its key: a load writes its registers, a store its bytes (R310, R312). -/
def performAt (s : State) (t : Nat) (kind : AccKind) (k va : Nat) : State × Option Flt :=
  match kind with
  | .load z sg d =>
    match poisonFlt s k z with
    | some f => (s, some f)
    | none => let (s1, bs) := loadAt s (s.clusterOf t) k z; (s1.setG t d (loadValue z sg bs), none)
  | .ldq d =>
    match poisonFlt s k 16 with
    | some f => (s, some f)
    | none => let (s1, bs) := loadAt s (s.clusterOf t) k 16; (setGroup s1 t d 2 (natOfBytes bs), none)
  | .store z v v2 =>
    match metadataFlt s k with
    | some (s1, f) => (s1, some f)
    | none => (notePeer (storeAt s (s.clusterOf t) k (bytesOfNat (v.toNat + 2 ^ 64 * v2.toNat) z)) t k va, none)
  | .ldrl _ _ | .hold => (s, none)

/-- The global virtual address of an access (R59). -/
def globalVa (s : State) (t : Nat) (sp : Space) (a : Nat) : Nat := if sp = .pv then privateVa s t a else a

/-- Performs an access of a thread now: translation, then the access. -/
def performNow (s : State) (t : Nat) (sp : Space) (a : Nat) (kind : AccKind) : State × Option Flt :=
  match kind with
  | .ldrl d b =>
    match realignWords s t sp a (32 * b / 21) (realignRange b) with
    | (s1, .ok ws) => (setGroup s1 t d 4 (realign b ws), none)
    | (s1, .error f) => (s1, some f)
  | _ =>
    match resolveNow s t sp a kind.size (if kind.isStore then .store else .load) with
    | (s1, .ok k) => performAt s1 t kind k (globalVa s1 t sp a)
    | (s1, .error f) => (s1, some f)

/-- Miss entries of a cluster in use: its unperformed accesses to global and private memory that none rejected (R85). -/
def missEntries (s : State) (cl : Nat) : Nat :=
  (s.accs.filter fun e => e.2.space != .lo && !e.2.rejected && s.clusterOf e.2.thread == cl).length

/-- No miss entry is free for another access of a cluster, or others wait for one (R85). -/
def noEntry (s : State) (cl : Nat) : Bool := decide (512 ≤ missEntries s cl) || !(s.cluster cl).rejected.isEmpty

/-- Bytes of an access that the cluster cache does not hold, of a cluster of cores (R85). -/
def misses (s : State) (t : Nat) (sp : Space) (a n : Nat) : Bool :=
  sp != .lo && decide (s.clusterOf t < 18) && (match keyNow s t sp a n with
    | some k => !((s.cluster (s.clusterOf t)).lines.contains (physOf k / 128))
    | none => false)

/-- An access that would be performed at its issue is rejected (R85). -/
def rejectedAtIssue (s : State) (t : Nat) (sp : Space) (a n : Nat) : Bool :=
  sp != .lo && noEntry s (s.clusterOf t) && misses s t sp a n

/-- Leaves an access unperformed (R95); it is rejected where no miss entry is free, or others wait for one (R85)
(DESIGN CHOICE, log 4). -/
def deferAccess (s : State) (t : Nat) (sp : Space) (a : Nat) (kind : AccKind) : State :=
  let (id, s1) := s.fresh
  let cl := s.clusterOf t
  let full := sp != .lo && noEntry s cl
  let acc : Access := { thread := t, kind := kind, space := sp, addr := a, pc := s.grp.pc, clause := (s.thread t).clause,
                        seq := s.seq, page := none, rejected := full, faulted := false, failed := false }
  let s2 := { s1 with accs := s1.accs.set id acc }
  if full then s2.modCluster cl fun c => { c with rejected := c.rejected ++ [id] } else s2

/-- The entry kept for a thread's rejected access that issues again (R85). -/
def heldEntry (s : State) (t : Nat) : Option Nat :=
  ((s.accs.find? fun e => e.2.thread == t && e.2.kind == .hold && !e.2.rejected)).map (·.1)

/-- An access that is performed at its issue, as a synchronising access or an atomic is (R96): where it misses and no entry is free
it is rejected, and issues again once one is kept for it (R85). -/
def withEntry (s : State) (t : Nat) (sp : Space) (a n : Nat) (body : State → Act) : Act :=
  match heldEntry s t with
  | some id => body { s with accs := s.accs.del id }
  | none => if rejectedAtIssue s t sp a n then .stay (deferAccess s t sp a .hold) else body s

/-- A plain access is left unperformed: the schedule says so, or an older access of the thread goes first
(DESIGN CHOICE, log 4). -/
def plainAccess (s : State) (t : Nat) (sp : Space) (a : Nat) (kind : AccKind) : Act :=
  let (later, s1) := s.deferNext
  let behind := !s1.accs.isEmpty && (match kind, keyNow s1 t sp a kind.size with
    | .ldrl _ _, _ => !(s1.accsOf t).isEmpty
    | _, some k => !(mayPass s1 t s1.seq k kind.size kind.isStore)
    | _, none => !(s1.accsOf t).isEmpty)
  if later || behind || rejectedAtIssue s1 t sp a kind.size then .done (deferAccess s1 t sp a kind)
  else match performNow s1 t sp a kind with
    | (s2, none) => .done s2
    | (s2, some f) => .fail s2 f

/-- A synchronising access is performed at its issue, with nothing older unperformed (R96). -/
def syncAccess (s : State) (t : Nat) (sp : Space) (a : Nat) (kind : AccKind) : Act :=
  withEntry s t sp a kind.size fun s0 => match performNow s0 t sp a kind with
    | (s1, none) => .done s1
    | (s1, some f) => .fail s1 f

/-! ### Loads -/

/-- A consuming load that takes the bytes from before a write of the same cycle (R69). -/
def readOld (s : State) (t : Nat) (kind : AccKind) (old : List Byte) : State :=
  match kind with
  | .load z sg d => s.setG t d (loadValue z sg (old.take z))
  | .ldq d => setGroup s t d 2 (natOfBytes old)
  | _ => s

/-- A load of one thread: the alignment cause comes first (R309, R423) (DEDUCED, log 22). -/
def loadThread (q : LdKind) (sp : Space) (off : BitVec 6) (a : Reg) (kind : AccKind) (s : State) (t : Nat) : Act :=
  let ea := effAddr (s.gr t a.val) off.toInt kind.size
  if ea % kind.size != 0 then .bad (cAlign, wordOf ea) else
  match q with
  | .plain => plainAccess s t sp ea kind
  | .acq => syncAccess (if sp = .lo then s else acquire s (s.clusterOf t)) t sp ea kind
  | .fe | .fec =>
    match keyNow s t sp ea kind.size with
    | none => syncAccess s t sp ea kind
    | some k =>
      let wait := block s t (.granule (k / 16 * 16) s.seq (decide (q = .fec)) ea kind)
      match beforeFill s k with
      | some (true, old) => .done (readOld (acquire s (s.clusterOf t)) t kind (old.drop (k % 16)))
      | some (false, _) => .done (if granuleFull s k then wait.push [.waitaRetest t] else wait)
      | none => if granuleFull s k then syncAccess (acquire s (s.clusterOf t)) t sp ea kind else .done wait

/-- Granules that the clearing loads of a group read (R68). -/
def consumed (s : State) (sp : Space) (off : BitVec 6) (a : Reg) (n : Nat) (ths : List Nat) : List Nat :=
  ths.filterMap fun t =>
    let ea := effAddr (s.gr t a.val) off.toInt n
    if ea % n != 0 then none else
    match keyNow s t sp ea n with
    | some k => if granuleFull s k && (poisonAt s.mem k n).isNone && (beforeFill s k).isNone then some k else none
    | none => none

/-- The effect of a load on a group: every clearing load of one full granule reads it, and the bit is cleared once (R68)
(DEDUCED, log 22). -/
def loadEff (q : LdKind) (sp : Space) (off : BitVec 6) (a : Reg) (kind : AccKind) (s : State) (ths : List Nat) : Out :=
  let o := runThreads (loadThread q sp off a kind) s ths
  if q = .fec then { o with s := (consumed s sp off a kind.size ths).foldl emptyGranule o.s } else o

/-- A sized load (R310). -/
def loadOp (i : Instr) (o : OpLd) (z : Nat) (signed : Bool) (s : State) : Host.Outcome State Fault Refusal :=
  .next (issue i (loadEff o.q o.sp o.off o.a (.load z signed o.d.val)) s)

/-- `ld.s8` (R310). -/
def execLdS8 (o : OpLd) (s : State) : Host.Outcome State Fault Refusal := loadOp (.ldS8 o) o 1 true s
/-- `ld.n8` (R310). -/
def execLdN8 (o : OpLd) (s : State) : Host.Outcome State Fault Refusal := loadOp (.ldN8 o) o 1 false s
/-- `ld.s16` (R310). -/
def execLdS16 (o : OpLd) (s : State) : Host.Outcome State Fault Refusal := loadOp (.ldS16 o) o 2 true s
/-- `ld.n16` (R310). -/
def execLdN16 (o : OpLd) (s : State) : Host.Outcome State Fault Refusal := loadOp (.ldN16 o) o 2 false s
/-- `ld.s32` (R310). -/
def execLdS32 (o : OpLd) (s : State) : Host.Outcome State Fault Refusal := loadOp (.ldS32 o) o 4 true s
/-- `ld.n32` (R310). -/
def execLdN32 (o : OpLd) (s : State) : Host.Outcome State Fault Refusal := loadOp (.ldN32 o) o 4 false s
/-- `ld.b64` (R310). -/
def execLdB64 (o : OpLd) (s : State) : Host.Outcome State Fault Refusal := loadOp (.ldB64 o) o 8 false s

/-- `ldq` (R310). -/
def execLdq (o : OpLdq) (s : State) : Host.Outcome State Fault Refusal :=
  .next (issue (.ldq o) (loadEff o.q o.sp o.off o.a (.ldq (2 * o.d.val))) s)

/-- A realigning load of one thread (R314). -/
def ldrlThread (o : OpLdrl) (s : State) (t : Nat) : Act :=
  let a := s.gr t o.a.val
  if a.toNat % 16 != 0 then .bad (cAlign, a) else plainAccess s t o.sp a.toNat (.ldrl (4 * o.d.val) (s.gr t o.b.val).toNat)

/-- `ldrl` (R314). -/
def execLdrl (o : OpLdrl) (s : State) : Host.Outcome State Fault Refusal := laneOp (.ldrl o) (ldrlThread o) s

/-! ### Stores -/

/-- Has a fill store's granule set full once its bytes are written (R67, R312). -/
def fillAfter (s : State) (t : Nat) (sp : Space) (ea n : Nat) : Act → Act
  | .done s1 =>
    match keyNow s t sp ea n with
    | some k => .done (fillGranule s1 k)
    | none => .done s1
  | x => x

/-- A store of one thread (R312). -/
def storeThread (q : StKind) (sp : Space) (off : BitVec 4) (a : Reg) (z : Nat) (v v2 : State → Nat → Word) (s : State) (t : Nat) :
    Act :=
  let ea := effAddr (s.gr t a.val) off.toInt z
  if ea % z != 0 then .bad (cAlign, wordOf ea) else
  match q with
  | .plain => plainAccess s t sp ea (.store z (v s t) (v2 s t))
  | .rel => syncAccess s t sp ea (.store z (v s t) (v2 s t))
  | .fill => fillAfter s t sp ea z (syncAccess (match keyNow s t sp ea z with
      | some k => noteFill s k
      | none => s) t sp ea (.store z (v s t) (v2 s t)))

/-- A sized store (R312); the highest lane of a group writes last (R66, R94). -/
def storeOp (i : Instr) (o : OpSt) (z : Nat) (s : State) : Host.Outcome State Fault Refusal :=
  laneOp i (storeThread o.q o.sp o.off o.a z (fun s t => s.gr t o.s.val) (fun _ _ => 0)) s

/-- `st.b8` (R312). -/
def execStB8 (o : OpSt) (s : State) : Host.Outcome State Fault Refusal := storeOp (.stB8 o) o 1 s
/-- `st.b16` (R312). -/
def execStB16 (o : OpSt) (s : State) : Host.Outcome State Fault Refusal := storeOp (.stB16 o) o 2 s
/-- `st.b32` (R312). -/
def execStB32 (o : OpSt) (s : State) : Host.Outcome State Fault Refusal := storeOp (.stB32 o) o 4 s
/-- `st.b64` (R312). -/
def execStB64 (o : OpSt) (s : State) : Host.Outcome State Fault Refusal := storeOp (.stB64 o) o 8 s

/-- `stq` (R312). -/
def execStq (o : OpStq) (s : State) : Host.Outcome State Fault Refusal :=
  laneOp (.stq o) (storeThread o.q o.sp o.off o.a 16 (fun s t => s.gr t (2 * o.s.val)) (fun s t => s.gr t (2 * o.s.val + 1))) s

/-! ### Prefetch -/

/-- `pref` (R340): it may be dropped, and changes no architectural state. -/
def execPref (o : OpPref) (s : State) : Host.Outcome State Fault Refusal := laneOp (.pref o) (fun s _ => .done s) s

end Sys2Proof.Machine
end

