-- ==== Sys2Proof/Machine/Sync.lean ====
section
/-! DEFINITION. Atomics and reductions (spec 13 R315 to R317), fences (R318), team barriers (R319, R320, spec 06 R156),
barrier objects (R321, R322, spec 19 R460) and the waits on memory and on chunk bitmaps (R323 to R325). -/

namespace Sys2Proof.Machine

/-! ### Atomics -/

/-- The new value of an atomic (Table 13-3); none for a cas that fails. -/
def atomNew (op : AtomOp) (n x v c : Nat) : Option Nat :=
  match op with
  | .add => some ((x + v) % 2 ^ n)
  | .addF => let f := if n = 64 then fFP64 else fFP32; some (roundF f .rn (Fl.add .rn (decodeF f x) (decodeF f v)))
  | .minS => some (if sextNat n v < sextNat n x then v else x)
  | .minN => some (min x v)
  | .maxS => some (if sextNat n x < sextNat n v then v else x)
  | .maxN => some (max x v)
  | .and => some (Nat.land x v)
  | .or => some (Nat.lor x v)
  | .xor => some (Nat.xor x v)
  | .exch => some v
  | .cas => if x = v then some c else none

/-- The space of an atomic or a tile transfer. -/
def spaceOf : ASpace → Space
  | .gl => .gl
  | .lo => .lo

/-- Operations that a peer page takes as PCIe AtomicOps (R317). -/
def peerTakes (op : AtomOp) : Bool := op == .add || op == .exch || op == .cas

/-- An atomic write at the owner or slice, or at the bank (R99, R317): the ownership of the word stays as it is. -/
def atomWrite (s : State) (cl k : Nat) (bs : List Byte) : State :=
  let s0 := intoView s k
  let s1 := settleView (s0.setMem { s0.mem with cells := writeCells s0.mem.cells k bs }) k
  notify (if cl < 18 then s1.modCluster cl fun c => dropCopies c k bs.length else s1) k

/-- An atomic of one thread (R316). -/
def atomThread (o : OpAtom) (writes : Bool) (s : State) (t : Nat) : Act :=
  let n := if o.w64 then 64 else 32
  let a := s.gr t o.a.val
  let mis := a.toNat % (n / 8) != 0
  withEntry s t (spaceOf o.sp) a.toNat (n / 8) fun s => match resolveNow s t (spaceOf o.sp) a.toNat (n / 8) .store with
  | (s1, .error f) => if mis then .bad (cAlign, a) else .fail s1 f
  | (s1, .ok k) =>
    if isPeer k && !(peerTakes o.op) then .bad (cOperand, a) else if mis then .bad (cAlign, a) else
    match poisonFlt s1 k (n / 8) with
    | some f => .fail s1 f
    | none =>
      let x := readNat s1.mem.cells k (n / 8)
      let v := (s.gr t o.d.val).toNat % 2 ^ n
      let c := (s.gr t (o.d.val + 1)).toNat % 2 ^ n
      let s2 := match atomNew o.op n x v c with
        | some y => atomWrite s1 (s1.clusterOf t) k (bytesOfNat y (n / 8))
        | none => if isGlobal k && decide (s1.clusterOf t < 18) then s1.modCluster (s1.clusterOf t) fun c => dropCopies c k (n / 8) else s1
      let s3 := if (o.ord = .acq ∨ o.ord = .ar) ∧ o.sp = .gl then acquire s2 (s2.clusterOf t) else s2
      .done (if writes then s3.setG t o.d.val (wordOf x) else s3)

/-- `atom` (R315, R316). -/
def execAtom (o : OpAtom) (s : State) : Host.Outcome State Fault Refusal := laneOp (.atom o) (atomThread o true) s

/-- `ared` (R315, R316). -/
def execAred (o : OpAtom) (s : State) : Host.Outcome State Fault Refusal := laneOp (.ared o) (atomThread o false) s

/-! ### Fences -/

/-- `fence.acq` (R318, R97): words that the cluster does not own leave its cache. -/
def execFenceAcq (s : State) : Host.Outcome State Fault Refusal :=
  laneOp .fenceAcq (fun s t => .done (acquire s (s.clusterOf t))) s

/-- `fence.rel` (R318, R97): it issues once the older accesses are performed. -/
def execFenceRel (s : State) : Host.Outcome State Fault Refusal := laneOp .fenceRel (fun s _ => .done s) s

/-- `fence.ar` (R318, R97). -/
def execFenceAr (s : State) : Host.Outcome State Fault Refusal :=
  laneOp .fenceAr (fun s t => .done (acquire s (s.clusterOf t))) s

/-! ### Team barriers -/

/-- A thread arrives at its team's barrier (R319); in a handler it may not (Table 22-4). -/
def barThread (g : Bool) (s : State) (t : Nat) : Act :=
  if !(s.thread t).entered.isEmpty then .bad (cOperand, 0) else
  .done ((block s t (.bar g)).modTeam (s.teamIdOf t) fun x => { x with arrivals := x.arrivals.set (s.thread t).gang (s.nowOf t) })

/-- Teams of some threads. -/
def teamsOf (s : State) (ths : List Nat) : List Nat := dedup (ths.map fun t => s.teamIdOf t)

/-- The arrival of a group: the opening test follows the arrivals (R319). -/
def barEff (g : Bool) (s : State) (ths : List Nat) : Out :=
  let o := runThreads (barThread g) s ths
  { o with s := (teamsOf s ths).foldl (fun st tm => notifyCarder (tryOpenBar st tm) tm) o.s }

/-- `bar` (R319). -/
def execBar (s : State) : Host.Outcome State Fault Refusal := .next (issue .bar (barEff false) s)

/-- `bar.g` (R319). -/
def execBarG (s : State) : Host.Outcome State Fault Refusal := .next (issue .barG (barEff true) s)

/-- A gang whose wave is due leaves the barrier: its threads go on together, those of `bar.g` with an acquire (R156, R319). -/
def departGang (s : State) (gid : Nat) : State :=
  (threadsOf (s.gang gid)).foldl (fun st t => match (st.thread t).run with
    | .blocked (.bar g) => resume (if g then acquire st (st.clusterOf t) else st) t
    | _ => st) s

/-- Waves of a team that are due. -/
def departTeam (s : State) (team : Nat) : State :=
  let t := s.team team
  let now := s.nowAt ((t.cores.head?).getD 0)
  let due := t.waves.filter fun w => decide (w.1 ≤ now)
  (due.flatMap (·.2)).foldl departGang (s.modTeam team fun t => { t with waves := t.waves.filter fun w => decide (now < w.1) })

/-- Departure of every barrier wave that is due (R156). -/
def execBarrierWave (s : State) : Host.Outcome State Fault Refusal :=
  .next ((s.teams.filter fun e => e.2.res == .resident && !e.2.waves.isEmpty).foldl (fun st e => departTeam st e.1) s)

/-! ### Barrier objects -/

/-- What an update does to an object; none when a field would leave its range (R460). -/
def Bobj.arrived (b : Bobj) (n : Nat) : Option Bobj :=
  if b.arrive = 0 ∨ (2 ^ 31 : Int) - 1 < b.bytes + n then none else some ({ b with arrive := b.arrive - 1, bytes := b.bytes + n }).advance

/-- The key of a thread's barrier object, with the causes of Table 13-8. -/
def bobjKey (s : State) (t : Nat) (a : Word) : Except Flt Nat :=
  if a.toNat % 16 != 0 then .error (cAlign, a) else
  match (resolve s t .lo a.toNat 16 .store).2 with
  | .ok k => .ok k
  | .bad f => .error f
  | .page _ => .error (cPerm, a)

/-- An arrival of one thread (R321): D takes the phase before the update. -/
def arriveThread (a d : Reg) (n : State → Nat → Nat) (s : State) (t : Nat) : Act :=
  match bobjKey s t (s.gr t a.val) with
  | .error f => .bad f
  | .ok k =>
    let b := readBobj s k
    match b.arrived (n s t) with
    | none => .bad (cOperand, s.gr t a.val)
    | some b1 => .done ((writeBobj s k b1).setG t d.val (wordOf (b2n b.phase)))

/-- `bobj.arrive` (R321). -/
def execBobjArrive (o : Op2) (s : State) : Host.Outcome State Fault Refusal :=
  laneOp (.bobjArrive o) (arriveThread o.a o.d fun _ _ => 0) s

/-- `bobj.expect` (R321). -/
def execBobjExpect (o : Op3X) (s : State) : Host.Outcome State Fault Refusal :=
  laneOp (.bobjExpect o) (arriveThread o.a o.d fun s t => (s.gr t o.b.val).toNat % 2 ^ 32) s

/-- `bobj.init` (R321, R322). -/
def execBobjInit (o : OpAB) (s : State) : Host.Outcome State Fault Refusal :=
  laneOp (.bobjInit o) (fun s t => match bobjKey s t (s.gr t o.a.val) with
    | .error f => .bad f
    | .ok k =>
      let v := (s.gr t o.b.val).toNat
      .done (setBobj s k { readBobj s k with expect := v % 2 ^ 32, arrive := v % 2 ^ 32, bytes := 0, phase := bit v 32 })) s

/-! ### Waits on memory (R323, R324) -/

/-- What a wait reads: the key and bytes of its operand, with the causes of Table 13-8. -/
def waitKey (phase : Bool) (s : State) (t : Nat) (a : Word) : State × Except Flt Nat :=
  if phase then (s, bobjKey s t a)
  else if a.toNat % 8 != 0 then (s, .error (cAlign, a))
  else resolveNow s t .gl a.toNat 8 .load

/-- The test of a wait (Table 13-5): whether it returns, and what D takes. -/
def waitHolds (w : Why) (s : State) (k : Nat) : Bool × Word :=
  match w with
  | .waitaPhase _ b _ => let p := (readBobj s k).phase; (p != b.getLsbD 0, wordOf (b2n p))
  | .waitaGe _ b _ => let v := wordOf (readNat s.mem.cells k 8); (decide (b.toNat ≤ v.toNat), v)
  | .waitaEq _ b _ => let v := wordOf (readNat s.mem.cells k 8); (v == b, v)
  | _ => (true, 0)

/-- The operand address of a wait, whether it names a barrier object, and its destination. -/
def waitParts (w : Why) : Bool × Word × Nat :=
  match w with
  | .waitaPhase a _ d => (true, a, d)
  | .waitaGe a _ d => (false, a, d)
  | .waitaEq a _ d => (false, a, d)
  | _ => (false, 0, 0)

/-- One test of a wait: a cause, not yet, or the value for D after an acquire (R323). -/
def waitTest (w : Why) (s : State) (t : Nat) : State × Except Flt (Option Word) :=
  let (phase, a, _) := waitParts w
  match waitKey phase s t a with
  | (s1, .error f) => (s1, .error f)
  | (s1, .ok k) =>
    match poisonFlt s1 k (if phase then 16 else 8) with
    | some f => (s1, .error f)
    | none =>
      match waitHolds w s1 k with
      | (true, v) => (acquire s1 (s1.clusterOf t), .ok (some v))
      | (false, _) => (s1, .ok none)

/-- A wait of one thread at issue. -/
def waitThread (w : State → Nat → Why) (s : State) (t : Nat) : Act :=
  match waitTest (w s t) s t with
  | (s1, .error f) => .fail s1 f
  | (s1, .ok (some v)) => .done (s1.setG t (waitParts (w s t)).2.2 v)
  | (s1, .ok none) => .done (block s1 t (w s t))

/-- `waita.phase` (R323). -/
def execWaitaPhase (o : Op3X) (s : State) : Host.Outcome State Fault Refusal :=
  laneOp (.waitaPhase o) (waitThread fun s t => .waitaPhase (s.gr t o.a.val) (s.gr t o.b.val) o.d.val) s
/-- `waita.ge` (R323). -/
def execWaitaGe (o : Op3X) (s : State) : Host.Outcome State Fault Refusal :=
  laneOp (.waitaGe o) (waitThread fun s t => .waitaGe (s.gr t o.a.val) (s.gr t o.b.val) o.d.val) s
/-- `waita.eq` (R323). -/
def execWaitaEq (o : Op3X) (s : State) : Host.Outcome State Fault Refusal :=
  laneOp (.waitaEq o) (waitThread fun s t => .waitaEq (s.gr t o.a.val) (s.gr t o.b.val) o.d.val) s

/-- A re-test raises a cause for a thread that was Blocked: its entry stands at the instruction (R426). -/
def raiseBlocked (s : State) (t : Nat) (f : Flt) : State :=
  let (seq, s1) := s.nextOrder
  takeExceptions s1 [⟨t, f.1, f.2⟩] (s.thread t).pc (s.thread t).after seq

/-- A team whose threads may carry on: it is resident. -/
def teamRuns (s : State) (t : Nat) : Bool := (s.teamOf t).res == .resident

/-- The re-test of a waita (R324). -/
def retestWait (s : State) (th : Nat) (w : Why) : State :=
  match waitTest w s th with
  | (s1, .error f) => raiseBlocked s1 th f
  | (s1, .ok (some v)) => resume (s1.setG th (waitParts w).2.2 v) th
  | (s1, .ok none) => s1

/-! ### Consuming loads that wait (R68) -/

/-- Threads Blocked at a consuming load of one issue group, in ascending lane. -/
def granuleMates (s : State) (g seq : Nat) : List Nat :=
  let l := (s.threads.filter fun e => match e.2.run with
    | .blocked (.granule k q _ _ _) => k == g && q == seq && teamRuns s e.1
    | _ => false).map (·.1)
  sortBy (fun a b => decide (s.laneOf a < s.laneOf b)) l

/-- A thread Blocked at a consuming load of a full granule performs it and goes on, or takes its cause. -/
def granuleGoes (s : State) (t : Nat) : State :=
  match (s.thread t).run with
  | .blocked (.granule _ _ _ a kind) =>
    match performNow (acquire s (s.clusterOf t)) t .lo a kind with
    | (s1, none) => resume s1 t
    | (s1, some f) => raiseBlocked s1 t f
  | _ => s

/-- The load of a group that waits for a granule issues again: it tests the bit, and its threads go on together (R68). -/
def retestGranule (s : State) (t : Nat) : State :=
  match (s.thread t).run with
  | .blocked (.granule g seq clear a kind) =>
    match keyNow s t .lo a kind.size with
    | none => granuleGoes s t
    | some k =>
      if !(granuleFull s k) then s else
      let bad := (poisonAt s.mem k kind.size).isSome
      let s1 := (granuleMates s g seq).foldl granuleGoes s
      if clear && !bad then emptyGranule s1 k else s1
  | _ => s

/-! ### waitm (R325) -/

/-- The test of a waitm: a cause, or whether it returns. -/
def waitmTest (s : State) (t h : Nat) (m : Word) : Except Flt Bool :=
  match (vget (s.gangOf t).h h none).bind fun tl => s.tiles.get? tl with
  | none => .error (cStale, wordOf h)
  | some tl =>
    if 2 ^ min tl.chunks.length 64 ≤ m.toNat then .error (cOperand, m)
    else .ok ((bitList m.toNat 64).all fun i => bit tl.bitmap i)

/-- `waitm` (R325). -/
def execWaitm (o : OpHA) (s : State) : Host.Outcome State Fault Refusal :=
  laneOp (.waitm o) (fun s t =>
    let m := s.gr t o.a.val
    match waitmTest s t o.h.val m with
    | .error f => .bad f
    | .ok true => .done (acquire s (s.clusterOf t))
    | .ok false => .done (block s t (.waitm o.h.val m))) s

/-- Re-tests a thread Blocked at a waitm; a Suspended one tests again once its team is resident (R55). -/
def retestWaitm (s : State) (t : Nat) : State :=
  if !teamRuns s t then s else
  match (s.thread t).run with
  | .blocked (.waitm h m) =>
    match waitmTest s t h m with
    | .error f => raiseBlocked s t f
    | .ok true => resume (acquire s (s.clusterOf t)) t
    | .ok false => s
  | _ => s

/-- Re-tests the waitms of a gang, at a change of a tile or of a handle (R325). -/
def retestGang (s : State) (gid : Nat) : State := (threadsOf (s.gang gid)).foldl retestWaitm s

end Sys2Proof.Machine
end

