-- ==== Sys2Proof/Machine/Copy.lean ====
section
/-! DEFINITION. Copy and gather (spec 09 R215 to R219), the kick (spec 13 R330), the transform engines (R221, R222), engine
failures (spec 19 R448 to R450, R455, R460, R462), and the completion of these operations. -/

namespace Sys2Proof.Machine

/-! ### Failures of engines -/

/-- The kind of an asynchronous cause (R448) (DEDUCED, log 26). -/
def failKind (f : Flt) : Nat :=
  if f.1 = cTransl then (if f.2.getLsbD 61 then 4 else if f.2.getLsbD 63 then 0 else 1)
  else if f.1 = cPerm then 2 else if f.1 = cPoison then 3 else if f.1 = cPeer then 5 else 4

/-- INFO of an asynchronous entry (R448): the failing address, or the block's address for poison (DEDUCED, log 26). -/
def failInfo (f : Flt) (a : Nat) : Word := wordOf (failKind f * 2 ^ 60 + (if f.1 = cPoison then f.2.toNat else a) % 2 ^ 52)

/-- Marks blocks, granules or chunks that a range touches as poisoned (DEDUCED, log 26). -/
def poisonUnits (m : MemSys) (k n u : Nat) : MemSys :=
  let p := physOf k
  (List.range ((p + n - 1) / u + 1 - p / u)).foldl (fun m i => setPoison m ((p / u + i) * u) u) m

/-! ### Addresses of an operation -/

/-- The key of an engine's access: a virtual address of the context, or an absolute scratchpad address (Table 9-1). -/
def engineKey (s : State) (ctx : Nat) (local_ : Bool) (a : Nat) (u : Use) : State × Except Flt Nat :=
  if local_ then
    match scratchKey (s.cluster (bits a 27 23)) (bits a 27 23) (bits a 22 0) with
    | some k => (s, if bits a 27 23 < 18 ∧ a < 2 ^ 28 then .ok k else .error (cPerm, wordOf a))
    | none => (s, .error (cPerm, wordOf a))
  else
    match resolveEng s ctx a u false with
    | (s1, .ok k) => (s1, if portDown s1 k then .error (cPeer, wordOf a) else .ok k)
    | (s1, .bad f) => (s1, .error f)
    | (s1, .page _) => (s1, .error (cPaging, wordOf a))

/-- Barrier object byte completions of n bytes in parts of at most 2^20 (R105, R219); none when a part is out of range
(R460), which is not applied. -/
def countBytes (s : State) (k n : Nat) : Nat → State × Bool
  | 0 => (s, true)
  | fuel + 1 =>
    if n = 0 then (s, true) else
    let part := min n (2 ^ 20)
    let b := readBobj s k
    let (s1, ok) := if b.bytes - part < -(2 ^ 31 : Int) then (s, false)
      else (writeBobj s k ({ b with bytes := b.bytes - part }).advance, true)
    let (s2, ok2) := countBytes s1 k (n - part) fuel
    (s2, ok && ok2)

/-! ### One piece -/

/-- A piece of an operation: source and destination addresses and bytes. -/
structure Piece where
  (src : Nat) (dst : Nat) (n : Nat)
  deriving DecidableEq, Repr

/-- Splits a run so that no piece crosses a 16-byte boundary of either side. -/
def splitRun (src dst n : Nat) : Nat → List Piece
  | 0 => []
  | fuel + 1 =>
    if n = 0 then [] else
    let m := min n (min (16 - src % 16) (16 - dst % 16))
    ⟨src, dst, m⟩ :: splitRun (src + m) (dst + m) (n - m) fuel

/-- Writes bytes that an engine moves; poisoned source bytes poison the destination blocks (R455). A write of scratchpad comes
after the consuming reads of its cycle (R69). -/
def landBytes (s : State) (k : Nat) (bs : List Byte) (poisoned : Bool) : State :=
  let s1 := writeAt (if isSram k then noteFill s k else s) k bs
  if poisoned then s1.setMem (poisonUnits s1.mem k bs.length 256) else s1

/-- Moves one piece: what it wrote, or a cause and the address that met it where the operation fails (R450, R455). -/
def movePiece (s : State) (ctx : Nat) (sl dl : Bool) (p : Piece) : State × Except (Flt × Nat) Land :=
  match engineKey s ctx sl p.src .load with
  | (s1, .error f) => (s1, .error (f, p.src))
  | (s1, .ok ks) =>
    match engineKey s1 ctx dl p.dst .store with
    | (s2, .error f) => (s2, .error (f, p.dst))
    | (s2, .ok kd) =>
      match poisonFlt s2 ks p.n with
      | some f =>
        if dl || isPeer kd then (s2, .error (f, p.src))
        else (landBytes s2 kd (readCells s2.mem.cells ks p.n) true, .ok ⟨kd, p.n, true⟩)
      | none => (landBytes s2 kd (readCells s2.mem.cells ks p.n) false, .ok ⟨kd, p.n, false⟩)

/-- Moves pieces until one fails: the state, what was written, the pieces not moved, and the failure (DEDUCED, log 24). -/
def movePieces (s : State) (ctx : Nat) (sl dl : Bool) : List Piece → State × List Land × List Piece × Option (Flt × Nat)
  | [] => (s, [], [], none)
  | p :: ps =>
    match movePiece s ctx sl dl p with
    | (s1, .error f) => (s1, [], p :: ps, some f)
    | (s1, .ok l) => let (s2, n, rest, f) := movePieces s1 ctx sl dl ps; (s2, l :: n, rest, f)

/-- Granules of absolute addresses that pieces write, without those that other pieces have still to write (R67, R450). -/
def granulesOf (done left : List Piece) : List Nat :=
  let g := dedup (done.flatMap fun p => [p.dst / 16])
  let l := left.map fun p => p.dst / 16
  g.filter fun x => !(l.contains x)

/-- Sets the granules of a local destination full (R67, R219). -/
def fillGranules (s : State) (gs : List Nat) : State :=
  gs.foldl (fun st g => match scratchKey (st.cluster (bits (16 * g) 27 23)) (bits (16 * g) 27 23) (bits (16 * g) 22 0) with
    | some k => fillGranule st k
    | none => st) s

/-! ### Copy packets -/

/-- Pieces of a copy (R219). -/
def copyPieces (w src dst : Nat) : List Piece :=
  (List.range (bits w 159 144 + 1)).flatMap fun r =>
    splitRun (src + r * bits w 127 96) (dst + r * bits w 95 64) (bits w 191 160) (bits w 191 160)

/-- Reads an index word of a gather part by part: each part stands in one page (R219, R455). -/
def indexWord (s : State) (ctx : Nat) : List Piece → State × Except (Flt × Nat) Nat
  | [] => (s, .ok 0)
  | p :: ps =>
    let a := p.src % 2 ^ 64
    match engineKey s ctx false a .load with
    | (s1, .error f) => (s1, .error (f, a))
    | (s1, .ok k) =>
      match poisonFlt s1 k p.n with
      | some f => (s1, .error (f, a))
      | none => match indexWord s1 ctx ps with
        | (s2, .error f) => (s2, .error f)
        | (s2, .ok x) => (s2, .ok (readNat s1.mem.cells k p.n + 2 ^ (8 * p.n) * x))

/-- Moves the elements of a gather (R219), reading each index; a poisoned index fails the operation (R455). -/
def gatherMove (s : State) (ctx w src dst : Nat) (dl : Bool) :
    List Nat → State × List Land × List Piece × List Piece × Option (Flt × Nat)
  | [] => (s, [], [], [], none)
  | e :: es =>
    let z := 2 ^ bits w 95 92
    let ia := (bits w 191 128 + 4 * e) % 2 ^ 64
    let rest := (e :: es).flatMap fun x => splitRun 0 (dst + x * z) z z
    match indexWord s ctx (splitRun ia ia 4 4) with
    | (s1, .error f) => (s1, [], [], rest, some f)
    | (s1, .ok x) =>
        let ps := splitRun ((src + x * z) % 2 ^ 64) (dst + e * z) z z
        match movePieces s1 ctx false dl ps with
        | (s2, n, [], none) =>
          let (s3, m, done, rest2, f) := gatherMove s2 ctx w src dst dl es
          (s3, n ++ m, ps ++ done, rest2, f)
        | (s2, n, r, f) => (s2, n, ps.take (ps.length - r.length), r ++ es.flatMap fun x => splitRun 0 (dst + x * z) z z, f)

/-- What the moving of an operation gave: state, what was written, destination granules finished, failure. -/
structure Moved where
  (s : State) (lands : List Land) (granules : List Nat) (fail : Option (Flt × Nat))

/-- Performs the accesses of a copy or gather. -/
def moveAll (s : State) (ctx w src dst : Nat) : Moved :=
  let dl := bits w 42 40 == 1
  if bits w 7 0 = 0x11 then
    let (s1, n, done, rest, f) := gatherMove s ctx w src dst dl (List.range (bits w 127 96))
    ⟨s1, n, granulesOf done rest, f⟩
  else
    let ps := copyPieces w src dst
    let (s1, n, rest, f) := movePieces s ctx (bits w 39 37 == 1) dl ps
    ⟨s1, n, granulesOf (ps.take (ps.length - rest.length)) rest, f⟩

/-- The key of the barrier object that a copy counts on (Table 9-1). -/
def copyBobj (s : State) (core w dst : Nat) : Option Nat :=
  let cl := if bits w 42 40 = 1 then bits dst 27 23 else core / 16
  if bit w 43 then scratchKey (s.cluster cl) cl (16 * bits w 63 44) else none

/-! ### The end of an operation -/

/-- Reports a failure of an engine operation: to its issuer as an asynchronous entry that its flag decrement waits for, and
in the error log (R449, R450); unit is the queue or the cluster (DEDUCED, log 26). -/
def reportFail (s : State) (op : Op) (ths : List Nat) (cause : Nat) (info : Word) : State :=
  let s1 := logErr s 4 cause ((op.qid).getD 0xFFFF) op.ctx info.toNat 0
  match ths.filter fun t => (s1.threads.get? t).isSome && !((s1.thread t).run == .exited) with
  | [] => decFlags s1 op.decs
  | t :: ts =>
    let (k, s2) := s1.nextOrder
    (t :: ts).foldl (fun st x => raiseAsync st k x cause info (if x = t then op.decs else []) none) s2

/-- The add at CPLADDR when an operation ends (R217, R450). -/
def opAdd (s : State) (op : Op) (failed : Bool) : State := cplAdd s op.ctx op.cpl (if failed then cplFail else 1)

/-- Ends an operation: it leaves the table, and its queue may go on. -/
def endOp (s : State) (id : Nat) : State :=
  let s1 := match (s.ops.get? id).bind (·.qid), s.ops.get? id with
    | some q, some op => packetDone s q op.slot
    | _, _ => s
  { s1 with ops := s1.ops.del id }

/-- The head slot of a queue as memory holds it, and its index (R138); none where it cannot be read. -/
def headPacket (s : State) (q : Queue) : Option (Nat × Nat) :=
  match (devRead s q.ctx (q.desc + 24) 8).2 with
  | none => none
  | some l =>
    let r := natOfBytes l
    (devRead s q.ctx (q.base + 64 * (r % 2 ^ q.log2n)) 64).2.map fun b => (r, natOfBytes b)

/-- Urgent queues whose head packet watches the barrier object at a key (R143). -/
def urgentWatchers (s : State) (k : Nat) : List Nat :=
  (s.queues.filter fun e => e.2.cls == 3 && match headPacket s e.2 with
    | some (_, w) => bits w 7 0 != 0 && bits w 11 10 == 3 &&
        scratchKey (s.cluster (bits w 347 343)) (bits w 347 343) (bits w 342 320) == some k
    | none => false).map (·.2.ctx)

/-- A count error on an object that an urgent launch watches resets the context that owns the queue (R463). -/
def countReset (s : State) (k : Nat) : State := (dedup (urgentWatchers s k)).foldl (fun st c => forcedReset st c 4 0) s

/-- A count error of a byte completion (R460). -/
def countError (s : State) (op : Op) (k : Nat) : State :=
  let info := wordOf (scratchAddr s k)
  let s1 := logErr s 4 cCount ((op.qid).getD 0xFFFF) op.ctx info.toNat 0
  countReset (match op.issuer with
    | some t => let (k, s2) := s1.nextOrder; raiseAsync s2 k t cCount info [] none
    | none => s1) k

/-- The threads that an operation's failure names: its issuer. -/
def issuerOf (op : Op) : List Nat :=
  match op.issuer with
  | some t => [t]
  | none => []

/-- Completes a copy or gather (R216, R219, R450, R462). -/
def finishCopy (s : State) (id : Nat) (op : Op) (w src dst : Nat) : State :=
  let r := moveAll s op.ctx w src dst
  let s0 := healRanges r.s r.lands
  let s1 := if bits w 42 40 = 1 then fillGranules s0 r.granules else s0
  let s2 := match copyBobj s1 op.core w dst with
    | some k =>
      match countBytes s1 k (landed r.lands) (landed r.lands / 2 ^ 20 + 1) with
      | (s3, true) => s3
      | (s3, false) => countError s3 op k
    | none => s1
  let s3 := endOp (opAdd s2 op r.fail.isSome) id
  match r.fail with
  | none => decFlags s3 op.decs
  | some (f, a) => reportFail s3 op (issuerOf op) (if bits w 7 0 = 0x11 then cGather else cCopy) (failInfo f a)

/-! ### Transform engines (R222, R462) -/

/-- Bits of an element code of Table 5-7. -/
def elemBits (fmt : Nat) : Nat :=
  match fmt with
  | 0 => 32 | 1 => 16 | 2 => 16 | 12 => 16 | 3 => 8 | 4 => 8 | 8 => 8 | 9 => 8 | 7 => 4 | 10 => 4 | 11 => 4 | _ => 6

/-- The element format of a code of Table 5-7. -/
def elemOfCode (c : Nat) : Elem :=
  match c with
  | 0 => .fp32 | 1 => .fp16 | 2 => .bf16 | 3 => .e4m3 | 4 => .e5m2 | 5 => .e3m2 | 6 => .e2m3 | 7 => .e2m1 | 8 => .int8 | 9 => .uint8
  | 10 => .int4 | 11 => .uint4 | _ => .int16

/-- The rounding mode of a code (Table 9-2). -/
def modeOfCode (c : Nat) : RMode :=
  match c with
  | 0 => .rn | 1 => .rz | 2 => .ru | _ => .rd

/-- Elements in one unit of a linear array and its bytes: an FP6 word, a byte of two elements, or one element (R126)
(DEDUCED, log 27). -/
def linearUnit (fmt : Nat) : Nat × Nat :=
  match elemBits fmt with
  | 6 => (21, 16)
  | 4 => (2, 1)
  | n => (1, n / 8)

/-- Elements in one unit of a destination and its bytes: sub-byte elements are written by whole words, whose bits beyond the last
element are zero (R222). -/
def destUnit (fmt : Nat) : Nat × Nat := if elemBits fmt = 4 then (32, 16) else linearUnit fmt

/-- Reads bytes of a context for an engine: a failure with its address, or the value and whether some byte is poisoned
(DEDUCED, log 13). -/
def engineRead (s : State) (ctx : Nat) : List Piece → State × Except (Flt × Nat) (Nat × Bool)
  | [] => (s, .ok (0, false))
  | p :: ps =>
    match engineKey s ctx false (p.src % 2 ^ 64) .load with
    | (s1, .error f) => (s1, .error (f, p.src % 2 ^ 64))
    | (s1, .ok k) =>
      match engineRead s1 ctx ps with
      | (s2, .error f) => (s2, .error f)
      | (s2, .ok (v, bad)) => (s2, .ok (readNat s1.mem.cells k p.n + 2 ^ (8 * p.n) * v, bad || (spoiledAt s1 k p.n).isSome))

/-- Writes bytes of a context for an engine: what was written, and a failure. -/
def engineWrite (s : State) (ctx : Nat) (v : Nat) (bad : Bool) : List Piece → State × List Land × Option (Flt × Nat)
  | [] => (s, [], none)
  | p :: ps =>
    match engineKey s ctx false (p.src % 2 ^ 64) .store with
    | (s1, .error f) => (s1, [], some (f, p.src % 2 ^ 64))
    | (s1, .ok k) =>
      let (s2, ls, f) := engineWrite (landBytes s1 k (bytesOfNat v p.n) bad) ctx (v / 2 ^ (8 * p.n)) bad ps
      (s2, ⟨k, p.n, bad⟩ :: ls, f)

/-- The pieces of n bytes at an address. -/
def runOf (a n : Nat) : List Piece := splitRun a a n n

/-- The code of source element j: none where its FP6 word has spare bits, which reads as NaN (R462). -/
def sourceElem (fmt v i : Nat) : Option Nat :=
  let n := elemBits fmt
  if n = 6 ∧ 2 ^ 126 ≤ v then none else some (v / 2 ^ (n * i) % 2 ^ n)

/-- One element converted (R222): integer to integer saturates. -/
def convertElem (w : Nat) (c : Option Nat) : Nat :=
  let d := elemNum (elemOfCode (bits w 87 84))
  match c, d with
  | some c, _ => convert (elemNum (elemOfCode (bits w 91 88))) d (modeOfCode (bits w 83 82)) (bit w 81) c
  | none, .fl f => f.nanCode
  | none, .int _ _ => 0

/-- What a transform gave: state, failure, whether some element or block was bad, and what was written. -/
structure Formed where
  (s : State) (fail : Option (Flt × Nat)) (bad : Bool) (lands : List Land)

/-- The elements of one destination unit: their codes as one number, and whether a source byte is poisoned or an FP6 word
bad (DEDUCED, log 27). -/
def gatherUnit (s : State) (ctx w src : Nat) : List Nat → State × Except (Flt × Nat) (Nat × Bool × Bool)
  | [] => (s, .ok (0, false, false))
  | j :: js =>
    let (per, size) := linearUnit (bits w 91 88)
    match engineRead s ctx (runOf (src + j / per * size) size) with
    | (s1, .error f) => (s1, .error f)
    | (s1, .ok (v, pois)) =>
      let c := sourceElem (bits w 91 88) v (j % per)
      match gatherUnit s1 ctx w src js with
      | (s2, .error f) => (s2, .error f)
      | (s2, .ok (r, p2, b2)) =>
        (s2, .ok (convertElem w c + 2 ^ elemBits (bits w 87 84) * r, pois || p2, c.isNone || b2))

/-- CONVERT over its destination units (R222). -/
def convertUnits (ctx w src dst : Nat) (s : State) : List Nat → Formed
  | [] => ⟨s, none, false, []⟩
  | u :: us =>
    let (per, size) := destUnit (bits w 87 84)
    let js := (List.range (min per (bits w 127 96 - u * per))).map (u * per + ·)
    match gatherUnit s ctx w src js with
    | (s1, .error f) => ⟨s1, some f, false, []⟩
    | (s1, .ok (v, pois, bad)) =>
      match engineWrite s1 ctx v pois (runOf (dst + u * size) size) with
      | (s2, ls, some f) => ⟨s2, some f, bad, ls⟩
      | (s2, ls, none) => let r := convertUnits ctx w src dst s2 us; { r with bad := bad || r.bad, lands := ls ++ r.lands }

/-- FILL over 8-byte parts (R222). -/
def fillParts (ctx w dst : Nat) (s : State) : List Nat → Formed
  | [] => ⟨s, none, false, []⟩
  | i :: is =>
    match engineWrite s ctx (bits w 191 128) false (runOf (dst + 8 * i) (min 8 (bits w 127 96 - 8 * i))) with
    | (s1, ls, some f) => ⟨s1, some f, false, ls⟩
    | (s1, ls, none) => let r := fillParts ctx w dst s1 is; { r with lands := ls ++ r.lands }

/-- The leaf of an address, without touching it. -/
def leafAt (s : State) (ctx a : Nat) : Option (Nat × Nat) :=
  match walk s.mem (s.ctx ctx) a (s.ctx ctx).root [0, 1, 2, 3] with
  | .leaf lv _ e => some (lv, e)
  | _ => none

/-- RECODE of one block (R222, R462): one that does not decode takes code 15, and the operation goes on (DEDUCED, log 27). -/
def recodeBlocks (ctx w dst : Nat) (s : State) : List Nat → Formed
  | [] => ⟨s, none, false, []⟩
  | i :: is =>
    let a := (dst + 256 * i) % 2 ^ 64
    match walk s.mem (s.ctx ctx) a (s.ctx ctx).root [0, 1, 2, 3] with
    | .backed _ _ | .bad _ =>
      match engineKey s ctx false a .store with
      | (s1, .error f) => ⟨s1, some (f, a), false, []⟩
      | (s1, .ok _) => recodeBlocks ctx w dst s1 is
    | .leaf lv pa e =>
      if 2 ^ 52 ≤ a ∨ leafDenies e false .store ∨ bits e 59 58 = 0 then ⟨s, some ((cPerm, wordOf a), a), false, []⟩ else
      let k := leafKey (s.ctx ctx) lv e a
      let s := s.setMem (touchEntry s.mem pa e .store)
      if !isDevice k then recodeBlocks ctx w dst s is else
      let mark := s.mem.blockCode.getD (k / 256) 0
      match blockView s (bits w 80 78) (k / 256) with
      | some v =>
        if 9 ≤ mark then let r := recodeBlocks ctx w dst s is; { r with bad := true }
        else recodeBlocks ctx w dst (putBlock s (bits e 62 60) (k / 256) v) is
      | none =>
        let m := setPoison { s.mem with blockCode := s.mem.blockCode.set (k / 256) 15 } (k / 256 * 256) 256
        let r := recodeBlocks ctx w dst (s.setMem m) is
        { r with bad := true }

/-- Performs a transform packet (R222). -/
def transformAll (s : State) (ctx w : Nat) : Formed :=
  let src := bits w 319 256
  let dst := bits w 255 192
  let n := bits w 127 96
  match bits w 95 92 with
  | 0 => fillParts ctx w dst s (List.range (ceilDiv n 8))
  | 1 => convertUnits ctx w src dst s (List.range (ceilDiv n (destUnit (bits w 87 84)).1))
  | _ => recodeBlocks ctx w dst s (List.range n)

/-- Completes a transform (R217, R462). -/
def finishTransform (s : State) (id : Nat) (op : Op) (w : Nat) : State :=
  let r := transformAll s op.ctx w
  let s1 := endOp (opAdd (healRanges r.s r.lands) op (r.fail.isSome || r.bad)) id
  match r.fail with
  | some (f, a) => logErr s1 4 f.1 (op.qid.getD 0xFFFF) op.ctx (failInfo f a).toNat 0
  | none => s1

/-! ### The kick (R330) -/

/-- A copy packet that the kick rejects (DEDUCED, log 26). -/
def kickBad (w : Nat) : Bool :=
  let gather := bits w 7 0 == 0x11
  !(bits w 7 0 == 0x10 || gather) || bits w 11 8 != 0 || bits w 447 320 != 0 || 1 < bits w 42 40 || 1 < bits w 39 37
    || bits w 36 12 != 0 || (if gather then bits w 39 37 != 0 || bits w 91 64 != 0 || 6 < bits w 95 92 || bits w 127 96 == 0
      else bits w 143 128 != 0 || bits w 191 160 == 0)

/-- A space-1 address field at or beyond L (R330, R451). -/
def kickRange (s : State) (t w : Nat) : Option Flt :=
  let l := (s.teamOf t).localSize
  let chk (on : Bool) (a : Nat) : Option Flt := if on && decide (l ≤ a) then some (cPerm, wordOf a) else none
  ((chk (bits w 39 37 == 1) (bits w 319 256)).or (chk (bits w 42 40 == 1) (bits w 255 192))).or
    (chk (bit w 43) (16 * bits w 63 44))

/-- Replaces bits [hi:lo] of a packet. -/
def putField (w hi lo v : Nat) : Nat := w % 2 ^ lo + v % 2 ^ (hi + 1 - lo) * 2 ^ lo + w / 2 ^ (hi + 1) * 2 ^ (hi + 1)

/-- The packet with its team-local fields made absolute (R330). -/
def kickPacket (s : State) (t w : Nat) : Nat :=
  let b := (s.teamOf t).localBase
  let cl := s.clusterOf t * 2 ^ 23
  let w1 := if bits w 39 37 = 1 then putField w 319 256 (cl + b + bits w 319 256) else w
  let w2 := if bits w 42 40 = 1 then putField w1 255 192 (cl + b + bits w 255 192) else w1
  if bit w 43 then putField w2 63 44 (b / 16 + bits w 63 44) else w2

/-- Operations that a core's request engine holds (R215). -/
def engineLoad (s : State) (core : Nat) : Nat :=
  (s.ops.filter fun e => e.2.core == core && match e.2.job with
    | .copy _ _ _ | .gather _ _ _ => true
    | _ => false).length

/-- A new engine operation, issued by a thread and counted on its selected flag (R107, R256). -/
def forkOp (s : State) (t : Nat) (fs : Bool) (job : Job) (cpl : Nat) (reads writes : List Nat) : State :=
  let (id, s1) := s.fresh
  let op : Op := { job := job, ctx := s.ctxOf t, core := s.coreOf t, decs := countersOf s [t] fs, issuer := some t, parts := [t], qid := none, slot := 0,
                   cpl := cpl, reads := reads, writes := writes, seq := s.seq }
  countFlag (s1.setOp id op) t fs

/-- COPY instructions of a core that wait for an entry of the request engine (R215): their threads would issue them next. -/
def kicksWaiting (s : State) (core : Nat) : Bool :=
  (s.core core).kicks.any fun e => let x := s.thread e.1; x.run == .ready && x.pc == e.2 && (s.teamOf e.1).res == .resident

/-- A COPY waits for an entry of its core's request engine, or waits no more (R215). -/
def setKick (s : State) (t : Nat) (waits : Bool) : State :=
  s.modCore (s.coreOf t) fun c => { c with kicks := (c.kicks.filter fun e => e.1 != t) ++ (if waits then [(t, (s.thread t).pc)] else []) }

/-- The kick of one thread (R330). -/
def copyThread (o : OpCopy) (s : State) (t : Nat) : Act :=
  let w := groupNat s t (8 * o.a.val) 8
  if kickBad w then .bad (cOperand, wordOf w) else
  match kickRange s t w with
  | some f => .bad f
  | none =>
    if 512 ≤ engineLoad s (s.coreOf t) then .stay (setKick s t true) else
    let p := kickPacket s t w
    let job := if bits w 7 0 = 0x11 then Job.gather p (bits p 319 256) (bits p 255 192) else Job.copy p (bits p 319 256) (bits p 255 192)
    .done (setKick (forkOp s t o.fs job (bits w 511 448) [] []) t false)

/-- `copy` (R330). -/
def execCopy (o : OpCopy) (s : State) : Host.Outcome State Fault Refusal := laneOp (.copy o) (copyThread o) s

/-- Completion of a copy or gather (R216, R219). -/
def execCopyCompletion (op : Nat) (s : State) : Host.Outcome State Fault Refusal :=
  match s.ops.get? op with
  | some x =>
    match x.job with
    | .copy w src dst | .gather w src dst => .next (finishCopy s op x w src dst)
    | _ => .next s
  | none => .next s

/-- Completion of a transform (R222). -/
def execTransformCompletion (op : Nat) (s : State) : Host.Outcome State Fault Refusal :=
  match s.ops.get? op with
  | some x =>
    match x.job with
    | .transform w _ => .next (finishTransform s op x w)
    | _ => .next s
  | none => .next s

end Sys2Proof.Machine
end

