-- ==== Sys2Proof/Machine/System.lean ====
section
/-! DEFINITION. qpost (spec 13 R329), the re-test of waits (R324), grow (R332), trap and tret (R334, R335) and smov (R336). -/

namespace Sys2Proof.Machine

/-! ### qpost -/

/-- The ring that bytes 8 to 15 of a queue descriptor name: its address and slots (Table 6-1). -/
def ringOf (q : Nat) : Nat × Nat := (bits q 63 18 * 64, 2 ^ bits q 17 13)

/-- The address of the slot of an index. -/
def slotAddr (q i : Nat) : Nat := (ringOf q).1 + 64 * (i % (ringOf q).2)

/-- The claim of a slot: the descriptor is read and WRIDX rises by 1 (R137, R329). -/
def claimSlot (s : State) (t a : Nat) : State × Except Flt (Nat × Nat) :=
  match resolveNow s t .gl (wrapInt 64 (a + 8)) 8 .load with
  | (s1, .error f) => (s1, .error f)
  | (s1, .ok k) =>
    match poisonFlt s1 k 8, resolveNow s1 t .gl (wrapInt 64 (a + 16)) 8 .store with
    | some f, _ => (s1, .error f)
    | none, (s2, .error f) => (s2, .error f)
    | none, (s2, .ok k2) =>
      match poisonFlt s2 k2 8 with
      | some f => (s2, .error f)
      | none =>
        let (s3, bs) := loadAt s2 (s2.clusterOf t) k 8
        let i := readNat s3.mem.cells k2 8
        (atomWrite s3 (s3.clusterOf t) k2 (bytesOfNat (i + 1) 8), .ok (natOfBytes bs, i))

/-- An acquire load of RDIDX (R137). -/
def readIndex (s : State) (t a : Nat) : State × Except Flt Nat :=
  match resolveNow s t .gl (wrapInt 64 (a + 24)) 8 .load with
  | (s1, .error f) => (s1, .error f)
  | (s1, .ok k) =>
    match poisonFlt s1 k 8 with
    | some f => (s1, .error f)
    | none => (acquire s1 (s1.clusterOf t), .ok (readNat s1.mem.cells k 8))

/-- What became of a post: it waits for room; it is written; a cause before it; or a cause at the slot, with the claim kept. -/
inductive Posted where
  | waits (s : State)
  | written (s : State)
  | bad (s : State) (f : Flt)
  | badSlot (s : State) (f : Flt)

/-- Writes a claimed slot once the ring has room: bytes 8 to 63, then bytes 0 to 7 as a release (R137, R329). -/
def tryPost (s : State) (t a i q : Nat) (packet : List Word) : Posted :=
  match readIndex s t a with
  | (s1, .error f) => .bad s1 f
  | (s1, .ok r) =>
    if (ringOf q).2 ≤ wrapInt 64 ((i : Int) - r) then .waits s1 else
    let slot := slotAddr q i
    match resolveNow s1 t .gl slot 64 .store with
    | (s2, .error f) => .badSlot s2 (f.1, wordOf slot)
    | (s2, .ok k) =>
      match metadataFlt s2 k with
      | some (s3, f) => .badSlot s3 (f.1, wordOf slot)
      | none => .written (notePeer (storeAt s2 (s2.clusterOf t) k (packet.flatMap fun w => bytesOfNat w.toNat 8)) t k slot)

/-- A qpost of one thread (R329). The descriptor's bytes 8 to 15 are kept in the wait as its slot field. -/
def qpostThread (o : OpQpost) (s : State) (t : Nat) : Act :=
  let a := s.gr t o.a.val
  let packet := (List.range 8).map fun k => s.gr t (8 * o.b.val + k)
  if (nth packet 0 0).toNat % 256 = 0 then .bad (cOperand, 0)
  else if a.toNat % 32 != 0 then .bad (cAlign, a) else
  match claimSlot s t a.toNat with
  | (s1, .error f) => .fail s1 f
  | (s1, .ok (q, i)) =>
    match tryPost s1 t a.toNat i q packet with
    | .waits s2 => .done (block s2 t (.post a.toNat i q packet o.d.val))
    | .written s2 => .done (s2.setG t o.d.val (wordOf i))
    | .bad s2 f => .fail s2 f
    | .badSlot s2 f => .fail (s2.setG t o.d.val (wordOf i)) f

/-- `qpost` (R329). -/
def execQpost (o : OpQpost) (s : State) : Host.Outcome State Fault Refusal := laneOp (.qpost o) (qpostThread o) s

/-! ### Re-tests -/

/-- A test of a waiting thread: a waita or a post (R324, R329). -/
def retest (s : State) (th : Nat) : State :=
  match (s.thread th).run with
  | .blocked (.post a i q packet d) =>
    match tryPost s th a i q packet with
    | .waits s1 => s1
    | .written s1 => resume (s1.setG th d (wordOf i)) th
    | .bad s1 f => raiseBlocked s1 th f
    | .badSlot s1 f => raiseBlocked (s1.setG th d (wordOf i)) th f
  | .blocked (.waitaPhase a b d) => retestWait s th (.waitaPhase a b d)
  | .blocked (.waitaGe a b d) => retestWait s th (.waitaGe a b d)
  | .blocked (.waitaEq a b d) => retestWait s th (.waitaEq a b d)
  | .blocked (.granule _ _ _ _ _) => retestGranule s th
  | _ => s

/-- The re-test of a waita, of a qpost that waits for room, or of a consuming load (R324, R329, R68). A Suspended waiter tests again once its team is
resident (R55). -/
def execWaitaRetest (th : Nat) (s : State) : Host.Outcome State Fault Refusal :=
  .next (if teamRuns s th then retest s th else s)

/-! ### Growth -/

/-- The thread's grid has no team count to raise (R332). -/
def growBad (s : State) (t : Nat) : Bool :=
  (s.gridOf t).pipeline || match (s.teamOf t).role with
    | .plain => false
    | _ => true

/-- A grow of one thread (R332, R31). -/
def growThread (o : Op2) (s : State) (t : Nat) : Act :=
  let a := (s.gr t o.a.val).toNat
  if 2 ^ 32 ≤ a ∨ growBad s t then .bad (cOperand, 0) else
  let old := (s.gridOf t).n
  if 2 ^ 32 - 1 < old + a then .done (s.setG t o.d.val (wordOf (old + 2 ^ 63)))
  else .done ((s.modGrid (s.teamOf t).grid fun g => { g with n := old + a }).setG t o.d.val (wordOf old))

/-- `grow` (R332). -/
def execGrow (o : Op2) (s : State) : Host.Outcome State Fault Refusal := laneOp (.grow o) (growThread o) s

/-! ### Traps -/

/-- `trap`: every thread with a true guard takes the software cause (R334). -/
def execTrap (c : BitVec 16) (s : State) : Host.Outcome State Fault Refusal :=
  laneOp (.trap c) (fun _ _ => .bad (cSoft, wordOf c.toNat)) s

/-- A thread in a handler. -/
def inHandler (s : State) (t : Nat) : Bool := !(s.thread t).entered.isEmpty

/-- What a tret of a thread raises: outside a handler the operand-format cause (R335), and an address in w28 with bit 0 set the
alignment cause, as at every indirect transfer (R253). -/
def tretBad (s : State) (t : Nat) : Option Flt :=
  if !inHandler s t then some (cOperand, 0) else if (s.ur t 28).getLsbD 0 then some (cAlign, s.ur t 28) else none

/-- The return of some threads (R335, R431). -/
def tretEff (s : State) (ths : List Nat) : Out :=
  runThreads (fun st t => match tretBad s t with
    | some f => .bad f
    | none => .done (returnFrom st t)) s ths

/-- `tret` (R335, R431). -/
def execTret (s : State) : Host.Outcome State Fault Refusal :=
  .next (issueTo .tret tretEff (fun st t => if st.guardOf t then .own else .next) s)

/-! ### Special registers -/

/-- The value of a special register (Tables 2-1, 11-8, 13-7). -/
def specialReg (s : State) (t n : Nat) : Nat :=
  let m := s.isMgmt t
  match n with
  | 0 => (s.thread t).tid
  | 1 => if m then 1 else (s.teamOf t).t
  | 2 => (s.teamOf t).idx
  | 3 => (s.gangOf t).num
  | 4 => (s.thread t).pos
  | 5 => (s.gangOf t).width
  | 6 => s.laneOf t
  | 7 => if m then 0xFFFF else s.coreOf t
  | 8 => if m then 1 else (s.gridOf t).n
  | 9 => s.ctxOf t
  | 10 => if m then 0xFF else s.clusterOf t
  | 11 => (((s.thread t).query).map (·.gen)).getD 0
  | 12 => s.nowOf t
  | _ => s.clk.ao

/-- `smov` (R336). -/
def execSmov (o : OpSmov) (s : State) : Host.Outcome State Fault Refusal :=
  regOp (.smov o) o.d (fun s t => wordOf (specialReg s t o.n.val)) s

end Sys2Proof.Machine
end

