-- ==== Sys2Proof/Machine/Registers.lean ====
section
/-! DEFINITION. The device's registers: sensor windows (spec 09 R230, R231), bank modes (spec 03 R61, R62, R520), memo tables
(spec 07 R179, R191), clock rates (spec 10 R244 to R247), thermal and log registers (spec 21 R484 to R486), the management
address map (spec 13 R337 to R339), mrd and mwr. -/

namespace Sys2Proof.Machine

/-! ### Sensor windows -/

/-- A count error of a window (R460): its EN is cleared and the error is logged. -/
def windowError (s : State) (n k : Nat) : State :=
  let s1 := s.modMgmt fun m => { m with sensor := modNth m.sensor n fun w => w / 2 * 2 }
  countReset (logErr s1 4 cCount n (window s n).ctx (scratchAddr s k) 0) k

/-- The key of a window's barrier object. -/
def windowKey (s : State) (n : Nat) : Option Nat := scratchKey (s.cluster (window s n).cl) (window s n).cl (window s n).obj

/-- Writes a sensor window; one that becomes enabled expects FRAME bytes (R231). -/
def setWindow (s : State) (n v : Nat) : State :=
  let v := v / 2 ^ 16 * 2 ^ 16 + v % 2
  let was := (window s n).en
  let s1 := s.modMgmt fun m => { m with sensor := m.sensor.set n v }
  if was || !bit v 0 then s1 else
  match windowKey s1 n with
  | none => s1
  | some k =>
    let b := readBobj s1 k
    if (2 ^ 31 : Int) - 1 < b.bytes + (window s1 n).frame then windowError s1 n k
    else writeBobj s1 k ({ b with bytes := b.bytes + (window s1 n).frame }).advance

/-- A byte completion of a window, with its range check (R460). -/
def windowTake (s : State) (n k m : Nat) : State :=
  let b := readBobj s k
  if b.bytes - m < -(2 ^ 31 : Int) then windowError s n k else writeBobj s k ({ b with bytes := b.bytes - m }).advance

/-- Counts m bytes of one write on a window: a write that passes the end of the phase is split (R231). -/
def windowCount (s : State) (n m : Nat) : State :=
  match windowKey s n with
  | none => s
  | some k =>
    let b := (readBobj s k).bytes
    if m = 0 then s else if 0 < b ∧ b < m then windowTake (windowTake s n k b.toNat) n k (m - b.toNat) else windowTake s n k m

/-- The lowest-numbered enabled window that holds a byte of device memory (R230). -/
def windowFor (s : State) (pa : Nat) : Option Nat :=
  (List.range 16).find? fun n => let w := window s n; w.en && decide (w.base ≤ pa ∧ pa < w.base + w.size)

/-- Counts a posted write of n bytes: each window for its own bytes, in ascending number (R230). -/
def countWrite (s : State) (pa n : Nat) : State :=
  let hits := (List.range n).filterMap fun i => windowFor s (pa + i)
  (List.range 16).foldl (fun st w => windowCount st w (hits.filter fun h => h == w).length) s

/-! ### Bank modes -/

/-- The requested mode of a bank. -/
def wantedMode (c : Cluster) (b : Nat) : Nat := bits c.bankMode.toNat (2 * b + 1) (2 * b)

/-- A write of CLUSTER.BANKMODE (R61): a bank whose release has not begun takes the new target (R62). -/
def writeBankMode (s : State) (cl : Nat) (v : Word) : State :=
  (s.modCluster cl fun c => { c with bankMode := v }).push ((List.range 32).map fun b => .bankTransition cl b)

/-- CLUSTER.BANKBUSY (Table 3-3). -/
def bankBusy (c : Cluster) : Nat := maskOf ((List.range 32).filter fun b => let k := nth c.banks b ⟨0, none⟩; k.mode != wantedMode c b || k.target.isSome)

/-! ### Memo tables -/

/-- MEMO.TABLEn without its reserved bits (Table 7-6, R10). -/
def memoTableMask (v : Nat) : Nat := bits v 63 63 * 2 ^ 63 + bits v 47 36 * 2 ^ 36

/-- A write of MEMO.TABLEn: every entry of a table that was enabled is invalidated (R179). -/
def writeMemoTable (s : State) (cl n : Nat) (v : Word) : State :=
  s.modCluster cl fun c =>
    { c with memoTable := c.memoTable.set n (wordOf (memoTableMask v.toNat)),
             memo := if (nth c.memoTable n 0).getLsbD 63 then c.memo.filter fun e => e.table != n else c.memo }

/-- MEMO.AUDIT of a cluster (Table 7-10). -/
def auditWord (a : Audit) : Word := wordOf (a.mismatch % 2 ^ 32 * 2 ^ 32 + a.audited % 2 ^ 16 * 2 ^ 16 + a.tileMis % 2 ^ 16)

/-- Clears the audit counters of a cluster, as a read does (Table 7-10). -/
def clearAudit (s : State) (cl : Nat) : State := s.modCluster cl fun c => { c with audit := ⟨0, 0, 0⟩ }

/-! ### Clocks, governor, energy -/

/-- CLUSTER.RATE (Table 10-3). -/
def rateWord (c : Cluster) : Word := wordOf (c.throttle * 2 ^ 12 + c.fstep * 2 ^ 8 + c.cur * 2 ^ 4 + c.req)

/-- A write of CLUSTER.RATE (R244, R494): the management core's sets every field; other software's sets FSTEP and REQ in the
fixed mode only; a REQ of 0b11 leaves REQ as it is. -/
def writeRate (s : State) (cl : Nat) (v : Word) (byMgmt : Bool) : State :=
  let x := v.toNat
  let fixed := bits s.mgmt.govLive.toNat 1 0 == 2
  s.modCluster cl fun c =>
    let c1 := if byMgmt || fixed then { c with fstep := bits x 11 8, req := if x % 4 = 3 then c.req else x % 4 } else c
    if byMgmt then { c1 with throttle := bits x 14 12 } else c1

/-- PWR.ENERGY_LO, read by the host or by the management core: the read latches bits [39:32] (R247). -/
def readEnergyLo (s : State) (host : Bool) : State × Word :=
  let hi := s.mgmt.energy / 2 ^ 32 % 2 ^ 8
  (s.modMgmt fun m => if host then { m with latchHost := hi } else { m with latchCore := hi }, wordOf (s.mgmt.energy % 2 ^ 32))

/-! ### Thermal and log registers -/

/-- THERM.CTL thresholds stand in order (Table 21-4). -/
def thermOrdered (v : Nat) : Bool := decide (bits v 25 16 < bits v 9 0 ∧ bits v 9 0 < bits v 41 32)

/-- A write of THERM.CTL: ignored whole unless RELEASE < ALERT < EMERG. -/
def writeTherm (s : State) (v : Word) : State :=
  let x := v.toNat
  if thermOrdered x then s.modMgmt fun m => { m with thermCtl := wordOf (bits x 41 32 * 2 ^ 32 + bits x 25 16 * 2 ^ 16 + bits x 9 0) } else s

/-- THERM.STATUS (Table 21-4). -/
def thermStatus (m : Mgmt) : Word :=
  wordOf (min m.emergCnt 0xFFFF * 2 ^ 32 + maskOf ((List.range 19).filter fun n => decide (bits m.thermCtl.toNat 9 0 ≤ nth m.temps n 0)))

/-- A write of ERRLOG.COMMIT: one whole entry, with the stage registers as its details (R484). -/
def commitLog (s : State) (v : Word) : State := logWord0 s (v.toNat / 2 ^ 8 * 2 ^ 8) s.mgmt.stage1.toNat s.mgmt.stage2.toNat

/-! ### The management address map (R338) -/

/-- An address of the map: block, instance and register. -/
structure MAddr where
  (block : Nat) (inst : Nat) (reg : Nat)
  deriving DecidableEq, Repr

/-- The fields of a management address; none where bits that must be zero are set (R337). -/
def mAddrOf (a : Nat) : Option MAddr := if 2 ^ 32 ≤ a ∨ a % 8 ≠ 0 then none else some ⟨bits a 31 24, bits a 23 12, bits a 11 3⟩

/-- What a column of Table 13-6 grants. -/
inductive Grant where | no | r | rw
  deriving DecidableEq, Repr

/-- Columns of Tables 13-6 and 21-3: supervisor, then management core; none where the address is reserved. -/
def grants (a : MAddr) : Option (Grant × Grant) :=
  match a.block with
  | 1 =>
    if 18 ≤ a.inst then none
    else if a.reg = 0 ∨ a.reg = 2 ∨ a.reg = 3 then some (.rw, .rw)
    else if a.reg = 1 then some (.r, .r)
    else if 16 ≤ a.reg ∧ a.reg ≤ 31 then some (.rw, .rw)
    else if a.reg = 32 then some (.no, .rw)
    else if 33 ≤ a.reg ∧ a.reg ≤ 35 then some (.r, .r) else none
  | 2 =>
    if a.reg = 0 ∨ a.reg = 1 ∨ a.reg = 3 ∨ a.reg = 4 then some (.r, .rw) else if a.reg = 2 ∨ a.reg = 5 then some (.r, .r) else none
  | 3 =>
    if a.inst ≠ 0 then none
    else if a.reg ≤ 1 then some (.r, .rw) else if a.reg ≤ 3 then some (.no, .r) else if a.reg ≤ 6 then some (.r, .r) else none
  | 4 => if 16 ≤ a.inst then none else if a.reg ≤ 1 then some (.no, .rw) else none
  | 5 =>
    if a.inst ≤ 18 then (if a.reg = 0 then some (.r, .r) else none)
    else if a.inst = 0x3F then
      (if a.reg = 0 then some (.r, .rw) else if a.reg ≤ 3 then some (.r, .r) else if a.reg ≤ 6 then some (.no, .rw) else none)
    else none
  | _ => none

/-- A thread may make an access: the cause otherwise (R339). -/
def mDenied (s : State) (t : Nat) (a : Word) (write : Bool) : Option Flt :=
  match (mAddrOf a.toNat).bind fun m => (grants m).map fun g => (m, g) with
  | none => some (cOperand, 0)
  | some (m, sup, man) =>
    let g := if s.isMgmt t then man else if s.levelOf t = .sup then sup else .no
    let own := s.isMgmt t || m.block != 2 || m.inst == s.ctxOf t
    if own && (g == .rw || (g == .r && !write)) then none else some (cPerm, a)

/-- A cluster that the current start excluded: its registers read as zero and ignore writes (R339). -/
def clusterOut (s : State) (cl : Nat) : Bool := bit s.mgmt.clusterX cl

/-- THERM.TEMPn as it reads: zero for an excluded cluster (R339, R497). -/
def tempOf (s : State) (n : Nat) : Nat := if decide (n < 18) && clusterOut s n then 0 else nth s.mgmt.temps n 0

/-- LOOM.POOLFREE of a context (Table 8-1). -/
def poolFree (c : Context) : Nat := bits c.pool 92 64 - c.poolUsed.length

/-- The value of a register, and what the read leaves (R337). -/
def readReg (s : State) (a : MAddr) : State × Word :=
  let c := s.cluster a.inst
  let x := s.ctx a.inst
  match a.block with
  | 1 =>
    if clusterOut s a.inst then (s, 0) else
    match a.reg with
    | 0 => (s, c.bankMode)
    | 1 => (s, wordOf (bankBusy c))
    | 2 => (s, rateWord c)
    | 3 => (s, wordOf (c.gap * 2 ^ 16 + c.wave))
    | 32 => (clearAudit s a.inst, auditWord c.audit)
    | 33 => (s, c.skipCnt)
    | 34 => (s, c.hitCnt)
    | 35 => (s, c.savedFc)
    | n => (s, nth c.memoTable (n - 16) 0)
  | 2 =>
    match a.reg with
    | 0 => (s, x.pagingCtl)
    | 1 => (s, x.memoMode)
    | 2 => (s, wordOf x.energy)
    | 3 => (s, wordOf x.pool)
    | 4 => (s, wordOf (x.pool / 2 ^ 64))
    | _ => (s, wordOf (poolFree x))
  | 3 =>
    match a.reg with
    | 0 => (s, s.mgmt.govCtl)
    | 1 => (s, s.mgmt.govFrame)
    | 2 => readEnergyLo s false
    | 3 => (s, wordOf s.mgmt.latchCore)
    | n => (s, wordOf (nth s.mgmt.ready (n - 4) 0))
  | 4 => (s, wordOf (nth s.mgmt.sensor a.inst 0 / 2 ^ (64 * a.reg)))
  | _ =>
    if a.inst ≤ 18 then (s, wordOf (tempOf s a.inst)) else
    match a.reg with
    | 0 => (s, s.mgmt.thermCtl)
    | 1 => (s, thermStatus s.mgmt)
    | 2 => (s, wordOf s.mgmt.errWidx)
    | 3 => (s, wordOf s.mgmt.ceCount)
    | 4 => (s, s.mgmt.stage1)
    | 5 => (s, s.mgmt.stage2)
    | _ => (s, 0)

/-- PAGING.CTL and MEMO.MODE without their reserved bits (Tables 3-8, 7-9, R10). -/
def pagingMask (v : Nat) : Nat := bits v 47 8 * 2 ^ 8 + v % 2 ^ 4
def memoModeMask (v : Nat) : Nat := bits v 47 32 * 2 ^ 32 + v % 4
/-- LOOM.POOL without its reserved bits (Table 8-1). -/
def poolMask (v : Nat) : Nat := bits v 92 64 * 2 ^ 64 + bits v 51 16 * 2 ^ 16
/-- GOV.CTL and GOV.FRAME without their reserved bits (Table 10-5). -/
def govCtlMask (v : Nat) : Nat := bits v 57 32 * 2 ^ 32 + v % 4
def govFrameMask (v : Nat) : Nat := bits v 47 32 * 2 ^ 32 + v % 2 ^ 24

/-- The effect of a write of a register (R337). -/
def writeReg (s : State) (a : MAddr) (v : Word) (byMgmt : Bool) : State :=
  let x := v.toNat
  match a.block with
  | 1 =>
    if clusterOut s a.inst then s else
    match a.reg with
    | 0 => writeBankMode s a.inst v
    | 2 => writeRate s a.inst v byMgmt
    | 3 => s.modCluster a.inst fun c => { c with gap := bits x 31 16, wave := x % 2 ^ 8 }
    | n => if 16 ≤ n ∧ n ≤ 31 then writeMemoTable s a.inst (n - 16) v else s
  | 2 =>
    match a.reg with
    | 0 => s.modCtx a.inst fun c => { c with pagingCtl := wordOf (pagingMask x) }
    | 1 => s.modCtx a.inst fun c => { c with memoMode := wordOf (memoModeMask x) }
    | 3 => s.modCtx a.inst fun c => { c with pool := poolMask (c.pool / 2 ^ 64 * 2 ^ 64 + x) }
    | 4 => s.modCtx a.inst fun c => { c with pool := poolMask (c.pool % 2 ^ 64 + x * 2 ^ 64) }
    | _ => s
  | 3 =>
    match a.reg with
    | 0 => s.modMgmt fun m => { m with govCtl := wordOf (govCtlMask x) }
    | 1 => s.modMgmt fun m => { m with govFrame := wordOf (govFrameMask x) }
    | _ => s
  | 4 =>
    let old := nth s.mgmt.sensor a.inst 0
    setWindow s a.inst (if a.reg = 0 then old / 2 ^ 64 * 2 ^ 64 + x else old % 2 ^ 64 + x * 2 ^ 64)
  | 5 =>
    if a.inst ≠ 0x3F then s else
    match a.reg with
    | 0 => writeTherm s v
    | 4 => s.modMgmt fun m => { m with stage1 := v }
    | 5 => s.modMgmt fun m => { m with stage2 := v }
    | 6 => commitLog s v
    | _ => s
  | _ => s

/-! ### mrd and mwr (R337) -/

/-- A register read of one thread, ordered as with a fence.ar around it. -/
def mrdThread (o : Op2) (s : State) (t : Nat) : Act :=
  let a := s.gr t o.a.val
  match mDenied s t a false, mAddrOf a.toNat with
  | some f, _ => .bad f
  | none, some m => let (s1, v) := readReg (acquire s (s.clusterOf t)) m; .done (s1.setG t o.d.val v)
  | none, none => .bad (cOperand, 0)

/-- `mrd` (R337). -/
def execMrd (o : Op2) (s : State) : Host.Outcome State Fault Refusal := laneOp (.mrd o) (mrdThread o) s

/-- A register write of one thread, ordered as with a fence.ar around it. -/
def mwrThread (o : OpAB) (s : State) (t : Nat) : Act :=
  let a := s.gr t o.a.val
  match mDenied s t a true, mAddrOf a.toNat with
  | some f, _ => .bad f
  | none, some m => .done (writeReg (acquire s (s.clusterOf t)) m (s.gr t o.b.val) (s.isMgmt t))
  | none, none => .bad (cOperand, 0)

/-- `mwr` (R337). -/
def execMwr (o : OpAB) (s : State) : Host.Outcome State Fault Refusal := laneOp (.mwr o) (mwrThread o) s

/-! ### Register writes and reads as steps of the management core (R9) -/

/-- A write of CLUSTER.BANKMODE (R61). -/
def execClusterBankmodeWrite (cl : Nat) (v : Word) (s : State) : Host.Outcome State Fault Refusal :=
  .next (writeReg s ⟨1, cl, 0⟩ v true)

/-- A write of MEMO.TABLEn (R179). -/
def execMemoTableWrite (cl t : Nat) (v : Word) (s : State) : Host.Outcome State Fault Refusal :=
  .next (if t < 16 then writeReg s ⟨1, cl, 16 + t⟩ v true else s)

/-- A read of MEMO.AUDIT clears its counters (R191, R9). -/
def execMemoAuditRead (cl : Nat) (s : State) : Host.Outcome State Fault Refusal := .next (readReg s ⟨1, cl, 32⟩).1

/-- A read of PWR.ENERGY_LO latches for the reader (R247). -/
def execPwrEnergyLoRead (host : Bool) (s : State) : Host.Outcome State Fault Refusal := .next (readEnergyLo s host).1

/-- A write of ERRLOG.COMMIT (R484). -/
def execErrlogCommit (v : Word) (s : State) : Host.Outcome State Fault Refusal := .next (commitLog s v)

/-- A write of THERM.CTL (R486). -/
def execThermCtlWrite (v : Word) (s : State) : Host.Outcome State Fault Refusal := .next (writeTherm s v)

/-- A write of any register of the map by the management core (R9, R10); a reserved address and a read-only register take
nothing. -/
def execRegisterWrite (addr v : Word) (s : State) : Host.Outcome State Fault Refusal :=
  .next (match mAddrOf addr.toNat with
    | some m => if ((grants m).map (·.2)) = some .rw then writeReg s m v true else s
    | none => s)

/-- A write of CLUSTER.RATE (R244, R494). -/
def execClusterRateWrite (cl : Nat) (v : Word) (byMgmt : Bool) (s : State) : Host.Outcome State Fault Refusal :=
  .next (if clusterOut s cl then s else writeRate s cl v byMgmt)

end Sys2Proof.Machine
end

