-- ==== Sys2Proof/Machine/Governor.lean ====
section
/-! DEFINITION. The governor's choice of clock steps and lane rates (spec 01 R18, spec 07 R193, spec 10 R246). The estimates of board
power and of a frame's finish are left open: constants without a body, of the settings and of what was measured
(DESIGN CHOICE, log 12). -/

namespace Sys2Proof.Machine

/-- The governor's mode at this interval: 0 throughput, 1 frame-paced, 2 fixed. -/
def govMode (m : Mgmt) : Nat :=
  match bits m.govLive.toNat 1 0 with
  | 1 => if bits m.frameLive.toNat 23 0 = 0 then 0 else 1
  | 2 => 2
  | _ => 0

/-- LIMIT, PERIOD and FCTX as taken at the last interval (Table 10-5). -/
def Mgmt.limit (m : Mgmt) : Nat := bits m.govLive.toNat 57 48
def Mgmt.period (m : Mgmt) : Nat := bits m.frameLive.toNat 23 0
def Mgmt.frameCtx (m : Mgmt) : Nat := bits m.frameLive.toNat 47 32

/-- FSTEP and REQ of a cluster that a choice sets, the highest step first, then the highest lane rate. -/
def settings : List (Nat × Nat) := ((List.range 16).map (15 - ·)).flatMap fun f => [(f, 2), (f, 1), (f, 0)]

/-- Two frequency steps lie at most one apart (R246). -/
def oneStep (a b : Nat) : Bool := decide (a ≤ b + 1 ∧ b ≤ a + 1)

/-- FSTEP and REQ of every cluster. -/
def clusterRates (s : State) : List (Nat × Nat) := (List.range 18).map fun cl => ((s.cluster cl).fstep, (s.cluster cl).req)

/-- A pass of the governor: its number among the free values, the settings chosen so far, and the fabric's step. -/
structure Pass where
  (n : Nat) (rates : List (Nat × Nat)) (fabric : Nat)

/-- The estimated board power with a cluster at a setting. -/
def Pass.power (p : Pass) (cl : Nat) (c : Nat × Nat) : Nat := Config.boardPower p.n (p.rates.set cl c) p.fabric

/-- Takes a setting for a cluster. -/
def Pass.take (p : Pass) (cl : Nat) (c : Nat × Nat) : Pass := { p with rates := p.rates.set cl c }

/-- The frame that the governor paces: the earliest frame of FCTX that is under way, else the one that has just completed. -/
def pacedFrame (s : State) : Option Frame :=
  let l := (s.frames.filter fun e => e.2.ctx == s.mgmt.frameCtx).map (·.2)
  ((l.find? fun f => decide (f.phase < 2)).or l.head?)

/-- What the governor reads of a cluster and of the frame's progress (R192, R193). -/
def measured (s : State) (cl : Nat) (f : Frame) : List Nat :=
  let c := s.cluster cl
  [c.skipCnt.toNat, c.hitCnt.toNat, c.savedFc.toNat, f.began, s.clk.ao, f.phase, f.batches.length, (f.batches.filter (·.done)).length,
    f.tiles.length, (f.tiles.filter (·.visited)).length, f.items.length, (f.items.filter (·.retired)).length]

/-- The projected finish of a frame, in always-on periods, with a cluster at a setting. -/
def projected (s : State) (p : Pass) (cl : Nat) (f : Frame) (c : Nat × Nat) : Nat := Config.frameFinish p.n (measured s cl f) c.1 c.2

/-- Throughput mode: the highest setting whose estimated power stays within LIMIT (R246). -/
def fastest (s : State) (p : Pass) (cl : Nat) : Pass :=
  p.take cl ((settings.find? fun c => decide (p.power cl c ≤ s.mgmt.limit)).getD (0, 0))

/-- Frame-paced mode: of the settings within one step and within LIMIT, the one of least estimated power whose projected finish
lies at or before 95 % of PERIOD from the frame's start; where none does, the one that finishes first; where none is within
LIMIT, the one of least power (R18, R246). Without a frame the setting stays (DESIGN CHOICE, log 12). -/
def paced (s : State) (p : Pass) (cl : Nat) : Pass :=
  match pacedFrame s with
  | none => p
  | some f =>
    let near := settings.filter fun c => oneStep c.1 (s.cluster cl).base
    let ok := near.filter fun c => decide (p.power cl c ≤ s.mgmt.limit)
    let early := ok.filter fun c => decide (projected s p cl f c ≤ f.began + 95 * s.mgmt.period)
    let cheaper (a b : Nat × Nat) : Bool := decide (p.power cl a < p.power cl b)
    let sooner (a b : Nat × Nat) : Bool := decide (projected s p cl f a < projected s p cl f b)
    match ((leastBy cheaper early).or (leastBy sooner ok)).or (leastBy cheaper near) with
    | some c => p.take cl c
    | none => p

/-- Fixed mode: what software set, lowered where LIMIT caps it (R246). -/
def fixed (s : State) (p : Pass) (cl : Nat) : Pass :=
  let c := s.cluster cl
  let l := settings.filter fun x => decide (x.1 ≤ c.fstep ∧ x.2 ≤ c.req)
  p.take cl ((l.find? fun x => decide (p.power cl x ≤ s.mgmt.limit)).getD (0, 0))

/-- The choice for one cluster; one that the current start excludes has none (R13). -/
def chooseCluster (s : State) (p : Pass) (cl : Nat) : Pass :=
  if clusterOut s cl then p else
  match govMode s.mgmt with
  | 0 => fastest s p cl
  | 1 => paced s p cl
  | _ => fixed s p cl

/-- The settings that a pass begins with: the lowest in throughput mode, where clusters are raised one by one in ascending number
(DESIGN CHOICE, log 12). -/
def startPass (s : State) : Pass × State :=
  let (n, s1) := s.draw
  (if govMode s.mgmt = 0 then ⟨n, List.replicate 18 (0, 0), 0⟩ else ⟨n, clusterRates s, s.clk.fabricStep⟩, s1)

/-- The fabric's step in throughput mode: the highest within LIMIT (R246). -/
def chooseFabric (s : State) (p : Pass) : Nat :=
  if govMode s.mgmt ≠ 0 then s.clk.fabricStep else
  (((List.range 16).map (15 - ·)).find? fun k => decide (Config.boardPower p.n p.rates k ≤ s.mgmt.limit)).getD 0

/-- A cluster takes the setting of a pass. -/
def applyRate (s : State) (r : Nat × (Nat × Nat)) : State :=
  if clusterOut s r.1 then s else s.modCluster r.1 fun c => { c with fstep := r.2.1, req := r.2.2 }

/-- The governor chooses the settings of the clusters and of the fabric (R246). -/
def chooseRates (s : State) : State :=
  let (p0, s1) := startPass s
  let p := (List.range 18).foldl (chooseCluster s1) p0
  let s2 := ((List.range 18).map fun cl => (cl, nth p.rates cl (0, 0))).foldl applyRate s1
  { s2 with clk := { s2.clk with fabricStep := chooseFabric s1 p } }

/-- From an interval on, FSTEP changes by one step at most in frame-paced mode (R246). -/
def markBases (s : State) : State := (List.range 18).foldl (fun st cl => st.modCluster cl fun c => { c with base := c.fstep }) s

/-- The completion of a rendering launch of FCTX has the governor read the counters again in frame-paced mode (R193). -/
def governLaunch (s : State) (ctx : Nat) : State :=
  if govMode s.mgmt = 1 ∧ ctx = s.mgmt.frameCtx then chooseRates s else s

end Sys2Proof.Machine
end

