-- ==== Sys2Proof/Machine/Control.lean ====
section
/-! DEFINITION. Control transfer, nop, exit and the join instructions (spec 12 R291 to R298, spec 11 R264). -/

namespace Sys2Proof.Machine

/-- A target: the address of the instruction's word plus twice a signed offset (R259). -/
def targetOf (s : State) (off : Int) : Nat := wrapInt 64 (s.grp.cursor + 2 * off)

/-- The target is the preferred path of a group that parts (R264): k threads go to it, n fall through. -/
def prefersTarget (h : BHint) (k n : Nat) : Bool :=
  match h with
  | .likely => true
  | .unlikely => false
  | .none | .uniform => decide (n ≤ k)

/-- Where a thread of a two-way branch goes (DEDUCED, log 20). -/
def branchGoes (h : BHint) (target fall k n : Nat) (taken : Bool) : Goes :=
  let parts := k != 0 && n != 0
  if taken then .to target (parts && !prefersTarget h k n) else .to fall (parts && prefersTarget h k n)

/-- `nop` (R294). -/
def execNop (s : State) : Host.Outcome State Fault Refusal := laneOp .nop (fun s _ => .done s) s

/-- A thread takes a bra (R291). -/
def takesBra (o : OpBra) (s : State) (t : Nat) : Bool := xor (s.pr t o.p.val) o.neg

/-- `bra` (R291). -/
def execBra (o : OpBra) (s : State) : Host.Outcome State Fault Refusal :=
  let taken := s.grp.threads.filter (takesBra o s)
  .next (issueTo (.bra o) (fun s _ => Out.ok s) (fun _ t =>
    branchGoes o.bh (targetOf s o.off.toInt) (s.grp.cursor + 4) taken.length (s.grp.threads.length - taken.length) (takesBra o s t)) s)

/-- `call` (R292) (DEDUCED, log 20). -/
def execCall (o : OpCall) (s : State) : Host.Outcome State Fault Refusal :=
  .next (issueTo (.call o) (runThreads fun st t => .done (st.setG t o.d.val (wordOf (s.grp.cursor + 4)))) (fun _ t =>
    branchGoes .none (targetOf s o.off.toInt) (s.grp.cursor + 4) s.active.length (s.grp.threads.length - s.active.length)
      (s.guardOf t)) s)

/-- The cause of a jmp target (R293). -/
def jmpBad (a : Word) : Option Flt :=
  if bits a.toNat 63 52 != 0 then some (cOperand, a) else if a.getLsbD 0 then some (cAlign, a) else none

/-- The address that a thread of a jmp reaches. -/
def jmpReach (o : OpJmp) (s : State) (t : Nat) : Nat := if s.guardOf t then bits (s.gr t o.a.val).toNat 51 0 else s.grp.cursor + 4

/-- Threads of a jmp that go on. -/
def jmpGood (o : OpJmp) (s : State) : List Nat :=
  s.grp.threads.filter fun t => !(s.guardOf t) || (jmpBad (s.gr t o.a.val)).isNone

/-- The address that most threads hold, the lowest of equals. -/
def mostHeld (l : List Nat) : Nat :=
  let n (a : Nat) := (l.filter fun x => x == a).length
  (leastBy (fun a b => decide (n b < n a) || (n a == n b && decide (a < b))) (dedup l)).getD 0

/-- The preferred address of a jmp's group (R293): by the hint where one target meets the fall-through. -/
def jmpPrefers (o : OpJmp) (s : State) : Nat :=
  let l := (jmpGood o s).map (jmpReach o s)
  let fall := s.grp.cursor + 4
  match (dedup l).filter fun a => a != fall with
  | [target] => if l.contains fall then
      (if prefersTarget o.bh (l.filter fun a => a == target).length (l.filter fun a => a == fall).length then target else fall)
      else target
  | _ => mostHeld l

/-- `jmp` (R293). -/
def execJmp (o : OpJmp) (s : State) : Host.Outcome State Fault Refusal :=
  .next (issueTo (.jmp o) (runThreads fun st t => match jmpBad (st.gr t o.a.val) with
      | some f => .bad f
      | none => .done st) (fun _ t => .to (jmpReach o s t) (jmpReach o s t != jmpPrefers o s)) s)

/-- `exit` (R294). -/
def execExit (s : State) : Host.Outcome State Fault Refusal :=
  .next (issueTo .exit (fun s ths =>
    let o := runThreads (fun s t => .done (exitThread s t)) s ths
    { o with s := settleExits o.s (gangsOf s ths) })
    (fun _ t => if s.guardOf t then .own else .next) s)

/-- `jset` (R296): the mask is A of the participant at the lowest position. -/
def execJset (o : OpJset) (s : State) : Host.Outcome State Fault Refusal :=
  gangOp (.jset o) (fun s gid ps => match ps with
    | t :: _ => Out.ok (declareJoin s gid o.n.val (s.gr t o.a.val).toNat)
    | [] => Out.ok s) s

/-- `jarrive` (R297): all arrivals of a group together, then the tests of R40. -/
def execJarrive (n : JReg) (s : State) : Host.Outcome State Fault Refusal :=
  gangOp (.jarrive n) (fun s gid ps => Out.ok (settleJoin (arrive s gid n.val (ps.map fun t => (s.thread t).pos)) gid n.val)) s

/-- The effect of a jwait on one thread (R298). -/
def jwaitThread (gid n pd : Nat) (s : State) (t : Nat) : State :=
  match (joinOf s gid n).st with
  | .opened => block s t (.join n pd)
  | .abandoned => s.setP t pd false
  | .idle | .complete => s.setP t pd true

/-- `jwait` (R298). -/
def execJwait (o : OpJwait) (s : State) : Host.Outcome State Fault Refusal :=
  gangOp (.jwait o) (fun s gid ps => Out.ok (settleJoins (ps.foldl (jwaitThread gid o.n.val o.p.val) s) gid)) s

end Sys2Proof.Machine
end

