-- ==== Sys2Proof/Machine/Memo.lean ====
section
/-! DEFINITION. Pure regions (spec 15 R391 to R395, spec 07 R183 to R188): pure, mkey, mexcl, mprobe, mstore and pend. -/

namespace Sys2Proof.Machine

/-- Changes the open region of a thread. -/
def modRegion (s : State) (t : Nat) (f : Region → Region) : State := s.modThread t fun x => { x with region := x.region.map f }

/-- The region that a pure opens (R391): its end is relative to the pure word (DEDUCED, log 38). -/
def newRegion (o : OpPure) (s : State) (t : Nat) : Region :=
  { pureAt := s.grp.pc, table := o.t.val, finAt := wrapInt 64 (s.grp.cursor + 2 * o.off.toInt), fold := [wordOf s.grp.pc, wordOf o.t.val],
    finished := none, unusable := false, audit := false, since := s.nowOf t, mode := memoModeOf s (s.ctxOf t) }

/-- pure of one thread (R391). -/
def pureThread (o : OpPure) (s : State) (t : Nat) : Act :=
  match (s.thread t).region with
  | some _ => .bad (cOperand, 0)
  | none => .done (s.modThread t fun x => { x with region := some (newRegion o s t) })

/-- `pure` (R391). -/
def execPureOp (o : OpPure) (s : State) : Host.Outcome State Fault Refusal := laneOp (.pureOp o) (pureThread o) s

/-- The code of a kind (R183). -/
def kindNum : KKind → Nat
  | .raw => 0 | .f64 => 1 | .f32 => 2 | .f32x2 => 3 | .f16 => 4 | .f16x4 => 5 | .bf16 => 6 | .bf16x4 => 7

/-- An element of a 16-bit format widened to FP32 (R184). -/
def widen (f : Fmt) (c : Nat) : Nat := roundF fFP32 .rn (decodeF f c)

/-- The FP32 elements that a kind names in a register (R392). -/
def kindElems (k : KKind) (a : Nat) : List Nat :=
  match k with
  | .raw | .f64 => []
  | .f32 => [a % 2 ^ 32]
  | .f32x2 => elems 32 a
  | .f16 => [widen fFP16 (a % 2 ^ 16)]
  | .f16x4 => (elems 16 a).map (widen fFP16)
  | .bf16 => [widen fBF16 (a % 2 ^ 16)]
  | .bf16x4 => (elems 16 a).map (widen fBF16)

/-- Codes packed two to a word, a single one zero-extended (R184). -/
def packCodes : List Nat → List Word
  | [] => []
  | [x] => [wordOf x]
  | x :: y :: l => wordOf (x + y * 2 ^ 32) :: packCodes l

/-- The value words that an mkey folds; none when an element is a NaN (R184, R185). -/
def keyWords (k : KKind) (cls a : Nat) : Option (List Word) :=
  match k with
  | .raw => some [wordOf a]
  | .f64 => if (decodeF fFP64 a).isNan then none else some [wordOf (if a = 2 ^ 63 then 0 else a)]
  | _ => (tolCodes cls (kindElems k a)).map packCodes

/-- The descriptor word of R183 (DEDUCED, log 38). -/
def keyDesc (cls kind reg : Nat) (excluded : Bool) : Word := wordOf (cls + kind * 2 ^ 3 + reg * 2 ^ 8 + b2n excluded * 2 ^ 14)

/-- The open region of a thread whose key is not finished (Table 15-9). -/
def openKey (s : State) (t : Nat) : Option Region := (s.thread t).region.bind fun r => if r.finished.isNone then some r else none

/-- mkey of one thread (R392, R187). -/
def mkeyThread (o : OpMkey) (s : State) (t : Nat) : Act :=
  match openKey s t with
  | none => .bad (cOperand, 0)
  | some r =>
    if kindNum o.kind ≤ 1 ∧ o.cls.val ≠ 0 then .bad (cOperand, 0) else
    let cls := if r.mode = 1 then 0 else o.cls.val
    let d := keyDesc cls (kindNum o.kind) o.a.val false
    match keyWords o.kind cls (s.gr t o.a.val).toNat with
    | some ws => .done (modRegion s t fun r => { r with fold := r.fold ++ d :: ws })
    | none => .done (modRegion s t fun r => { r with fold := r.fold ++ [d], unusable := true })

/-- `mkey` (R392). -/
def execMkey (o : OpMkey) (s : State) : Host.Outcome State Fault Refusal := laneOp (.mkey o) (mkeyThread o) s

/-- `mexcl` (R392). -/
def execMexcl (o : OpMexcl) (s : State) : Host.Outcome State Fault Refusal :=
  laneOp (.mexcl o) (fun s t => match openKey s t with
    | none => .bad (cOperand, 0)
    | some _ => .done (modRegion s t fun r => { r with fold := r.fold ++ [keyDesc 0 (kindNum o.kind) o.a.val true] })) s

/-- The key of a region (R183). -/
def regionKey (r : Region) : Nat := r.finished.getD (signature64 (r.fold.map (·.toNat)))

/-- The thread's open region on a table (Table 15-9). -/
def regionOn (s : State) (t table : Nat) : Option Region := (s.thread t).region.bind fun r => if r.table = table then some r else none

/-- mprobe of one thread (R393, R188); an audited hit that is pending still when the next one is audited is counted without comparison
(DEDUCED, log 38). -/
def mprobeThread (o : OpMprobe) (s : State) (t : Nat) : Act :=
  match regionOn s t o.t.val with
  | none => .bad (cOperand, 0)
  | some r =>
    let key := regionKey r
    let s1 := modRegion s t fun r => { r with finished := some key }
    if r.unusable ∨ r.mode = 3 then .done s1 else
    match probeTable s1 (s.clusterOf t) o.t.val (s.ctxOf t) key (r.mode == 2) with
    | (s2, .miss) => .done s2
    | (s2, .audited) => .done (modRegion (endAudit s2 t r.audit) t fun r => { r with audit := true })
    | (s2, .hit payload _) =>
      let n := o.p.val + 1
      let s3 := setGroup s2 t (2 * o.d.val) (2 * n) (natOfBytes (payload.take (16 * n)))
      .done ((endAudit s3 t r.audit).modThread t fun x => { x with region := none })

/-- A thread of the group that has just hit: its region has closed. -/
def hasHit (s st : State) (t : Nat) : Bool := s.guardOf t && (s.thread t).region.isSome && (st.thread t).region.isNone

/-- `mprobe` (R393): a hit continues at the end clause. -/
def execMprobe (o : OpMprobe) (s : State) : Host.Outcome State Fault Refusal :=
  .next (issueFix (.mprobe o) (runThreads (mprobeThread o)) (fun st t =>
    let hits := (s.grp.threads.filter (hasHit s st)).length
    branchGoes .none ((((s.thread t).region).map (·.finAt)).getD 0) (s.grp.cursor + 4) hits (s.grp.threads.length - hits) (hasHit s st t))
    (fun s0 st t => ([], if hasHit s0 st t then [] else written (Instr.mprobe o).uses)) s)

/-- mstore of one thread (R394, R188, Table 22-6). -/
def mstoreThread (o : OpMstore) (s : State) (t : Nat) : Act :=
  match regionOn s t o.t.val with
  | none => .bad (cOperand, 0)
  | some r =>
    let p := o.p.val + 1
    let cl := s.clusterOf t
    if tableUsable (s.cluster cl) o.t.val ∧ tabPayload (nth (s.cluster cl).memoTable o.t.val 0) < 16 * p then .bad (cOperand, wordOf p) else
    let key := regionKey r
    let payload := groupBytes s t (2 * o.a.val) (2 * p)
    let s1 := modRegion s t fun r => { r with finished := some key, audit := false }
    let s2 := if r.audit then auditCompare s1 cl o.t.val (s.ctxOf t) key payload else s1
    .done (if r.unusable ∨ r.mode = 3 then s2 else insertEntry s2 cl o.t.val (s.ctxOf t) key payload (s.nowOf t - r.since))

/-- `mstore` (R394). -/
def execMstore (o : OpMstore) (s : State) : Host.Outcome State Fault Refusal := laneOp (.mstore o) (mstoreThread o) s

/-- `pend` (R394). -/
def execPend (s : State) : Host.Outcome State Fault Refusal := laneOp .pend (fun s t => .done (closeRegion s t)) s

end Sys2Proof.Machine
end

