-- ==== Sys2Proof/Machine/Rays.lean ====
section
/-! DEFINITION. Ray queries (spec 15 R382 to R387): the box and triangle tests (spec 08 R198 to R200), traversal (R201, spec 20
R467, R468), shader-table records (R212), reuse of results (R213), and the instructions rqset, rqbegin, rqstep, rqreport,
rqcommit, rqget and rqend. -/

namespace Sys2Proof.Machine

/-! ### Values -/

def f32 (c : Nat) : Fl := decodeF fFP32 (c % 2 ^ 32)
/-- The value rounded to FP32. -/
def rnd32 (m : RMode) (x : Fl) : Fl := decodeF fFP32 (roundF fFP32 m x)
def code32 (x : Fl) : Nat := roundF fFP32 .rn x
def Fl.isFinite (x : Fl) : Bool := !x.isNan && !x.isInf
def maxList : List Fl → Fl
  | [] => .nan
  | x :: xs => xs.foldl Fl.maxN x
def minList : List Fl → Fl
  | [] => .nan
  | x :: xs => xs.foldl Fl.minN x
def axis (v : List Fl) (a : Nat) : Fl := nth v a .nan
/-- The FP32 values of consecutive 32-bit fields. -/
def f32s (x n : Nat) : List Fl := (List.range n).map fun k => f32 (x / 2 ^ (32 * k))

/-- A ray: origin, direction and interval (R199). -/
structure Ray where
  (o : List Fl) (d : List Fl) (tmin : Fl) (tmax : Fl)

/-- What a box test gives. -/
structure BoxHit where
  (entry : Fl) (tentry : Fl) (texit : Fl)

/-- The interval of one axis of a box test; none for a miss (R199). -/
def boxAxis (r : Ray) (lo hi : List Fl) (a : Nat) : Option (Fl × Fl) :=
  let o := axis r.o a
  let d := axis r.d a
  if d.isZero then (if o.lt (axis lo a) || (axis hi a).lt o then none else some (.inf true, .inf false)) else
  let k := rnd32 .rn ((Fl.ofNat 1).div d)
  let p := ((axis lo a).sub .rn o).mul k
  let q := ((axis hi a).sub .rn o).mul k
  if p.isNan || q.isNan then none else some (rnd32 .rd (p.minN q), rnd32 .ru (p.maxN q))

/-- The ray-box test (R199). A NaN product makes it miss as a NaN input does (DEDUCED) (DEDUCED, log 39). -/
def boxTest (r : Ray) (lo hi : List Fl) : Option BoxHit :=
  if (r.o ++ r.d ++ lo ++ hi ++ [r.tmin, r.tmax]).any Fl.isNan then none else
  match (List.range 3).mapM (boxAxis r lo hi) with
  | none => none
  | some l =>
    let entry := maxList (l.map (·.1))
    let exit := minList (l.map (·.2))
    if entry.le exit && entry.le r.tmax && r.tmin.le exit then some ⟨entry, entry.maxN r.tmin, exit.minN r.tmax⟩ else none

/-- What a triangle test gives. -/
structure TriHit where
  (t : Fl) (u : Fl) (v : Fl) (front : Bool)

/-- The axis of the greatest magnitude, the lowest of equals (R200). -/
def majorAxis (d : List Fl) : Nat := (leastBy (fun a b => (axis d b).abs.lt (axis d a).abs) [0, 1, 2]).getD 0

/-- A vertex in the sheared space of a ray, with the rounded values on the way (R200). -/
def shearVertex (r : Ray) (kx ky kz : Nat) (sx sy sz : Fl) (v : List Fl) : List Fl × List Fl :=
  let p := (List.range 3).map fun a => rnd32 .rn ((axis v a).sub .rn (axis r.o a))
  let w := [rnd32 .rn ((axis p kx).sub .rn (sx.mul (axis p kz))), rnd32 .rn ((axis p ky).sub .rn (sy.mul (axis p kz))),
            rnd32 .rn (sz.mul (axis p kz))]
  (w, p ++ w)

/-- x1 × y2 − x2 × y1, exactly. -/
def cross2 (a b : List Fl) : Fl := ((axis a 0).mul (axis b 1)).sub .rn ((axis a 1).mul (axis b 0))

/-- The ray-triangle test (R200) (DEDUCED, log 39). -/
def triTest (r : Ray) (va vb vc : List Fl) : Option TriHit :=
  if (r.o ++ r.d ++ va ++ vb ++ vc ++ [r.tmin, r.tmax]).any Fl.isNan then none else
  let kz := majorAxis r.d
  let kx0 := (kz + 1) % 3
  let ky0 := (kx0 + 1) % 3
  let swap := (axis r.d kz).lt (.ofNat 0)
  let kx := if swap then ky0 else kx0
  let ky := if swap then kx0 else ky0
  let sx := rnd32 .rn ((axis r.d kx).div (axis r.d kz))
  let sy := rnd32 .rn ((axis r.d ky).div (axis r.d kz))
  let sz := rnd32 .rn ((Fl.ofNat 1).div (axis r.d kz))
  let a := shearVertex r kx ky kz sx sy sz va
  let b := shearVertex r kx ky kz sx sy sz vb
  let c := shearVertex r kx ky kz sx sy sz vc
  if !((sx :: sy :: sz :: (a.2 ++ b.2 ++ c.2)).all Fl.isFinite) then none else
  let u := cross2 c.1 b.1
  let v := cross2 a.1 c.1
  let w := cross2 b.1 a.1
  let zero := Fl.ofNat 0
  if [u, v, w].any (·.lt zero) && [u, v, w].any (zero.lt ·) then none else
  let det := (u.add .rn v).add .rn w
  if det.isZero then none else
  let t := rnd32 .rn ((((u.mul (axis a.1 2)).add .rn (v.mul (axis b.1 2))).add .rn (w.mul (axis c.1 2))).div det)
  let bu := rnd32 .rn (v.div det)
  let bv := rnd32 .rn (w.div det)
  if [t, bu, bv].all Fl.isFinite && r.tmin.le t && t.le r.tmax then some ⟨t, bu, bv, zero.lt det⟩ else none

/-! ### Nodes (R196 to R198) -/

def refKind (r : Nat) : Nat := bits r 31 29
def refIndex (r : Nat) : Nat := r % 2 ^ 29
/-- Bytes of a node. -/
def nodeBytes (r : Nat) : Nat := if refKind r = 2 ∨ refKind r = 5 then 128 else 64

/-- One bound of a decoded child box (R198). -/
def boundOf (m : RMode) (o : Nat) (q : Nat) (e : Int) : Fl := rnd32 m ((f32 o).add .rn (Fl.scaled q e))

/-- The decoded box of child k of a box node with n slots (R198). -/
def childBox (x n k : Nat) : List Fl × List Fl :=
  let q := x / 2 ^ ((if n = 4 then 256 else 384) + 48 * k)
  let e (a : Nat) : Int := sextNat 8 (bits x (8 * a + 103) (8 * a + 96))
  ((List.range 3).map fun a => boundOf .rd (x / 2 ^ (32 * a)) (bits q (16 * a + 7) (16 * a)) (e a),
   (List.range 3).map fun a => boundOf .ru (x / 2 ^ (32 * a)) (bits q (16 * a + 15) (16 * a + 8) + 1) (e a))

/-- Child reference k of a box node. -/
def childRef (x k : Nat) : Nat := bits x (32 * k + 159) (32 * k + 128)

/-! ### The descriptor (Table 15-6) -/

/-- The descriptor as one number; 0 where none is set. -/
def Query.descNat (q : Query) : Nat := joinElems 64 ((q.desc.getD []).map (·.toNat))
def descFlags (d : Nat) : Nat := bits d 335 320
def descFlag (d n : Nat) : Bool := bit (descFlags d) n

/-- The world-space ray of a descriptor. -/
def worldRay (d tmax : Nat) : Ray := ⟨f32s (d / 2 ^ 64) 3, f32s (d / 2 ^ 192) 3, f32 (bits d 191 160), f32 tmax⟩

/-- The ray that a step of the traversal uses: object space below an instance. -/
def stepRay (d tmax : Nat) (e : RayStep) : Ray :=
  match e.inst with
  | some i => { worldRay d tmax with o := i.o.map f32, d := i.d.map f32 }
  | none => worldRay d tmax

/-- The ray visits no node (R384). -/
def rayBlind (d : Nat) : Bool :=
  !((f32s (d / 2 ^ 64) 3 ++ f32s (d / 2 ^ 192) 3).all Fl.isFinite) || (f32 (bits d 191 160)).isNan || (f32 (bits d 319 288)).isNan

/-! ### Traversal (R201) -/

/-- A row of the transform applied to a vector, with one rounding. -/
def rowTimes (m : List Fl) (i : Nat) (v : List Fl) (withT : Bool) : Nat :=
  let p := (List.range 3).map fun j => (axis m (4 * i + j)).mul (axis v j)
  code32 (((axis p 0).add .rn (axis p 1)).add .rn (axis p 2) |>.add .rn (if withT then axis m (4 * i + 3) else .num true 0 1))

/-- The instance of a node, with the ray in its object space. -/
def instOf (x : Nat) (r : Ray) : RayInst :=
  let m := f32s x 12
  { o := (List.range 3).map fun i => rowTimes m i r.o true, d := (List.range 3).map fun i => rowTimes m i r.d false,
    off := bits x 567 544, idx := bits x 535 512, id := bits x 599 576, fopq := bit x 568, fnopq := bit x 569, nocull := bit x 570 }

/-- The children of a box node that the ray hits, nearest first (R201). -/
def boxChildren (x n : Nat) (r : Ray) (e : RayStep) : List RayStep :=
  let hits := (List.range n).filterMap fun k =>
    if refKind (childRef x k) = 0 then none else
    let b := childBox x n k
    (boxTest r b.1 b.2).map fun h => RayStep.mk (childRef x k) (code32 h.entry) (e.depth + 1) e.inst
  sortBy (fun (a b : RayStep) => (f32 a.ent).lt (f32 b.ent)) hits

/-- Opacity of a leaf after the overrides (R201, Table 15-7). -/
def leafOpaque (d : Nat) (own : Bool) (i : Option RayInst) : Bool :=
  if descFlag d 0 then true else if descFlag d 1 then false else
  match i with
  | some i => if i.fopq then true else if i.fnopq then false else own
  | none => own

/-- The shader-table index of a hit (R212). -/
def shaderIndex (d geom : Nat) (i : Option RayInst) : Nat := ((i.map (·.off)).getD 0) + geom * bits d 367 352 + bits d 351 344

/-- The address of a shader-table record (R212). -/
def recordAddr (d index : Nat) : Nat := (bits d 447 384 + index * 32 * bits d 495 480) % 2 ^ 64

/-- The parts of a hit that do not depend on the kind of the leaf. -/
def hitBase (d : Nat) (e : RayStep) (kind prim geom : Nat) (opq : Bool) : RayHit :=
  let idx := shaderIndex d geom e.inst
  { kind := kind, t := 0, u := 0, v := 0, prim := prim, geom := geom, front := false, isOpaque := opq, instIdx := (e.inst.map (·.idx)).getD 0,
    instId := (e.inst.map (·.id)).getD 0, index := idx, record := recordAddr d idx, attrs := 0, tentry := 0, texit := 0,
    obj := match e.inst with
      | some i => i.o ++ i.d
      | none => (List.range 3).map (fun k => bits d (32 * k + 95) (32 * k + 64)) ++ (List.range 3).map fun k => bits d (32 * k + 223) (32 * k + 192),
    accepted := false, reused := false }

/-- The hit of a leaf under the descriptor's flags; none for a leaf that is skipped or missed (R201, Table 15-7). -/
def leafHit (d x : Nat) (tri : Bool) (r : Ray) (e : RayStep) : Option RayHit :=
  let base := if tri then 288 else 192
  let opq := leafOpaque d (bit x (base + 56)) e.inst
  if descFlag d (if tri then 7 else 8) || descFlag d (if opq then 5 else 6) then none else
  let h := hitBase d e (if tri then 1 else 2) (bits x (base + 31) base) (bits x (base + 55) (base + 32)) opq
  if tri then
    match triTest r (f32s x 3) (f32s (x / 2 ^ 96) 3) (f32s (x / 2 ^ 192) 3) with
    | none => none
    | some b =>
      if !((e.inst.map (·.nocull)).getD false) && descFlag d (if b.front then 4 else 3) then none
      else some { h with t := code32 b.t, u := code32 b.u, v := code32 b.v, front := b.front }
  else
    (boxTest r (f32s x 3) (f32s (x / 2 ^ 96) 3)).map fun b =>
      { h with t := code32 b.tentry, tentry := code32 b.tentry, texit := code32 b.texit }

/-- Commits a hit: tmax falls to its t, and TERMFIRST ends the query (R385, R386). -/
def Query.committed (q : Query) (h : RayHit) : Query :=
  let q1 := { q with commit := some h, tmax := h.t, cand := none }
  if descFlag q.descNat 2 then { q1 with phase := 2, stack := [] } else q1

/-- A plain load by a thread that traverses (R384). -/
def rayLoad (s : State) (t a n : Nat) : State × Except Flt Nat :=
  match resolveNow s t .gl a n .load with
  | (s1, .error f) => (s1, .error f)
  | (s1, .ok k) =>
    match poisonFlt s1 k n with
    | some f => (s1, .error f)
    | none => let (s2, bs) := loadAt s1 (s1.clusterOf t) k n; (s2, .ok (natOfBytes bs))

/-- What one visit gave: traversal goes on; a cause; a candidate. -/
inductive Visit where
  | on (s : State) (q : Query)
  | bad (s : State) (q : Query) (f : Flt)
  | cand (s : State) (q : Query)

/-- What follows a triangle or box hit: a commit, a candidate with its record's header, or nothing (R385 step 2, R467). -/
def takeHit (s : State) (t : Nat) (q : Query) (h : RayHit) : Visit :=
  let d := q.descNat
  let nearer := (f32 h.t).lt (f32 q.tmax)
  if h.kind = 1 ∧ h.isOpaque then .on s (if nearer then q.committed h else q) else
  let q1 := { q with cand := some h }
  if bits d 479 448 ≤ h.index then .bad s { q1 with faulted := true } (cShader, wordOf h.index) else
  match rayLoad s t h.record 32 with
  | (s1, .error f) => .bad s1 { q1 with faulted := true } f
  | (s1, .ok w) =>
    if w ≠ 0 then .cand s1 { q1 with reported := true }
    else .on s1 (if nearer then q.committed { h with isOpaque := true } else q)

/-- A reference that R468 rejects. -/
def refBad (units : Nat) (e : RayStep) : Bool :=
  decide (6 ≤ refKind e.ref) || (nodeBytes e.ref == 128 && refIndex e.ref % 2 == 1) || decide (units ≤ refIndex e.ref) || decide (48 < e.depth)

/-- One visit: the top of the stack (R201). -/
def visit (s : State) (t : Nat) (q : Query) (e : RayStep) (rest : List RayStep) : Visit :=
  let d := q.descNat
  let pool := (s.ctx (s.ctxOf t)).pool
  let q0 := { q with stack := rest }
  if refKind e.ref = 0 ∨ (f32 q.tmax).lt (f32 e.ent) then .on s q0
  else if refBad (bits pool 92 64) e then .bad s { q0 with faulted := true } (cOperand, wordOf (e.ref + e.depth % 2 ^ 8 * 2 ^ 32)) else
  match rayLoad s t (bits pool 51 16 * 2 ^ 16 + 64 * refIndex e.ref) (nodeBytes e.ref) with
  | (s1, .error f) => .bad s1 { q with faulted := true } f
  | (s1, .ok x) =>
    let r := stepRay d q.tmax e
    match refKind e.ref with
    | 1 => .on s1 { q0 with stack := boxChildren x 4 r e ++ rest }
    | 2 => .on s1 { q0 with stack := boxChildren x 8 r e ++ rest }
    | 5 =>
      if Nat.land (bits x 543 536) (bits d 343 336) = 0 then .on s1 q0
      else .on s1 { q0 with stack := ⟨bits x 479 448, e.ent, 0, some (instOf x r)⟩ :: rest }
    | k =>
      match leafHit d x (k == 3) r e with
      | some h => takeHit s1 t q0 h
      | none => .on s1 q0

/-- How a run of visits ended. -/
inductive Walked where
  | more (s : State) (q : Query)
  | bad (s : State) (q : Query) (f : Flt)
  | stop (s : State) (q : Query)

/-- Visits nodes until the query is Done, a candidate is found or a cause arises; the fuel bounds one issue. -/
def rayWalk (s : State) (t : Nat) (q : Query) : Nat → Walked
  | 0 => .more s q
  | fuel + 1 =>
    if q.phase = 2 then .stop s q else
    match q.stack with
    | [] => .stop s { q with phase := 2 }
    | e :: rest =>
      match visit s t q e rest with
      | .on s1 q1 => rayWalk s1 t q1 fuel
      | .bad s1 q1 f => .bad s1 q1 f
      | .cand s1 q1 => .stop s1 q1

/-! ### The instructions -/

/-- A query that holds nothing but its descriptor. -/
def Query.idle (d : Option (List Word)) : Query :=
  { phase := 0, desc := d, hdr := 0, gen := 0, pinned := false, stack := [], cand := none, commit := none, tmax := 0, key := none, audit := false,
    reported := false, faulted := false, since := 0 }

/-- The query of a thread. -/
def queryOf (s : State) (t : Nat) : Query := ((s.thread t).query).getD (.idle none)

def setQuery (s : State) (t : Nat) (q : Query) : State := s.modThread t fun x => { x with query := some q }

/-- What rqset rejects (R383, Table 15-9). -/
def descBad (d : Nat) : Bool := bits d 511 496 != 0 || bits d 383 376 != 0 || bits (descFlags d) 15 9 != 0 || bits d 495 480 == 0

/-- rqset of one thread (R383). -/
def rqsetThread (o : Op1) (s : State) (t : Nat) : Act :=
  let ws := (List.range 8).map fun k => s.gr t (o.a.val + k)
  let d := joinElems 64 (ws.map (·.toNat))
  if (queryOf s t).phase ≠ 0 ∨ descBad d then .bad (cOperand, 0)
  else if bits d 63 0 % 64 ≠ 0 then .bad (cAlign, wordOf (bits d 63 0))
  else if bits d 447 384 % 32 ≠ 0 then .bad (cAlign, wordOf (bits d 447 384))
  else .done (setQuery s t { queryOf s t with desc := some ws })

/-- `rqset` (R383). -/
def execRqset (o : Op1) (s : State) : Host.Outcome State Fault Refusal := laneOp (.rqset o) (rqsetThread o) s

/-- A live generation of the structure of a header, with its number in the table (R208, R473). -/
def liveGen (s : State) (ctx hdr gen : Nat) : Option (Nat × Gen) :=
  match structAt s ctx hdr with
  | none => none
  | some k => (s.structs.get? k).bind fun t => (t.gens.find? fun g => g.num == gen && genLive t g).map fun g => (k, g)

/-- A read of a structure's header: one atomic step on its current bytes, with the causes of a load (R209, R390)
(DEDUCED, log 40). -/
def headerRead (s : State) (t a : Nat) : State × Except Flt Nat :=
  match resolveNow s t .gl a 64 .load with
  | (s1, .error f) => (s1, .error f)
  | (s1, .ok k) =>
    match poisonFlt s1 k 64 with
    | some f => (s1, .error f)
    | none => (s1, .ok (readNat s1.mem.cells k 64))

/-- VALID and CURGEN of a header (Table 8-2). -/
def headerValid (h : Nat) : Bool := bit h 328
def headerGen (h : Nat) : Nat := h % 2 ^ 32

/-- The pin of R209 on a generation, or on the current one: the state, and the structure and generation pinned. A current
generation that the pin table does not hold as live is logged (R473). -/
def takePin (s : State) (ctx hdr h : Nat) (want : Option Nat) : State × Option (Nat × Gen) :=
  match want with
  | some g =>
    match liveGen s ctx hdr g with
    | some (k, x) => (addPin s k x.num, some (k, x))
    | none => (s, none)
  | none =>
    if !(headerValid h) then (s, none) else
    match liveGen s ctx hdr (headerGen h) with
    | some (k, x) => (addPin s k x.num, some (k, x))
    | none => (logRender s 0xFFFF ctx hdr (headerGen h), none)

/-- The codes of the ray under a class, as the words of R213. -/
def reuseCodes (cls d : Nat) : Option (List Nat) :=
  (tolCodes cls [bits d 95 64, bits d 127 96, bits d 159 128, bits d 223 192, bits d 255 224, bits d 287 256, bits d 191 160, bits d 319 288]).map
    fun c => [nth c 0 0 + nth c 1 0 * 2 ^ 32, nth c 2 0, nth c 3 0 + nth c 4 0 * 2 ^ 32, nth c 5 0, nth c 6 0 + nth c 7 0 * 2 ^ 32]

/-- The reuse key of a query (R213); none where reuse is not enabled, the mode is off or a value is a NaN. -/
def reuseKey (s : State) (ctx d gen : Nat) : Option Nat :=
  let mode := memoModeOf s ctx
  if !(bit d 375) || mode = 3 then none else
  let cls := if mode = 1 then 0 else bits d 370 368
  (reuseCodes cls d).map fun c => signature64 ([bits d 63 0, gen, descFlags d + bits d 343 336 * 2 ^ 32 + cls * 2 ^ 40] ++ c)

/-- The committed hit of a reuse payload (R213); none where the committed flag is clear. -/
def payloadHit (p : Nat) : Option RayHit :=
  if bit p 159 then some { kind := 1, t := p % 2 ^ 32, u := bits p 63 32, v := bits p 95 64, prim := bits p 127 96, geom := bits p 151 128,
                           front := false, isOpaque := true, instIdx := bits p 191 160, instId := 0, index := 0, record := 0, attrs := 0, tentry := 0,
                           texit := 0, obj := List.replicate 6 0, accepted := false, reused := true }
  else none

/-- The payload of a result (R213). -/
def resultPayload (h : Option RayHit) : List Byte :=
  bytesOfNat (match h with
    | some h => h.t + h.u * 2 ^ 32 + h.v * 2 ^ 64 + h.prim * 2 ^ 96 + (h.geom + 2 ^ 31) * 2 ^ 128 + h.instIdx * 2 ^ 160
    | none => 0) 32

/-- Tries a reuse of the result at rqbegin: whether it hit (R213, R188) (DEDUCED, log 39). -/
def tryReuse (s : State) (t : Nat) (q : Query) : State × Query × Bool :=
  let d := q.descNat
  match reuseKey s (s.ctxOf t) d q.gen with
  | none => (s, q, false)
  | some key =>
    match probeTable s (s.clusterOf t) (bits d 374 371) (s.ctxOf t) key (memoModeOf s (s.ctxOf t) == 2) with
    | (s1, .miss) => (s1, { q with key := some key }, false)
    | (s1, .audited) => (s1, { q with key := some key, audit := true }, false)
    | (s1, .hit payload _) =>
      let h := payloadHit (natOfBytes (payload.take 32))
      (s1, { q with phase := 2, stack := [], commit := h, tmax := (h.map (·.t)).getD q.tmax }, true)

/-- The fresh query of an rqbegin, on a root. -/
def Query.begun (q : Query) (gen root now : Nat) : Query :=
  let d := q.descNat
  { Query.idle q.desc with phase := 1, hdr := bits d 63 0, gen := gen, pinned := true, tmax := bits d 319 288, since := now,
                           stack := if rayBlind d then [] else [⟨root, 0xFF800000, 0, none⟩] }

/-- rqbegin of one thread (R384) (DEDUCED, log 39). -/
def rqbeginThread (o : Op2) (s : State) (t : Nat) : Act :=
  let a := (s.gr t o.a.val).toNat
  let q := queryOf s t
  let d := q.descNat
  if q.phase ≠ 0 ∨ q.desc = none ∨ 2 ^ 33 ≤ a then .bad (cOperand, 0) else
  match headerRead s t (bits d 63 0) with
  | (s1, .error f) => .fail s1 f
  | (s1, .ok h) =>
    match takePin s1 (s1.ctxOf t) (bits d 63 0) h (if bit a 32 then some (a % 2 ^ 32) else none) with
    | (s2, none) =>
      .done ((setQuery s2 t { Query.idle q.desc with phase := 2, hdr := bits d 63 0, tmax := bits d 319 288, since := s.nowOf t }).setG t o.d.val
        (wordOf (2 ^ 33)))
    | (s2, some (_, g)) =>
      let s3 := acquire s2 (s2.clusterOf t)
      let (s4, q1, hit) := tryReuse s3 t (q.begun g.num g.root (s.nowOf t))
      .done ((setQuery s4 t q1).setG t o.d.val (wordOf (g.num + b2n hit * 2 ^ 32)))

/-- `rqbegin` (R384). -/
def execRqbegin (o : Op2) (s : State) : Host.Outcome State Fault Refusal := laneOp (.rqbegin o) (rqbeginThread o) s

/-- The word that rqstep writes (R385 step 4). -/
def stepWord (q : Query) : Word :=
  let c := if q.phase = 1 then q.cand else none
  let flags := (match c with
    | some h => h.kind + b2n h.isOpaque * 4
    | none => 0) + b2n q.commit.isSome * 8
  wordOf (flags + ((c.or q.commit).map (·.index)).getD 0 % 2 ^ 32 * 2 ^ 32)

/-- The committed index of a Done query is out of range (R385, R467); a reused result forms none. -/
def commitRange (q : Query) : Option Flt :=
  match q.phase, q.commit with
  | 2, some h => if !h.reused && decide (bits q.descNat 479 448 ≤ h.index) then some (cShader, wordOf h.index) else none
  | _, _ => none

/-- Visits of one issue of rqstep, after which the instruction issues again from the saved state (DESIGN CHOICE, log 5). -/
def stepFuel : Nat := 4096

/-- rqstep of one thread (R385). -/
def rqstepThread (d : Reg) (s : State) (t : Nat) : Act :=
  let q := queryOf s t
  if q.phase = 0 then .bad (cOperand, 0) else
  match rayWalk s t (if q.phase = 1 then { q with cand := none } else q) stepFuel with
  | .more s1 q1 => .stay (setQuery s1 t q1)
  | .bad s1 q1 f => .fail (setQuery s1 t q1) f
  | .stop s1 q1 =>
    match commitRange q1 with
    | some f => .fail (setQuery s1 t { q1 with faulted := true }) f
    | none => .done ((setQuery s1 t q1).setG t d.val (stepWord q1))

/-- `rqstep` (R385). -/
def execRqstep (d : Reg) (s : State) : Host.Outcome State Fault Refusal := laneOp (.rqstep d) (rqstepThread d) s

/-- The report of a box candidate is accepted (R386). -/
def reportOk (q : Query) (h : RayHit) (t : Nat) : Bool :=
  let v := f32 t
  !v.isNan && ((f32 h.tentry).maxN (f32 (bits q.descNat 191 160))).le v && v.le ((f32 h.texit).minN (f32 q.tmax))

/-- rqreport of one thread (R386). -/
def rqreportThread (o : Op3X) (s : State) (t : Nat) : Act :=
  let q := queryOf s t
  match q.cand with
  | none => .bad (cOperand, 0)
  | some h =>
    if q.phase = 0 ∨ h.kind ≠ 2 then .bad (cOperand, 0) else
    let a := (s.gr t o.a.val).toNat % 2 ^ 32
    if reportOk q h a then
      .done ((setQuery s t { q with cand := some { h with t := a, attrs := (s.gr t o.b.val).toNat, accepted := true } }).setG t o.d.val 1)
    else .done (s.setG t o.d.val 0)

/-- `rqreport` (R386). -/
def execRqreport (o : Op3X) (s : State) : Host.Outcome State Fault Refusal := laneOp (.rqreport o) (rqreportThread o) s

/-- The candidate that rqcommit may commit (R386). -/
def commits (q : Query) : Option RayHit :=
  match q.cand with
  | some h => if (h.kind == 1 || h.accepted) && (f32 h.t).lt (f32 q.tmax) then some h else none
  | none => none

/-- `rqcommit` (R386) (DEDUCED, log 39). -/
def execRqcommit (d : Reg) (s : State) : Host.Outcome State Fault Refusal :=
  laneOp (.rqcommit d) (fun s t => .done (match commits (queryOf s t) with
    | some h => (setQuery s t ((queryOf s t).committed h)).setG t d.val 1
    | none => s.setG t d.val 0)) s

/-- A field of a hit (Table 15-8), by the selector of a committed hit. -/
def hitField (h : RayHit) (sel : Nat) : Nat :=
  match sel with
  | 0 => h.t + h.u * 2 ^ 32
  | 1 => h.v + h.prim * 2 ^ 32
  | 2 => h.geom + b2n h.front * 2 ^ 24 + b2n (h.kind == 2) * 2 ^ 25 + 2 ^ 31 + h.instIdx * 2 ^ 32
  | 3 => h.instId + h.index % 2 ^ 32 * 2 ^ 32
  | _ => h.attrs

/-- A field of a candidate (Table 15-8). -/
def candField (h : RayHit) (sel : Nat) : Nat :=
  match sel with
  | 9 => h.tentry + h.texit * 2 ^ 32
  | 11 => h.record
  | 12 => nth h.obj 0 0 + nth h.obj 1 0 * 2 ^ 32
  | 13 => nth h.obj 2 0 + nth h.obj 3 0 * 2 ^ 32
  | 14 => nth h.obj 4 0 + nth h.obj 5 0 * 2 ^ 32
  | n => hitField h (n - 5)

/-- The value of a selector; the second part says that a result taken from reuse does not hold the box bit or the record
address, which are then left open (DESIGN CHOICE, log 6). -/
def queryField (q : Query) (sel : Nat) (fr : Nat) : Nat × Bool :=
  match q.phase with
  | 0 => (0, false)
  | _ =>
    if sel = 15 then (q.gen + q.tmax * 2 ^ 32, false)
    else if sel < 5 ∨ sel = 10 then
      match q.commit with
      | none => (0, false)
      | some h =>
        if h.reused && sel == 2 then (hitField h 2 + fr % 2 * 2 ^ 25, true)
        else if h.reused && sel == 10 then (fr, true)
        else (if sel = 10 then h.record else hitField h sel, false)
    else ((q.cand.map (candField · sel)).getD 0, false)

/-- rqget of one thread (R387) (DEDUCED, log 39). -/
def rqgetThread (o : Op2) (s : State) (t : Nat) : Act :=
  let a := (s.gr t o.a.val).toNat
  if 16 ≤ a then .bad (cOperand, 0) else
  let (v, open_) := queryField (queryOf s t) a (Config.free s.sched.draws)
  .done ((if open_ then s.draw.2 else s).setG t o.d.val (wordOf v))

/-- `rqget` (R387). -/
def execRqget (o : Op2) (s : State) : Host.Outcome State Fault Refusal := laneOp (.rqget o) (rqgetThread o) s

/-- The reuse insertion of a query that ends (R213, R188). -/
def insertResult (s : State) (t : Nat) (q : Query) : State :=
  match q.key with
  | none => s
  | some key =>
    if q.phase ≠ 2 ∨ q.reported ∨ q.faulted then endAudit s t q.audit else
    let cl := s.clusterOf t
    let table := bits q.descNat 374 371
    let p := resultPayload q.commit
    let s1 := if q.audit then auditCompare s cl table (s.ctxOf t) key p else s
    insertEntry s1 cl table (s.ctxOf t) key p (s.nowOf t - q.since)

/-- rqend of one thread (R387). -/
def rqendThread (s : State) (t : Nat) : State :=
  let q := queryOf s t
  if q.phase = 0 then s else setQuery (releaseQueryPin (insertResult s t q) t q) t (Query.idle q.desc)

/-- `rqend` (R387). -/
def execRqend (s : State) : Host.Outcome State Fault Refusal := laneOp .rqend (fun s t => .done (rqendThread s t)) s

end Sys2Proof.Machine
end

