-- ==== Sys2Proof/Machine/Infq.lean ====
section
/-! DEFINITION. The inference queue (spec 07 R190, R191, spec 15 R381, spec 20 R481, R482): infq, the launch of a batch and its
completion. -/

namespace Sys2Proof.Machine

/-! ### The network descriptor (Table 7-10) -/

def netIn (d : Nat) : Nat := bits d 83 80 + 1
def netOut (d : Nat) : Nat := bits d 87 84 + 1
def netBatch (d : Nat) : Nat := bits d 95 88
def netWait (d : Nat) : Nat := bits d 111 96
def netTable (d : Nat) : Nat := bits d 115 112

/-- A descriptor that R481 rejects. -/
def netBad (d : Nat) : Bool :=
  bits d 511 120 != 0 || bits d 79 64 != 0 || bits d 13 8 != 0 || netBatch d == 0 || decide (64 < netBatch d) || decide (netWait d < 64)
    || bits d 63 14 == 0

/-- The key of a request (R191): each input word is coded as two FP32 elements (DEDUCED); none for a NaN, without MEN, and
with the mode off (DEDUCED, log 41). -/
def netKey (s : State) (ctx a d : Nat) (ws : List Word) : Option Nat :=
  let mode := memoModeOf s ctx
  if !(bit d 119) || mode = 3 then none else
  let cls := if mode = 1 then 0 else bits d 118 116
  (ws.mapM fun w => (tolCodes cls [w.toNat % 2 ^ 32, w.toNat / 2 ^ 32]).map fun c => nth c 0 0 + nth c 1 0 * 2 ^ 32).map
    fun l => signature64 (a :: l)

/-- Writes output words to a requester's registers; a thread that is gone takes none. -/
def putOutputs (s : State) (t dst : Nat) (ws : List Nat) : State :=
  ((List.range ws.length).zip ws).foldl (fun st p => st.setG t (dst + p.1) (wordOf p.2)) s

/-! ### infq -/

/-- Requests that hold an entry (R190). -/
def infFull (c : Cluster) : Bool := decide (1024 ≤ c.infReqs.length)

/-- Threads that wait for an entry and still stand at their infq, in a resident team. -/
def infWaiters (s : State) (c : Cluster) : List Nat :=
  (c.infWait.filter fun e => let x := s.thread e.1; x.run == .ready && x.pc == e.2 && (s.teamOf e.1).res == .resident).map (·.1)

/-- A thread must wait for an entry: the queue is full, or threads before it wait (R190). -/
def infMustWait (s : State) (cl t : Nat) : Bool :=
  let c := s.cluster cl
  infFull c || match infWaiters s c with
    | [] => false
    | x :: _ => x != t

/-- A thread waits no longer. -/
def infLeave (s : State) (t : Nat) : State := s.modCluster (s.clusterOf t) fun c => { c with infWait := c.infWait.filter fun e => e.1 != t }

/-- A thread joins those that wait. -/
def infQueueUp (s : State) (cl t : Nat) : State :=
  s.modCluster cl fun c => { c with infWait := if c.infWait.contains (t, s.grp.pc) then c.infWait else c.infWait.filter (fun e => e.1 != t) ++ [(t, s.grp.pc)] }

/-- The probe of a request at enqueue (R191). -/
def infProbe (s : State) (t d : Nat) (key : Option Nat) : State × Probe :=
  match key with
  | none => (s, .miss)
  | some k => probeTable s (s.clusterOf t) (netTable d) (s.ctxOf t) k (memoModeOf s (s.ctxOf t) == 2)

/-- Appends a request (R190). -/
def enqueueReq (o : OpInfq) (s : State) (t a d : Nat) (key : Option Nat) (audit : Bool) (ws : List Word) : State :=
  let (id, s1) := s.fresh
  let cl := s.clusterOf t
  let r : InfReq := { id := id, thread := t, flag := (flagOf (s.thread t) o.fs).getD 12, ctx := s.ctxOf t, grid := (s.teamOf t).grid, net := a,
                      desc := d, dst := o.d.val, key := key, audit := audit, since := s.nowOf t, input := ws, dropped := false, batch := none }
  let s2 := s1.modCluster cl fun c => { c with infReqs := c.infReqs ++ [r] }
  (countFlag s2 t o.fs).push [.infqBatchLaunch]

/-- What an infq of one thread comes to (R381). -/
def infqTry (o : OpInfq) (s : State) (t : Nat) : Act :=
  let a := s.gr t o.a.val
  if a.toNat % 64 ≠ 0 then .bad (cAlign, a) else
  match rayLoad s t a.toNat 64 with
  | (s1, .error f) => .fail s1 f
  | (s1, .ok d) =>
    if netBad d then .fail s1 (cOperand, a)
    else if (s.gangOf t).d < o.b.val + netIn d ∨ (s.gangOf t).d < o.d.val + netOut d then .fail s1 (cOperand, 0) else
    let ws := (List.range (netIn d)).map fun k => s.gr t (o.b.val + k)
    let key := netKey s1 (s.ctxOf t) a.toNat d ws
    match infProbe s1 t d key with
    | (s2, .hit payload _) => .done (putOutputs s2 t o.d.val ((List.range (netOut d)).map fun k => byteField payload (8 * k) 8))
    | (s2, p) =>
      if infMustWait s1 (s.clusterOf t) t then .stay (infQueueUp s1 (s.clusterOf t) t)
      else .done (enqueueReq o s2 t a.toNat d key (p == .audited) ws)

/-- infq of one thread (R381): unless it still waits for an entry, it leaves those that do. -/
def infqThread (o : OpInfq) (s : State) (t : Nat) : Act :=
  match infqTry o s t with
  | .done s1 => .done (infLeave s1 t)
  | .fail s1 f => .fail (infLeave s1 t) f
  | .bad f => .fail (infLeave s t) f
  | .stay s1 => .stay s1

/-- The output registers of an infq, which it writes at a hit and has its batch write at a miss (R190, R191). -/
def infqWrites (o : OpInfq) (s : State) (t : Nat) : List Nat :=
  match rayLoad s t (s.gr t o.a.val).toNat 64 with
  | (_, .ok d) => (List.range (netOut d)).map (o.d.val + ·)
  | _ => []

/-- `infq` (R381). -/
def execInfq (o : OpInfq) (s : State) : Host.Outcome State Fault Refusal :=
  .next (issueFix (.infq o) (runThreads (infqThread o)) (fun _ _ => .next) (fun s0 _ t => (infqWrites o s0 t, [])) s)

/-! ### Launch of a batch (R190) -/

/-- Requests of a cluster that have joined no batch and agree with one in context and descriptor. -/
def infPeers (c : Cluster) (r : InfReq) : List InfReq :=
  c.infReqs.filter fun x => x.batch.isNone && x.ctx == r.ctx && x.net == r.net && x.desc == r.desc

/-- The requests that launch now: the first of each kind is the oldest (DEDUCED, log 41). -/
def dueBatch (now : Nat) (c : Cluster) : Option (List InfReq) :=
  c.infReqs.findSome? fun r =>
    if r.batch.isSome then none else
    let l := infPeers c r
    if (l.head?).map (·.id) = some r.id ∧ (netBatch r.desc ≤ l.length ∨ netWait r.desc ≤ now - r.since) then some (l.take (netBatch r.desc)) else none

/-- The launch fields of a batch's team (R190, Table 7-10): raw fields of Table 6-3. -/
def batchLaunch (d n : Nat) : Launch :=
  { Launch.none with entry := 4 * bits d 63 14, n := 1, t := n, joins := bits d 4 2, gwidth := bits d 1 0, regs := bits d 7 5, loc := 4 }

/-- The grid that stands for a batch: it takes no grid entry and completes no packet. -/
def batchGrid (s : State) (cl b now : Nat) (r : InfReq) (n : Nat) : Grid :=
  { Grid.none with ctx := r.ctx, qid := (s.grid r.grid).qid, slot := 2 ^ 64, launch := batchLaunch r.desc n, width := 8 * 2 ^ bits r.desc 1 0, n := 1,
                   nextIdx := 1, assignedAt := now, batch := some (cl, b) }

/-- Cores of a cluster whose record buffers have room. -/
def batchRoom (s : State) (cl : Nat) : List Nat :=
  ((List.range 16).map (16 * cl + ·)).filter fun c => decide ((s.core c).records.length < 4) && !bit (nth s.mgmt.coreX cl 0) (c % 16)

/-- Enters the record of a batch's team into the buffer of a core (R190). -/
def bufferBatch (s : State) (g core : Nat) : State :=
  let now := s.nowAt core
  setRecords s core ((s.core core).records ++ [{ grid := g, idx := 0, cores := [core], since := now, assigned := now, resume := none }])

/-- Launches one batch on a core whose record buffer has room (DEDUCED, log 41). -/
def launchBatch (s : State) (cl : Nat) (l : List InfReq) (r : InfReq) : State :=
  let room := batchRoom s cl
  match room with
  | [] => s
  | _ =>
    let (i, s1) := s.choose room.length
    let core := nth room i 0
    let (b, s2) := s1.fresh
    let (g, s3) := s2.fresh
    let now := s.nowAt (16 * cl)
    let ids := l.map (·.id)
    let s4 := s3.modCluster cl fun c =>
      { c with infReqs := c.infReqs.map (fun x => if ids.contains x.id then { x with batch := some b } else x),
               infBatches := c.infBatches ++ [{ id := b, ctx := r.ctx, desc := r.desc, reqs := ids, grid := g, launched := now, failed := [] }] }
    bufferBatch (s4.setGrid g (batchGrid s4 cl b now r l.length)) g core

/-- A batch whose record a drain has taken out of its buffer enters one again: the teams that run to completion wait for its
outputs (R157, R190). -/
def rebuffer (s : State) (e : Nat × Grid) : State :=
  match e.2.batch, e.2.returned with
  | some (cl, _), _ :: _ =>
    match batchRoom s cl with
    | core :: _ => bufferBatch (s.modGrid e.1 fun g => { g with returned := [] }) e.1 core
    | [] => s
  | _, _ => s

/-- Launches the batches of a cluster that are due, as many as there are requests. -/
def launchBatches (s : State) (cl : Nat) : Nat → State
  | 0 => s
  | fuel + 1 =>
    match dueBatch (s.nowAt (16 * cl)) (s.cluster cl) with
    | some (r :: rs) =>
      let s1 := launchBatch s cl (r :: rs) r
      if (s1.cluster cl).infBatches.length = (s.cluster cl).infBatches.length then s1 else launchBatches s1 cl fuel
    | _ => s

/-- Launch of the batches that are due (R190). -/
def execInfqBatchLaunch (s : State) : Host.Outcome State Fault Refusal :=
  .next ((s.clusters.map (·.1)).foldl (fun st cl => launchBatches st cl (st.cluster cl).infReqs.length) (s.grids.foldl rebuffer s))

/-- Writes the requests' input words to the batch's local memory at its placement (R190). -/
def batchInputs (s : State) (cl b localBase : Nat) : State :=
  match (s.cluster cl).infBatches.find? fun x => x.id == b with
  | none => s
  | some x =>
    let reqs := (s.cluster cl).infReqs.filter fun r => x.reqs.contains r.id
    ((List.range reqs.length).zip reqs).foldl (fun st p =>
      let bs := p.2.input.flatMap fun w => bytesOfNat w.toNat 8
      match scratchKey (st.cluster cl) cl (localBase + 8 * netIn x.desc * p.1) with
      | some k => writeAt st k bs
      | none => st) s

/-! ### Completion of a batch (R190, R191, R481, R482) -/

/-- The output words of request i, read from the team's local memory; none where they were not written or are poisoned
(DEDUCED, log 41). -/
def batchOutputs (s : State) (cl localBase i : Nat) (b : InfBatch) : Option (List Nat) :=
  let n := netOut b.desc
  match scratchKey (s.cluster cl) cl (localBase + 8192 + 8 * n * i) with
  | none => none
  | some k => if b.failed.contains i || (poisonAt s.mem k (8 * n)).isSome then none else
      some ((List.range n).map fun j => readNat s.mem.cells (k + 8 * j) 8)

/-- The memo insertion of a request's outputs (R191, R188); outputs that the table's payload cannot hold are not inserted
(DEDUCED, log 41). -/
def insertOutputs (s : State) (cl : Nat) (b : InfBatch) (r : InfReq) (ws : List Nat) : State :=
  match r.key with
  | none => s
  | some key =>
    let p := joinElems 64 ws
    let bytes := bytesOfNat p (16 * ceilDiv ws.length 2)
    let s1 := if r.audit then auditCompare s cl (netTable r.desc) r.ctx key bytes else s
    if tabPayload (nth (s.cluster cl).memoTable (netTable r.desc) 0) < bytes.length then s1
    else insertEntry s1 cl (netTable r.desc) r.ctx key bytes ((s.nowAt (16 * cl) - b.launched) / b.reqs.length)

/-- Answers one request: outputs or the poison value, the insertion, and then the flag. -/
def answerReq (cl localBase : Nat) (b : InfBatch) (s : State) (p : Nat × InfReq) : State :=
  let r := p.2
  if r.dropped then endAudit2 s r else
  match batchOutputs s cl localBase p.1 b with
  | some ws => decOne (putOutputs (insertOutputs s cl b r ws) r.thread r.dst ws) r
  | none => decOne (putOutputs (endAudit2 s r) r.thread r.dst (List.replicate (netOut r.desc) poisonValue.toNat)) r
where
  /-- A pending audit that ends without its insertion (R188). -/
  endAudit2 (s : State) (r : InfReq) : State := if r.audit then countAudited s cl else s
  /-- The fall of the request's flag. -/
  decOne (s : State) (r : InfReq) : State := if r.flag < 12 then decFlags s [(r.thread, r.flag)] else s

/-- Completes a batch whose team has completed: its local memory and its grid are freed last. -/
def completeBatch (s : State) (team : Nat) : State :=
  let t := s.team team
  match t.role with
  | .batch cl b =>
    match (s.cluster cl).infBatches.find? fun x => x.id == b with
    | none => removeTeam s team
    | some x =>
      let reqs := (s.cluster cl).infReqs.filter fun r => x.reqs.contains r.id
      let s0 := if x.failed.isEmpty then s else logRender s cl x.ctx x.desc 0
      let s1 := ((List.range reqs.length).zip reqs).foldl (answerReq cl t.localBase x) s0
      let s2 := s1.modCluster cl fun c =>
        { c with infReqs := c.infReqs.filter (fun r => !(x.reqs.contains r.id)), infBatches := c.infBatches.filter fun y => y.id != b }
      let s3 := removeTeam s2 team
      { s3 with grids := s3.grids.del t.grid }
  | _ => s

/-- Completion of an inference batch (R190); a discard in the same front cycle has come first (R482). -/
def execInfqBatchCompletion (team : Nat) (s : State) : Host.Outcome State Fault Refusal :=
  .next (if (s.teams.get? team).isSome && (s.team team).gangs.isEmpty then completeBatch s team else s)

/-- A discard drops the thread's requests in flight: each count leaves its flag at once (R380). -/
def dropRequests (s : State) (t : Nat) : State :=
  let cl := s.clusterOf t
  let mine := (s.cluster cl).infReqs.filter fun r => r.thread == t && !r.dropped
  let s1 := mine.foldl (fun st r => if r.flag < 12 then st.decFlag t r.flag else st) s
  s1.modCluster cl fun c => { c with infReqs := c.infReqs.map fun r => if r.thread = t then { r with dropped := true, flag := 12 } else r }

end Sys2Proof.Machine
end

