-- ==== Sys2Proof/Machine/Tiles.lean ====
section
/-! DEFINITION. Tiles and handles (spec 14 R345 to R355), tile transfers and conversions (R356, R357), scales (R365), drains
(R366 to R368, spec 20 R466), permits and pushes (spec 13 R331, spec 09 R223 to R225, spec 19 R462), and the scoreboard (R349). -/

namespace Sys2Proof.Machine

/-! ### Tiles -/

/-- The tile that a handle of a gang names. -/
def tileAt (s : State) (gid h : Nat) : Option (Nat × Tile) :=
  (vget (s.gang gid).h h none).bind fun id => (s.tiles.get? id).map fun t => (id, t)

/-- The key of a byte of a tile (R345). -/
def Tile.key_ (t : Tile) (off : Nat) : Nat := tileKey t.core (nth t.chunks (off / 512) 0) (off % 512)

/-- Bytes of a tile. -/
def Tile.size (t : Tile) : Nat := 512 * t.chunks.length

/-- n bytes of a tile inside one chunk, as a number. -/
def tileNat (s : State) (t : Tile) (off n : Nat) : Nat := readNat s.mem.cells (t.key_ off) n

/-- Every byte of a tile. -/
def tileBytes (s : State) (t : Tile) : List Byte := t.chunks.flatMap fun c => readCells s.mem.cells (tileKey t.core c 0) 512

/-- Writes bytes inside one chunk of a tile. -/
def putTile (s : State) (t : Tile) (off : Nat) (bs : List Byte) : State :=
  s.setMem (clearPoisonSmall { s.mem with cells := writeCells s.mem.cells (t.key_ off) bs } (t.key_ off) bs.length)

/-- Writes bytes to a tile from its first byte on, chunk by chunk. -/
def fillTile (s : State) (core : Nat) (bs : List Byte) : List Nat → State
  | [] => s
  | c :: cs =>
    if bs.isEmpty then s else
    let k := tileKey core c 0
    let part := bs.take 512
    let s1 := s.setMem (clearPoisonSmall { s.mem with cells := writeCells s.mem.cells k part } k part.length)
    fillTile s1 core (bs.drop 512) cs

/-- The first poisoned chunk of a tile: its INFO names no physical block and is left open (R455, Table 18-1, DESIGN CHOICE, log 6)
(DEDUCED, log 36). -/
def tilePoison (s : State) (t : Tile) : State × Option Flt :=
  if t.chunks.any fun c => (poisonAt s.mem (tileKey t.core c 0) 512).isSome then
    let (n, s1) := s.draw
    (s1, some (cPoison, wordOf (Config.free n)))
  else (s, none)

/-- The cause of lowest rank (R423). -/
def worst (l : List (Option Flt)) : Option Flt := leastBy (fun a b => decide (causeRank a.1 < causeRank b.1)) (l.filterMap id)

/-- The stale-handle cause of a handle (R348, R464). -/
def stale (s : State) (gid h : Nat) : Option Flt := if (tileAt s gid h).isNone then some (cStale, wordOf h) else none

/-- An operand-format cause with its kind, when a condition holds (R465). -/
def kindWhen (b : Bool) (kind detail : Nat) : Option Flt := if b then some (cOperand, kindInfo kind detail) else none

/-- The operand register of a gang-wide tile instruction: that of the participant at the lowest position (R347). -/
def leadReg (s : State) (ps : List Nat) (a : Reg) : Nat := (s.gr ((ps.head?).getD 0) a.val).toNat

/-- Names a tile by a handle, or none. -/
def setHandle (s : State) (gid h : Nat) (v : Option Nat) : State := s.modGang gid fun g => { g with h := vset g.h h v }

/-! ### Allocation -/

/-- Chunks charged to a gang (R345) (DEDUCED, log 36). -/
def charged (s : State) (gid : Nat) : Nat := ((s.tiles.filter fun e => e.2.charge == some gid).map fun e => e.2.chunks.length).sum

/-- A team has its place on its cores: it is not held in a save slot (R54, R159). -/
def Team.placed (t : Team) : Bool :=
  match t.res with
  | .saved _ => false
  | _ => true

/-- The team that a tile belongs to. -/
def tileTeam (s : State) (id : Nat) (t : Tile) : Option Team := (tileGang s id t).map fun g => s.team (s.gang g).team

/-- A tile lies in its core's tile store: it is not held in a save slot with its team (R54). -/
def tilePlaced (s : State) (id : Nat) (t : Tile) : Bool := ((tileTeam s id t).map (·.placed)).getD true

/-- Chunks of a core that tiles hold; for a gang of an urgent team, those of urgent teams and of landing slots (R158, R159). -/
def usedChunks (s : State) (core : Nat) (urgent : Bool) : List Nat :=
  (s.tiles.filter fun e => e.2.core == core && (match tileTeam s e.1 e.2 with
    | some t => t.placed && (!urgent || t.urgent || !e.2.permits.isEmpty)
    | none => true)).flatMap fun e => e.2.chunks

/-- Chunks of a core given to its urgent teams (R158). -/
def urgentChunks (s : State) (core : Nat) : List Nat :=
  (s.teams.filter fun e => e.2.urgent && e.2.cores.contains core && e.2.res == .resident).flatMap fun e => e.2.chunks

/-- n free chunks of a core, the highest-numbered ones (DESIGN CHOICE, log 9); an urgent team's come from those given to it (R158). -/
def takeChunks (s : State) (gid n : Nat) : Option (List Nat) :=
  let g := s.gang gid
  let t := s.team g.team
  let used := usedChunks s g.core t.urgent ++ if t.urgent then [] else urgentChunks s g.core
  let pool := if t.urgent then t.chunks.reverse else (List.range 512).reverse
  let free := (pool.filter fun c => !(used.contains c)).take n
  if free.length = n then some free.reverse else none

/-- A chunk that the allocation zeroes: `.z`, or last held by another context (R70, R350). -/
def zeroes (s : State) (z : Bool) (core ctx c : Nat) : Bool :=
  z || match s.mem.chunkHolder.get? (512 * core + c) with
    | some h => h != ctx
    | none => false

/-- Zeroes a chunk. -/
def zeroChunk (s : State) (core c : Nat) : State :=
  let k := tileKey core c 0
  s.setMem (clearPoisonSmall { s.mem with cells := s.mem.cells.filter fun e => !(decide (k ≤ e.1 ∧ e.1 < k + 512)) } k 512)

/-- Context of a gang. -/
def gangCtx (s : State) (gid : Nat) : Nat := (s.grid (s.team (s.gang gid).team).grid).ctx

/-- What talloc rejects (R350). -/
def tallocBad (s : State) (gid h a : Nat) : Bool :=
  let n := bits a 9 0
  let key := bits a 63 32
  let g := s.gang gid
  (vget g.h h none).isSome || n == 0 || decide (512 < n) || bits a 14 10 != 0 || bits a 31 16 != 0
    || decide ((s.team g.team).tilesRes < charged s gid + n)
    || (key != 0 && s.tiles.any fun e => e.2.core == g.core && e.2.ctx == gangCtx s gid && e.2.key == key && tilePlaced s e.1 e.2)

/-- talloc of one gang (R350). Where handovers have left no free chunk to its reservation, it waits (DEDUCED, log 17). -/
def tallocGang (o : OpTalloc) (s : State) (gid : Nat) (ps : List Nat) : Out :=
  let a := leadReg s ps o.a
  if tallocBad s gid o.h.val a then Out.fail s ps (cOperand, kindInfo 8 a) else
  match takeChunks s gid (bits a 9 0) with
  | none => Out.wait s ps
  | some cs =>
    let core := (s.gang gid).core
    let ctx := gangCtx s gid
    let (id, s1) := s.fresh
    let s2 := (cs.filter (zeroes s o.z core ctx)).foldl (fun st c => zeroChunk st core c) s1
    let tl : Tile := { core := core, ctx := ctx, chunks := cs, bitmap := 2 ^ min cs.length 64 - 1, permits := [], int := bit a 15,
                       key := bits a 63 32, charge := some gid, freed := false }
    let s3 := { s2 with tiles := s2.tiles.set id tl }
    Out.ok (retestGang (setHandle s3 gid o.h.val (some id)) gid)

/-- `talloc` (R350). -/
def execTalloc (o : OpTalloc) (s : State) : Host.Outcome State Fault Refusal := gangOp (.talloc o) (tallocGang o) s

/-! ### Release -/

/-- Returns a freed tile when nothing is left on it, and lets the threads that wait at its tfree go on (R351). -/
def releaseTile (s : State) (id : Nat) : State :=
  let s1 := tryReleaseTile s id
  if (s1.tiles.get? id).isSome then s1 else
  s1.threads.foldl (fun st e => if e.2.run = .blocked (.tfree id) then resume st e.1 else st) s1

/-- Tests every freed tile. -/
def releaseTiles (s : State) : State := ((s.tiles.filter fun e => e.2.freed).map (·.1)).foldl releaseTile s

/-- The release of freed tiles whose operations and permits are complete (R351, R354). -/
def execTileRelease (s : State) : Host.Outcome State Fault Refusal := .next (releaseTiles s)

/-- tfree of one gang (R351): the handle and the drain key go at once, and the participants wait for the rest. -/
def tfreeGang (h : Handle) (s : State) (gid : Nat) (ps : List Nat) : Out :=
  match tileAt s gid h.val with
  | none => Out.fail s ps (cStale, wordOf h.val)
  | some (id, t) =>
    let s1 := setHandle (s.setTile id { t with freed := true, key := 0 }) gid h.val none
    let s2 := tryReleaseTile (retestGang s1 gid) id
    if (s2.tiles.get? id).isSome then Out.ok (ps.foldl (fun st t => block st t (.tfree id)) s2) else Out.ok s2

/-- `tfree` (R351). -/
def execTfree (h : Handle) (s : State) : Host.Outcome State Fault Refusal := gangOp (.tfree h) (tfreeGang h) s

/-! ### Handover (R352, R353) -/

/-- An offer matches what a tacc asks for. -/
def offerFits (sender : Nat) (o : Offer) : Bool := sender == 0xFFFF || o.sender == sender

/-- The oldest matching offer of a gang. Offers that arrive in one front cycle are ordered by sender, so none of them is taken
before the cycle has ended (R352) (DEDUCED, log 36). -/
def matchingOffer (s : State) (gid sender : Nat) : Option Offer :=
  (s.gang gid).offers.find? fun o => offerFits sender o && decide (o.since < s.nowAt (s.gang gid).core)

/-- Accepts the oldest matching offer into a handle: the charge passes, and the acceptance is an acquire (R352, R353)
(DEDUCED, log 36). -/
def acceptOffer (s : State) (gid h sender : Nat) : Option State :=
  (matchingOffer s gid sender).map fun o =>
    let s1 := (acquire s ((s.gang gid).core / 16)).modGang gid fun g => { g with offers := g.offers.erase o, h := vset g.h h (some o.tile) }
    retestGang (s1.modTile o.tile fun t => { t with charge := some gid }) gid

/-- Threads of a gang that are Blocked at a tacc: each group's place in issue order, handle and sender. -/
def taccGroups (s : State) (gid : Nat) : List (Nat × Nat × Nat) :=
  sortBy (fun (a b : Nat × Nat × Nat) => decide (a.1 < b.1)) (dedup ((threadsOf (s.gang gid)).filterMap fun t => match (s.thread t).run with
    | .blocked (.tacc h sender seq) => some (seq, h, sender)
    | _ => none))

/-- Threads of one such group. -/
def taccThreads (s : State) (gid seq : Nat) : List Nat :=
  (threadsOf (s.gang gid)).filter fun t => match (s.thread t).run with
    | .blocked (.tacc _ _ q) => q == seq
    | _ => false

/-- Lets the groups Blocked at a tacc take what has been offered, in issue order; one whose handle has been allocated in
the meantime takes the operand-format cause. Suspended groups test again once their team is resident (R55). -/
def settleTaccs (s : State) (gid : Nat) : State :=
  if (s.team (s.gang gid).team).res ≠ .resident then s else
  (taccGroups s gid).foldl (fun st e =>
    let ths := taccThreads st gid e.1
    if (matchingOffer st gid e.2.2).isNone then st
    else if (vget (st.gang gid).h e.2.1 none).isSome then
      let (seq, s1) := st.nextOrder
      let lead := (ths.head?).getD 0
      takeExceptions s1 (ths.map fun t => ⟨t, cOperand, kindInfo 8 e.2.2⟩) (s1.thread lead).pc (s1.thread lead).after seq
    else match acceptOffer st gid e.2.1 e.2.2 with
      | some s1 => ths.foldl resume s1
      | none => st) s

/-- The gang of a team on a core with a number. -/
def gangNumbered (s : State) (team core num : Nat) : Option Nat :=
  (s.team team).gangs.find? fun g => (s.gang g).num == num && (s.gang g).core == core

/-- The offers of the front cycles that have ended reach the gangs Blocked at a tacc (R352). -/
def settleOffers (s : State) : State :=
  ((s.gangs.filter fun e => !e.2.offers.isEmpty).map (·.1)).foldl settleTaccs s

/-- thand of one gang (R352). -/
def thandGang (o : OpHA) (s : State) (gid : Nat) (ps : List Nat) : Out :=
  let a := leadReg s ps o.a
  let g := s.gang gid
  let target := gangNumbered s g.team g.core (a % 2 ^ 16)
  match worst [kindWhen (2 ^ 16 ≤ a || target.isNone) 8 a, stale s gid o.h.val], target, tileAt s gid o.h.val with
  | some f, _, _ => Out.fail s ps f
  | none, some tg, some (id, _) =>
    if 4 ≤ (s.gang tg).offers.length then Out.wait s ps else
    let offer : Offer := ⟨id, g.num, s.nowAt g.core⟩
    let s1 := (setHandle s gid o.h.val none).modGang tg fun x =>
      { x with offers := insertBy (fun (a b : Offer) => a.since == b.since && decide (a.sender < b.sender)) offer x.offers }
    Out.ok (retestGang s1 gid)
  | none, _, _ => Out.ok s

/-- `thand` (R352). -/
def execThand (o : OpHA) (s : State) : Host.Outcome State Fault Refusal := gangOp (.thand o) (thandGang o) s

/-- tacc of one gang (R352): without a matching offer the participants are Blocked. -/
def taccGang (o : OpHA) (s : State) (gid : Nat) (ps : List Nat) : Out :=
  let a := leadReg s ps o.a
  if 2 ^ 16 ≤ a ∨ (vget (s.gang gid).h o.h.val none).isSome then Out.fail s ps (cOperand, kindInfo 8 a) else
  match acceptOffer s gid o.h.val a with
  | some s1 => Out.ok s1
  | none => Out.ok (ps.foldl (fun st t => block st t (.tacc o.h.val a s.seq)) s)

/-- `tacc` (R352). -/
def execTacc (o : OpHA) (s : State) : Host.Outcome State Fault Refusal := gangOp (.tacc o) (taccGang o) s

/-! ### tqry (R355) -/

/-- The word of Table 14-1. -/
def queryWord (s : State) (gid h : Nat) : Word :=
  let offers := (s.gang gid).offers.length * 2 ^ 58
  match tileAt s gid h with
  | none => wordOf offers
  | some (id, t) =>
    wordOf (2 ^ 63 + b2n t.int * 2 ^ 62 + b2n (t.key != 0) * 2 ^ 61 + offers + min 255 (opsOnTile s id).length * 2 ^ 50
      + t.permits.length * 2 ^ 43 + t.chunks.length)

/-- `tqry` (R355). -/
def execTqry (o : OpTqry) (s : State) : Host.Outcome State Fault Refusal :=
  regOp (.tqry o) o.a (fun s t => queryWord s (s.thread t).gang o.h.val) s

/-! ### Operations on tiles -/

/-- Forks a gang-wide tile operation, counted by its participants on a selected flag where one is given (R347, R349). -/
def forkTile (s : State) (gid : Nat) (ps : List Nat) (fs : Option Bool) (job : Job) (reads writes : List Nat) : State :=
  let (id, s1) := s.fresh
  let decs := match fs with
    | some b => countersOf s ps b
    | none => []
  let op : Op := { job := job, ctx := gangCtx s gid, core := (s.gang gid).core, decs := decs, issuer := ps.head?, parts := ps, qid := none,
                   slot := 0, cpl := 0, reads := reads, writes := writes, seq := s.seq }
  countAll (s1.setOp id op) decs

/-- Two operations in this order may not overlap (R349). -/
def opsConflict (first later : Op) : Bool :=
  first.writes.any (fun t => later.reads.contains t || later.writes.contains t) || first.reads.any later.writes.contains

/-- The scoreboard lets an operation run: nothing earlier on its tiles is incomplete (R349). -/
def scoreboardFree (s : State) (id : Nat) (op : Op) : Bool :=
  s.ops.all fun e => !((decide (e.2.seq < op.seq) || (e.2.seq == op.seq && decide (e.1 < id))) && opsConflict e.2 op)

/-- Ends a tile operation: flags fall, or its failure is reported, and freed tiles may return. -/
def endTileOp (s : State) (id : Nat) (op : Op) (fail : Option Flt) : State :=
  let s1 := endOp s id
  releaseTiles (match fail with
    | none => decFlags s1 op.decs
    | some (c, info) => reportFail s1 op op.parts c info)

/-! ### tld and tst (R356, R462) -/

/-- Cuts n bytes at an address where base + address is a multiple of m. -/
def cutAt (m base a n : Nat) : Nat → List (Nat × Nat)
  | 0 => []
  | fuel + 1 =>
    if n = 0 then [] else
    let k := min n (m - (base + a) % m)
    (a, k) :: cutAt m base (a + k) (n - k) fuel

/-- Resolves the pieces of a range in order: keys and bytes, or the first cause. -/
def resolvePieces (s : State) (t : Nat) (sp : Space) (u : Use) : List (Nat × Nat) → State × Except Flt (List (Nat × Nat))
  | [] => (s, .ok [])
  | p :: ps =>
    match resolveNow s t sp (p.1 % 2 ^ 64) p.2 u with
    | (s1, .error f) => (s1, .error f)
    | (s1, .ok k) =>
      match resolvePieces s1 t sp u ps with
      | (s2, .ok l) => (s2, .ok ((k, p.2) :: l))
      | (s2, .error f) => (s2, .error f)

/-- The keys of n bytes of a thread's range; a local range at or beyond L takes the permission cause (Table 22-5). -/
def rangeKeys (s : State) (t : Nat) (sp : ASpace) (a n : Nat) (u : Use) : State × Except Flt (List (Nat × Nat)) :=
  match sp with
  | .lo =>
    if (s.teamOf t).localSize < a + n then (s, .error (cPerm, wordOf a))
    else resolvePieces s t .lo u (cutAt (2 ^ 18) (s.teamOf t).localBase a n (n / 2 ^ 18 + 2))
  | .gl => resolvePieces s t .gl u (cutAt (2 ^ 16) 0 a n (n / 2 ^ 16 + 2))

/-- tld or tst of one gang: its range is translated at issue (R462). -/
def tmemGang (o : OpTmem) (store : Bool) (s : State) (gid : Nat) (ps : List Nat) : Out :=
  let a := leadReg s ps o.a
  let t := (ps.head?).getD 0
  match tileAt s gid o.h.val with
  | none => Out.fail s ps (if a % 16 != 0 then (cAlign, wordOf a) else (cStale, wordOf o.h.val))
  | some (id, tl) =>
    if a % 16 != 0 then Out.fail s ps (cAlign, wordOf a) else
    match rangeKeys s t o.sp a tl.size (if store then .store else .load) with
    | (s1, .error f) => Out.fail s1 ps f
    | (s1, .ok keys) =>
      Out.ok (if store then forkTile s1 gid ps (some o.fs) (.tst id keys) [id] [] else forkTile s1 gid ps (some o.fs) (.tld id keys) [] [id])

/-- `tld` (R356). -/
def execTld (o : OpTmem) (s : State) : Host.Outcome State Fault Refusal := gangOp (.tld o) (tmemGang o false) s

/-- `tst` (R356). -/
def execTst (o : OpTmem) (s : State) : Host.Outcome State Fault Refusal := gangOp (.tst o) (tmemGang o true) s

/-- The 16-byte units of a range, in order. -/
def unitsOf (keys : List (Nat × Nat)) : List Nat := keys.flatMap fun k => (List.range (k.2 / 16)).map fun i => k.1 + 16 * i

/-- Loads a tile unit by unit from byte offset off on, to the first that is poisoned (R450, R455). -/
def loadUnits (s : State) (t : Tile) (off : Nat) : List Nat → State × Option Flt
  | [] => (s, none)
  | k :: ks =>
    match poisonFlt s k 16 with
    | some f => (s, some (cTile, failInfo f 0))
    | none => loadUnits (putTile s t off (readCells (intoView s k).mem.cells k 16)) t (off + 16) ks

/-- Stores a tile unit by unit: plain stores of the core's cluster, or an engine's writes of scratchpad, which fill their
granules (R67). -/
def storeUnits (s : State) (t : Tile) (off : Nat) : List Nat → State × Option Flt
  | [] => (s, none)
  | k :: ks =>
    let bs := bytesOfNat (tileNat s t off 16) 16
    match metadataFlt s k with
    | some (s1, f) => (s1, some (cTile, failInfo f 0))
    | none => storeUnits (if isSram k then fillGranule (landBytes s k bs false) k else storeAt s (t.core / 16) k bs) t (off + 16) ks

/-- Ends the poison of a tile's chunks that one operation has written whole (R454). -/
def cleanTile (s : State) (t : Tile) : State := t.chunks.foldl (fun st c => st.setMem (clearPoison st.mem (tileKey t.core c 0) 512)) s

/-! ### tzero and tcvt (R357) -/

/-- tzero of one gang. -/
def tzeroGang (h : Handle) (s : State) (gid : Nat) (ps : List Nat) : Out :=
  match tileAt s gid h.val with
  | none => Out.fail s ps (cStale, wordOf h.val)
  | some (id, _) => Out.ok (forkTile s gid ps none (.tzero id) [] [id])

/-- `tzero` (R357). -/
def execTzero (h : Handle) (s : State) : Host.Outcome State Fault Refusal := gangOp (.tzero h) (tzeroGang h) s

/-- The width of an element and whether it is FP6. -/
def elemShape (e : Elem) : Nat × Bool := ((elemNum e).width, e == .e3m2 || e == .e2m3)

/-- Bytes that 128 c elements take in a tile: FP6 in pairs of words for 32 elements, else packed (R125, R126). -/
def cvtBytes (e : Elem) (c : Nat) : Nat := if (elemShape e).2 then 128 * c else 128 * c * (elemShape e).1 / 8

/-- tcvt of one gang (R357). -/
def tcvtGang (o : OpTcvt) (s : State) (gid : Nat) (ps : List Nat) : Out :=
  match tileAt s gid o.ta.val, tileAt s gid o.td.val with
  | some (ia, ta), some (id, td) =>
    let need := ceilDiv (cvtBytes o.t ta.chunks.length) 512
    if ia = id ∨ td.chunks.length < need then Out.fail s ps (cOperand, kindInfo 7 need)
    else Out.ok (forkTile s gid ps (some o.fs) (.tcvt ia id o.t o.mode) [ia] [id])
  | none, _ => Out.fail s ps (cStale, wordOf o.ta.val)
  | _, none => Out.fail s ps (cStale, wordOf o.td.val)

/-- `tcvt` (R357). -/
def execTcvt (o : OpTcvt) (s : State) : Host.Outcome State Fault Refusal := gangOp (.tcvt o) (tcvtGang o) s

/-- 32 elements of a tile converted from FP32, as the bytes that they take in the destination. -/
def cvtBlock (s : State) (t : Tile) (e : Elem) (mode : RMode) (b : Nat) : List Byte :=
  let code (i : Nat) := convert (.fl fFP32) (elemNum e) mode false (tileNat s t (128 * b + 4 * i) 4)
  let n := (elemShape e).1
  if (elemShape e).2 then
    bytesOfNat (((List.range 21).map fun i => code i * 2 ^ (6 * i)).sum + 2 ^ 128 * ((List.range 11).map fun i => code (21 + i) * 2 ^ (6 * i)).sum) 32
  else bytesOfNat ((List.range 32).map fun i => code i * 2 ^ (n * i)).sum (4 * n)

/-- Converts a tile (R357). -/
def cvtTile (s : State) (ta td : Tile) (e : Elem) (mode : RMode) : State :=
  fillTile s td.core ((List.range (4 * ta.chunks.length)).flatMap (cvtBlock s ta e mode)) td.chunks

/-! ### scaleacc (R365, R130) -/

/-- A scale (R116): UE4M3 as an E4M3 magnitude, or E8M0. -/
def scaleOf (ue : Bool) (code : Nat) : Fl := if ue then decodeF fE4M3 (code % 128) else if code = 255 then .nan else dyadic false 1 ((code : Int) - 127)

/-- The product of Table 5-8. -/
def scaleProduct (ua ub : Bool) (a b p : Fl) : Fl :=
  if a.isNan || b.isNan || p.isNan then .nan
  else if (ua && a.isZero) || (ub && b.isZero) then (if p.isInf then .nan else .num p.isNeg 0 1)
  else Fl.mul (Fl.mul a b) p

/-- Byte offsets of UE4M3 codes in the record with bit [7] set: the codes of rows below m and of positions below w alone (DESIGN CHOICE,
log 59). -/
def scaleBad (ua ub : Bool) (m w : Nat) (rec : List Byte) : Option Nat :=
  (((if ua then List.range m else []) ++ (if ub then (List.range w).map (128 + ·) else [])).find? fun i => 128 ≤ (nth rec i 0).toNat)

/-- scaleacc of one gang (R365): the record is read at issue. -/
def scaleaccGang (o : OpScale) (s : State) (gid : Nat) (ps : List Nat) : Out :=
  let a := leadReg s ps o.a
  let t := (ps.head?).getD 0
  let w := (s.gang gid).width
  match tileAt s gid o.ta.val, tileAt s gid o.td.val with
  | some (ip, p), some (id, d) =>
    let c := p.chunks.length
    if d.chunks.length ≠ c ∨ w < c then Out.fail s ps (cOperand, kindInfo 6 0xFFFF)
    else if a % 16 != 0 then Out.fail s ps (cAlign, wordOf a) else
    match rangeKeys s t .lo a (128 + w) .load with
    | (s1, .error f) => Out.fail s1 ps f
    | (s1, .ok keys) =>
      match keys.findSome? fun k => poisonFlt s1 k.1 k.2 with
      | some f =>
        match scaleBad o.ua o.ub (128 * c / w) w (keys.flatMap fun k => readCells s1.mem.cells k.1 k.2) with
        | some i => Out.fail s1 ps (cOperand, kindInfo 6 i)
        | none => Out.fail s1 ps f
      | none =>
        let rec_ := keys.flatMap fun k => readCells s1.mem.cells k.1 k.2
        match scaleBad o.ua o.ub (128 * c / w) w rec_ with
        | some i => Out.fail s1 ps (cOperand, kindInfo 6 i)
        | none => Out.ok (forkTile s1 gid ps (some o.fs) (.scaleacc ip id o.i32 o.mode o.ua o.ub w rec_) [ip, id] [id])
  | none, _ => Out.fail s ps (if a % 16 != 0 then (cAlign, wordOf a) else (cStale, wordOf o.ta.val))
  | _, none => Out.fail s ps (if a % 16 != 0 then (cAlign, wordOf a) else (cStale, wordOf o.td.val))

/-- `scaleacc` (R365). -/
def execScaleacc (o : OpScale) (s : State) : Host.Outcome State Fault Refusal := gangOp (.scaleacc o) (scaleaccGang o) s

/-- One element of scaleacc. -/
def scaleElem (i32 ua ub : Bool) (mode : RMode) (sa sb p d : Nat) : Nat :=
  let pv := if i32 then Fl.scaled (sextNat 32 p) (-12) else decodeF fFP32 p
  roundF fFP32 mode (Fl.add mode (decodeF fFP32 d) (scaleProduct ua ub (scaleOf ua sa) (scaleOf ub sb) pv))

/-- Adds a scaled partial sum into a tile. -/
def scaleTile (s : State) (p d : Tile) (i32 ua ub : Bool) (mode : RMode) (w : Nat) (rec_ : List Byte) : State :=
  fillTile s d.core ((List.range (128 * p.chunks.length)).flatMap fun j =>
    bytesOfNat (scaleElem i32 ua ub mode (nth rec_ (j / w) 0).toNat (nth rec_ (128 + j % w) 0).toNat (tileNat s p (4 * j) 4) (tileNat s d (4 * j) 4)) 4)
    d.chunks

/-! ### Drains (R366 to R368) -/

/-- tdrain.h of one gang (Table 14-5). -/
def drainHGang (o : OpDrainH) (s : State) (gid : Nat) (ps : List Nat) : Out :=
  match tileAt s gid o.ta.val, tileAt s gid o.td.val with
  | some (ia, ta), some (id, td) =>
    if ia = id ∨ td.chunks.length < ta.chunks.length then Out.fail s ps (cOperand, kindInfo 7 ta.chunks.length)
    else Out.ok (forkTile s gid ps (some o.fs) (.drainH ia id) [ia] [id])
  | none, _ => Out.fail s ps (cStale, wordOf o.ta.val)
  | _, none => Out.fail s ps (cStale, wordOf o.td.val)

/-- `tdrain.h` (R366). -/
def execTdrainH (o : OpDrainH) (s : State) : Host.Outcome State Fault Refusal := gangOp (.tdrainH o) (drainHGang o) s

/-- tdrain.peer of one gang (Table 14-5, R367). -/
def drainPeerGang (o : OpDrainP) (s : State) (gid : Nat) (ps : List Nat) : Out :=
  let a := leadReg s ps o.a
  if bits a 31 9 != 0 then Out.fail s ps (cOperand, kindInfo 8 a) else
  match tileAt s gid o.ta.val with
  | none => Out.fail s ps (cStale, wordOf o.ta.val)
  | some (ia, _) => Out.ok (forkTile s gid ps (some o.fs) (.drainPeer ia (bits a 8 0) (bits a 63 32)) [ia] [])

/-- `tdrain.peer` (R367). -/
def execTdrainPeer (o : OpDrainP) (s : State) : Host.Outcome State Fault Refusal := gangOp (.tdrainPeer o) (drainPeerGang o) s

/-- tdrain.byp of one gang (R368): outside self-test mode the permission cause, whose INFO names no address and is left
open (DESIGN CHOICE, log 6). -/
def drainBypGang (o : OpDrainB) (s : State) (gid : Nat) (ps : List Nat) : Out :=
  if !(s.core (s.gang gid).core).selfTest then
    let (n, s1) := s.draw
    Out.fail s1 ps (cPerm, wordOf (Config.free n))
  else match tileAt s gid o.ta.val with
    | none => Out.fail s ps (cStale, wordOf o.ta.val)
    | some (ia, _) => Out.ok (forkTile s gid ps (some o.fs) (.drainByp ia) [ia] [])

/-- `tdrain.byp` (R368). -/
def execTdrainByp (o : OpDrainB) (s : State) : Host.Outcome State Fault Refusal := gangOp (.tdrainByp o) (drainBypGang o) s

/-- One add of a peer drain (R367). -/
def drainElem (int : Bool) (d x : Nat) : Nat :=
  if int then (d + x) % 2 ^ 32 else roundF fFP32 .rn (Fl.add .rn (decodeF fFP32 d) (decodeF fFP32 x))

/-- The tile that a peer drain reaches (R366, R466); one held in a save slot is on no core (R54). -/
def drainTarget (s : State) (ctx core key : Nat) : Option Tile :=
  (s.tiles.find? fun e => key != 0 && e.2.core == core && e.2.ctx == ctx && e.2.key == key && tilePlaced s e.1 e.2).map (·.2)

/-- Applies a peer drain: its adds, and what was dropped (R466). -/
def drainInto (s : State) (src : Tile) (ctx core key : Nat) : State × Option Flt :=
  match drainTarget s ctx core key with
  | none => (s, some (cTile, wordOf (core * 2 ^ 32 + key)))
  | some d =>
    let n := min src.chunks.length d.chunks.length
    let s1 := fillTile s d.core ((List.range (128 * n)).flatMap fun j =>
      bytesOfNat (drainElem d.int (tileNat s d (4 * j) 4) (tileNat s src (4 * j) 4)) 4) d.chunks
    (s1, if d.chunks.length < src.chunks.length then some (cTile, wordOf (6 * 2 ^ 60 + core * 2 ^ 32 + key)) else none)

/-- The adds of a peer drain (R367, R466). -/
def execPeerDrainAdd (op : Nat) (s : State) : Host.Outcome State Fault Refusal :=
  .next (match s.ops.get? op with
    | some x =>
      match x.job with
      | .drainPeer ia core key =>
        if !(scoreboardFree s op x) then s else
        match s.tiles.get? ia with
        | none => s
        | some src =>
          match tilePoison s src with
          | (s1, some f) => endTileOp s1 op x (some f)
          | (s1, none) => let (s2, f) := drainInto s1 src x.ctx core key; endTileOp s2 op x f
      | _ => s
    | none => s)

/-! ### Completion of tile operations -/

/-- What a tile operation does to its tiles, with the failure it meets (DEDUCED, log 36). -/
def runTileJob (s : State) (op : Op) : State × Option Flt :=
  match op.job with
  | .tld id keys =>
    match s.tiles.get? id with
    | some t => match loadUnits s t 0 (unitsOf keys) with
      | (s1, none) => (cleanTile s1 t, none)
      | r => r
    | none => (s, none)
  | .tst id keys =>
    match s.tiles.get? id with
    | some t => match tilePoison s t with
      | (s1, some f) => (s1, some f)
      | (s1, none) => match storeUnits s1 t 0 (unitsOf keys) with
        | (s2, none) => (healRanges s2 (keys.map fun k => ⟨k.1, k.2, false⟩), none)
        | r => r
    | none => (s, none)
  | .tzero id =>
    match s.tiles.get? id with
    | some t => (t.chunks.foldl (fun st c => zeroChunk st t.core c) s, none)
    | none => (s, none)
  | .tcvt ia id e mode =>
    match s.tiles.get? ia, s.tiles.get? id with
    | some a, some d => match tilePoison s a with
      | (s1, some f) => (s1, some f)
      | (s1, none) => (cvtTile s1 a d e mode, none)
    | _, _ => (s, none)
  | .scaleacc ip id i32 mode ua ub w rec_ =>
    match s.tiles.get? ip, s.tiles.get? id with
    | some p, some d => match tilePoison s { p with chunks := p.chunks ++ d.chunks } with
      | (s1, some f) => (s1, some f)
      | (s1, none) => (scaleTile s1 p d i32 ua ub mode w rec_, none)
    | _, _ => (s, none)
  | .drainH ia id =>
    match s.tiles.get? ia, s.tiles.get? id with
    | some a, some d => match tilePoison s a with
      | (s1, some f) => (s1, some f)
      | (s1, none) => (fillTile s1 d.core (tileBytes s1 a) d.chunks, none)
    | _, _ => (s, none)
  | .drainByp ia =>
    match s.tiles.get? ia with
    | some a => match tilePoison s a with
      | (s1, some f) => (s1, some f)
      | (s1, none) => (s1.modCore op.core fun c => { c with bypass := some (tileBytes s1 a) }, none)
    | none => (s, none)
  | _ => (s, none)

/-- The job is one that ends at a tile operation's completion. -/
def isTileJob : Job → Bool
  | .tld _ _ | .tst _ _ | .tzero _ | .tcvt _ _ _ _ | .scaleacc _ _ _ _ _ _ _ _ | .drainH _ _ | .drainByp _ => true
  | _ => false

/-- Completion of a tile operation, once the scoreboard allows it (R349, R356, R357, R365, R366) (DESIGN CHOICE, log 23). -/
def execTileOperationCompletion (op : Nat) (s : State) : Host.Outcome State Fault Refusal :=
  .next (match s.ops.get? op with
    | some x =>
      if isTileJob x.job && scoreboardFree s op x then let (s1, f) := runTileJob s x; endTileOp s1 op x f else s
    | none => s)

/-! ### Permits and pushes (R223 to R225, R331) -/

/-- Permits outstanding on a core (R223). -/
def permitsOn (s : State) (core : Nat) : Nat := ((s.tiles.filter fun e => e.2.core == core).map fun e => e.2.permits.length).sum

/-- The shuttle of a chunk's source: that of the node that owns the channel of its first byte (R224, R71, R73). -/
def shuttleOf (s : State) (k : Nat) : Nat := channelOf s.mgmt (k % 2 ^ 48) / 8

/-- What permit rejects of B, whatever its tile (R331). -/
def permitForm (b : Nat) : Bool := bits b 63 15 != 0 || bits b 7 6 != 0 || bits b 14 8 == 0 || decide (64 < bits b 14 8)

/-- What permit rejects, but for its alignment and its handle (R331). -/
def permitBad (t : Tile) (b : Nat) : Bool :=
  let c0 := bits b 5 0
  let n := bits b 14 8
  permitForm b || decide (64 < t.chunks.length) || decide (t.chunks.length < c0 + n)
    || t.permits.any fun p => decide (c0 ≤ p.1 ∧ p.1 < c0 + n)

/-- Translates the source of each chunk. -/
def permitKeys (s : State) (t a : Nat) : List Nat → State × Except Flt (List Nat)
  | [] => (s, .ok [])
  | i :: is =>
    match resolveNow s t .gl ((a + 512 * i) % 2 ^ 64) 512 .load with
    | (s1, .error f) => (s1, .error f)
    | (s1, .ok k) =>
      match permitKeys s1 t a is with
      | (s2, .ok l) => (s2, .ok (k :: l))
      | (s2, .error f) => (s2, .error f)

/-- Grants one permit: the chunk's bit is cleared and its push is forked (DEDUCED, log 55). -/
def grantPermit (gid : Nat) (ps : List Nat) (tile : Nat) (s : State) (ck : Nat × Nat) : State :=
  let s1 := forkTile s gid ps none (.push tile ck.1 ck.2 (shuttleOf s ck.2)) [] []
  s1.modTile tile fun t => { t with permits := t.permits ++ [(ck.1, s.sched.nextId)], bitmap := t.bitmap - t.bitmap / 2 ^ ck.1 % 2 * 2 ^ ck.1 }

/-- permit of one gang (R331) (DEDUCED, log 55). -/
def permitGang (o : OpPermit) (s : State) (gid : Nat) (ps : List Nat) : Out :=
  let a := leadReg s ps o.a
  let b := leadReg s ps o.b
  let t := (ps.head?).getD 0
  match tileAt s gid o.h.val with
  | none => Out.fail s ps (if permitForm b then (cOperand, 0) else if a % 512 != 0 then (cAlign, wordOf a) else (cStale, wordOf o.h.val))
  | some (id, tl) =>
    if permitBad tl b then Out.fail s ps (cOperand, 0)
    else if a % 512 != 0 then Out.fail s ps (cAlign, wordOf a)
    else if 256 < permitsOn s tl.core + bits b 14 8 then Out.wait s ps else
    match permitKeys s t a (List.range (bits b 14 8)) with
    | (s1, .error f) => Out.fail s1 ps f
    | (s1, .ok ks) => Out.ok (((List.range (bits b 14 8)).map fun i => (bits b 5 0 + i, nth ks i 0)).foldl (grantPermit gid ps id) s1)

/-- `permit` (R331). -/
def execPermit (o : OpPermit) (s : State) : Host.Outcome State Fault Refusal := gangOp (.permit o) (permitGang o) s

/-- A push is the next of its shuttle: permits are served in order of arrival, here that of their grants (R224, DESIGN CHOICE, log 5). -/
def pushIsNext (s : State) (id shuttle : Nat) : Bool :=
  s.ops.all fun e => match e.2.job with
    | .push _ _ _ sh => sh != shuttle || decide (id ≤ e.1)
    | _ => true

/-- Threads that a failed push names (R462). -/
def pushNames (s : State) (id : Nat) (t : Tile) (chunk : Nat) : List Nat :=
  match tileGang s id t with
  | none => []
  | some g =>
    let ths := threadsOf (s.gang g)
    let at_ := ths.filter fun x => match (s.thread x).run with
      | .blocked (.waitm h m) => (((tileAt s g h).map (·.2)) == some t) && m.getLsbD chunk
      | _ => false
    if at_.isEmpty then (ths.filter fun x => !((s.thread x).run == .exited)).take 1 else at_

/-- Lands a push: the bytes, the bitmap bit, and the permit (R224); one whose source is poisoned fails (R455, R462)
(DEDUCED, log 55). -/
def landPush (s : State) (id : Nat) (op : Op) (tile chunk src : Nat) : State :=
  match s.tiles.get? tile with
  | none => endOp s id
  | some t =>
    let t1 := { t with permits := t.permits.filter fun p => p.2 != id }
    match (poisonFlt s src 512).or (poisonFlt s (src + 256) 256) with
    | some f =>
      let names := pushNames s tile t chunk
      let s1 := endOp (s.setTile tile t1) id
      releaseTiles (reportFail s1 op names cPush (wordOf ((failInfo f 0).toNat + chunk * 2 ^ 52)))
    | none =>
      let k := tileKey t.core (nth t.chunks chunk 0) 0
      let s1 := s.setMem (clearPoison { s.mem with cells := writeCells s.mem.cells k (readCells (intoView (intoView s src) (src + 256)).mem.cells src 512) } k 512)
      let s2 := endOp (s1.setTile tile { t1 with bitmap := maskOf (chunk :: bitList t.bitmap 64) }) id
      releaseTiles (match tileGang s tile t with
        | some g => retestGang s2 g
        | none => s2)

/-- The landing of a chunk (R224). -/
def execChunkPushLanding (op : Nat) (s : State) : Host.Outcome State Fault Refusal :=
  .next (match s.ops.get? op with
    | some x =>
      match x.job with
      | .push tile chunk src sh => if pushIsNext s op sh then landPush s op x tile chunk src else s
      | _ => s
    | none => s)

end Sys2Proof.Machine
end

