-- ==== Sys2Proof/Machine/Loom.lean ====
section
/-! DEFINITION. The Loom (spec 08 R194 to R211, spec 15 R389, R390, spec 20 R469 to R473): command blocks, geometry, the
topology and the boxes of a new version, its nodes and counters, publishing, and the instructions bld, gpin, gunpin and
gqry. -/

namespace Sys2Proof.Machine

/-! ### The Loom's accesses -/

/-- Reads pieces of a context's memory for the Loom; else the address that faulted (R472). -/
def loomPieces (s : State) (ctx : Nat) : List (Nat × Nat) → State × Except Nat (List Byte)
  | [] => (s, .ok [])
  | p :: ps =>
    match resolveEng s ctx (p.1 % 2 ^ 64) .load false with
    | (s1, .ok k) =>
      if (spoiledAt s1 k p.2).isSome then (s1, .error p.1) else
      let here := readCells s1.mem.cells k p.2
      match loomPieces s1 ctx ps with
      | (s2, .ok l) => (s2, .ok (here ++ l))
      | r => r
    | (s1, _) => (s1, .error p.1)

/-- Reads n bytes for the Loom as a number. -/
def loomRead (s : State) (ctx a n : Nat) : State × Except Nat Nat :=
  match loomPieces s ctx (cutAt 64 0 a n (n / 64 + 2)) with
  | (s1, .ok l) => (s1, .ok (natOfBytes l))
  | (s1, .error f) => (s1, .error f)

/-- Writes bytes that lie in one page for the Loom; else the address that faulted. -/
def loomWrite (s : State) (ctx a : Nat) (bs : List Byte) : State × Option Nat :=
  match resolveEng s ctx a .store false with
  | (s1, .ok k) => (writeAt s1 k bs, none)
  | (s1, _) => (s1, some a)

/-- A status that ends a command, with what its log entry names (Table 8-6, Table 20-2). -/
structure LoomEnd where
  (status : Nat) (d1 : Nat)
  deriving DecidableEq, Repr

def stDone : Nat := 0
def stPoolFull : Nat := 1
def stDegenerate : Nat := 2
def stNoStaged : Nat := 3
def stMismatch : Nat := 4
def stPinFull : Nat := 5
def stBadCmd : Nat := 6

/-! ### Boxes, exactly -/

/-- A box: its low and its high corner. -/
abbrev Box := List Fl × List Fl

/-- The least box that holds some boxes; none for no box. -/
def unionBox : List Box → Option Box
  | [] => none
  | b :: bs => some (bs.foldl (fun a c => ((List.range 3).map fun i => (axis a.1 i).minN (axis c.1 i), (List.range 3).map fun i => (axis a.2 i).maxN (axis c.2 i))) b)

/-- The box of some points. -/
def boxOfPoints (ps : List (List Fl)) : Option Box := unionBox (ps.map fun p => (p, p))

/-- Surface area (R211). -/
def areaOf (b : Box) : Fl :=
  let e (i : Nat) : Fl := (axis b.2 i).sub .rn (axis b.1 i)
  (Fl.ofNat 2).mul ((((e 0).mul (e 1)).add .rn ((e 1).mul (e 2))).add .rn ((e 2).mul (e 0)))

/-- Surface area of the intersection of two boxes; zero when they do not meet. -/
def meetArea (a b : Box) : Fl :=
  let lo := (List.range 3).map fun i => (axis a.1 i).maxN (axis b.1 i)
  let hi := (List.range 3).map fun i => (axis a.2 i).minN (axis b.2 i)
  if (List.range 3).all fun i => (axis lo i).le (axis hi i) then areaOf (lo, hi) else .ofNat 0

/-! ### Nodes of a version -/

/-- A node of a version, in a list whose first entry is the root: kind (Table 8-3), children by position, the node's own
bits without its references and GEN, its exact box, the primitive of a leaf, the bottom generation that an instance
names, and the unit of a node that stands in the pool already and is kept as it is (R197, R208, R210). -/
structure LNode where
  (kind : Nat) (kids : List (Option Nat)) (body : Nat) (box : Option Box) (geom : Nat) (prim : Nat) (pin : Option (Nat × Nat))
  (kept : Option Nat)
  deriving DecidableEq, Repr

/-- A box node over subtrees, one for each slot; an empty subtree is an empty slot. -/
def joinTrees (w : Nat) (subs : List (List LNode)) : List LNode :=
  let r := subs.foldl (fun (acc : List (Option Nat) × List LNode) t =>
    if t.isEmpty then (acc.1 ++ [none], acc.2) else
    let off := 1 + acc.2.length
    (acc.1 ++ [some off], acc.2 ++ t.map fun n => { n with kids := n.kids.map fun k => k.map (· + off) })) ([], [])
  { kind := if w = 4 then 1 else 2, kids := r.1, body := 0, box := unionBox (subs.filterMap fun t => t.head?.bind (·.box)), geom := 0, prim := 0,
    pin := none, kept := none } :: r.2

/-- Cuts a list into w parts of nearly equal length. -/
def evenParts {α : Type} (w : Nat) (l : List α) : List (List α) :=
  let n := max 1 (ceilDiv l.length w)
  (List.range w).map fun i => (l.drop (n * i)).take n

/-- Deals a list out to w parts, as the schedule says. -/
def dealParts {α : Type} (w : Nat) (s : State) : List α → State × List (List α)
  | [] => (s, List.replicate w [])
  | x :: xs =>
    let (i, s1) := s.choose w
    let (s2, ps) := dealParts w s1 xs
    (s2, modNth ps i (x :: ·))

/-- A topology over leaves: the width of each node and how its leaves divide fall as the schedule says (R202, R203, DESIGN CHOICE, log 10);
the last levels divide evenly, so no node lies deeper than 48. -/
def mkTree (s : State) (leaves : List LNode) : Nat → State × List LNode
  | 0 => (s, leaves.take 1)
  | fuel + 1 =>
    let (c, s1) := s.choose 2
    let w := if c = 0 then 4 else 8
    let (d, s2) := s1.choose 2
    let (s3, parts) := if fuel < 16 || d = 0 then (s2, evenParts w leaves) else dealParts w s2 leaves
    let (s4, subs) := parts.foldl (fun (acc : State × List (List LNode)) p =>
      match p with
      | [] => (acc.1, acc.2 ++ [[]])
      | [x] => (acc.1, acc.2 ++ [[x]])
      | p => let (st, t) := mkTree acc.1 p fuel; (st, acc.2 ++ [t])) (s3, [])
    (s4, joinTrees w subs)

/-- The topology of a build: nothing for no leaf (DESIGN CHOICE, log 10). -/
def buildTree (s : State) (leaves : List LNode) : State × List LNode := if leaves.isEmpty then (s, []) else mkTree s leaves 48

/-! ### Geometry (R204, R207, R471) -/

/-- The exact world-space box of an instance: the corners of the bottom box under the inverse of its transform. -/
def instanceBox (m : List Fl) (b : Box) : Option Box :=
  let x (i : Nat) : Fl := nth m i .nan
  let cof (p q r t : Nat) : Fl := ((x p).mul (x q)).sub .rn ((x r).mul (x t))
  let det := (((x 0).mul (cof 5 10 6 9)).sub .rn ((x 1).mul (cof 4 10 6 8))).add .rn ((x 2).mul (cof 4 9 5 8))
  let inv := [cof 5 10 6 9, cof 2 9 1 10, cof 1 6 2 5, cof 6 8 4 10, cof 0 10 2 8, cof 2 4 0 6, cof 4 9 5 8, cof 1 8 0 9, cof 0 5 1 4].map fun v => v.div det
  boxOfPoints ((List.range 8).map fun c =>
    let p := (List.range 3).map fun a => (axis (if bit c a then b.2 else b.1) a).sub .rn (x (4 * a + 3))
    (List.range 3).map fun r => (((nth inv (3 * r) .nan).mul (axis p 0)).add .rn ((nth inv (3 * r + 1) .nan).mul (axis p 1))).add .rn
      ((nth inv (3 * r + 2) .nan).mul (axis p 2)))

/-- The determinant of a transform's 3 × 3 part is zero (R471). -/
def singular (m : List Fl) : Bool :=
  let x (i : Nat) : Fl := nth m i .nan
  let cof (p q r t : Nat) : Fl := ((x p).mul (x q)).sub .rn ((x r).mul (x t))
  ((((x 0).mul (cof 5 10 6 9)).sub .rn ((x 1).mul (cof 4 10 6 8))).add .rn ((x 2).mul (cof 4 9 5 8))).isZero

/-- Fields of a template that an instance node keeps: its reserved fields are written as zero (R196). -/
def templateBits (x : Nat) : Nat := x % 2 ^ 448 + bits x 570 512 * 2 ^ 512 + bits x 599 576 * 2 ^ 576

/-- An instance leaf from its template; none when it is degenerate (R471). -/
def instanceLeaf (s : State) (ctx g p x : Nat) : State × Except LoomEnd (Option LNode) :=
  let m := f32s x 12
  let hdr := bits x 447 384
  if !(m.all Fl.isFinite) || hdr % 64 != 0 || singular m then (s, .ok none) else
  match loomRead s ctx hdr 64 with
  | (s1, .error a) => (s1, .error ⟨stBadCmd, a⟩)
  | (s1, .ok h) =>
    let leaf (root gen : Nat) (b : Option Box) (pin : Option (Nat × Nat)) : LNode :=
      { kind := 5, kids := [], body := templateBits x + root * 2 ^ 448 + gen * 2 ^ 480, box := b, geom := g, prim := p, pin := pin, kept := none }
    if !(headerValid h) then (s1, .ok (some (leaf 0 0 none none))) else
    (s1, .ok (some (leaf (bits h 63 32) (headerGen h) (instanceBox m (f32s (h / 2 ^ 64) 3, f32s (h / 2 ^ 160) 3))
      ((liveGen s1 ctx hdr (headerGen h)).map fun y => (y.1, y.2.num)))))

/-- A triangle leaf; none when it is degenerate (R204). -/
def triLeaf (g p opq : Nat) (vs : List Nat) : Option LNode :=
  let pts := vs.map fun v => f32s v 3
  let diff (i k : Nat) : Fl := (axis (nth pts i []) k).sub .rn (axis (nth pts 0 []) k)
  let cr (a b : Nat) : Fl := ((diff 1 a).mul (diff 2 b)).sub .rn ((diff 1 b).mul (diff 2 a))
  if !((pts.flatten).all Fl.isFinite) || ((cr 1 2).isZero && (cr 2 0).isZero && (cr 0 1).isZero) then none else
  some { kind := 3, kids := [], body := nth vs 0 0 + nth vs 1 0 * 2 ^ 96 + nth vs 2 0 * 2 ^ 192 + p % 2 ^ 32 * 2 ^ 288 + g % 2 ^ 24 * 2 ^ 320 + opq * 2 ^ 344,
         box := boxOfPoints pts, geom := g, prim := p, pin := none, kept := none }

/-- A box leaf; none when it is degenerate (R204). -/
def boxLeaf (g p opq x : Nat) : Option LNode :=
  let lo := f32s x 3
  let hi := f32s (x / 2 ^ 96) 3
  if !((lo ++ hi).all Fl.isFinite) || ((List.range 3).any fun i => (axis hi i).lt (axis lo i)) then none else
  some { kind := 4, kids := [], body := x % 2 ^ 192 + p % 2 ^ 32 * 2 ^ 192 + g % 2 ^ 24 * 2 ^ 224 + opq * 2 ^ 248, box := some (lo, hi), geom := g,
         prim := p, pin := none, kept := none }

/-- The vertices of a triangle primitive of an entry. -/
def triVerts (s : State) (ctx e p : Nat) : List Nat → State × Except Nat (List Nat)
  | [] => (s, .ok [])
  | k :: ks =>
    let ia := bits e 191 128
    let idx := if ia = 0 then (s, .ok (3 * p + k)) else loomRead s ctx (ia + 4 * (3 * p + k)) 4
    match idx with
    | (s1, .error a) => (s1, .error a)
    | (s1, .ok i) =>
      match loomRead s1 ctx (bits e 63 0 + i * bits e 95 64) 12 with
      | (s2, .error a) => (s2, .error a)
      | (s2, .ok v) =>
        match triVerts s2 ctx e p ks with
        | (s3, .ok l) => (s3, .ok (v :: l))
        | r => r

/-- Primitive p of geometry g: its leaf, none when it is degenerate. -/
def readPrim (s : State) (ctx g p e : Nat) : State × Except LoomEnd (Option LNode) :=
  let opq := b2n (bit e 192)
  if bit e 194 then
    match loomRead s ctx (bits e 63 0 + 128 * p) 128 with
    | (s1, .ok x) => instanceLeaf s1 ctx g p x
    | (s1, .error a) => (s1, .error ⟨stBadCmd, a⟩)
  else if bit e 193 then
    match loomRead s ctx (bits e 63 0 + p * bits e 95 64) 24 with
    | (s1, .ok x) => (s1, .ok (boxLeaf g p opq x))
    | (s1, .error a) => (s1, .error ⟨stBadCmd, a⟩)
  else
    match triVerts s ctx e p [0, 1, 2] with
    | (s1, .ok vs) => (s1, .ok (triLeaf g p opq vs))
    | (s1, .error a) => (s1, .error ⟨stBadCmd, a⟩)

/-- What reading the geometry gave: the leaves, how many primitives are degenerate, and the first of them. -/
structure Gathered where
  (leaves : List LNode) (degen : Nat) (first : Option Nat)

/-- Reads primitives in ascending geometry and primitive index. -/
def readPrims (s : State) (ctx : Nat) (stop : Bool) : List (Nat × Nat × Nat) → State × Except LoomEnd Gathered
  | [] => (s, .ok ⟨[], 0, none⟩)
  | (g, p, e) :: ps =>
    match readPrim s ctx g p e with
    | (s1, .error x) => (s1, .error x)
    | (s1, .ok leaf) =>
      let name := g * 2 ^ 24 + p % 2 ^ 24
      if leaf.isNone && stop then (s1, .error ⟨stDegenerate, name⟩) else
      match readPrims s1 ctx stop ps with
      | (s2, .error x) => (s2, .error x)
      | (s2, .ok r) =>
        match leaf with
        | some n => (s2, .ok { r with leaves := n :: r.leaves })
        | none => (s2, .ok { r with degen := r.degen + 1, first := some name })

/-- Reads the geometry entries of a command. -/
def readEntries (s : State) (ctx a : Nat) : List Nat → State × Except LoomEnd (List Nat)
  | [] => (s, .ok [])
  | i :: is =>
    match loomRead s ctx (a + 32 * i) 32 with
    | (s1, .error f) => (s1, .error ⟨stBadCmd, f⟩)
    | (s1, .ok e) =>
      if bits e 255 195 != 0 || (bit e 193 && bit e 194) then (s1, .error ⟨stBadCmd, bits e 255 192⟩) else
      match readEntries s1 ctx a is with
      | (s2, .ok l) => (s2, .ok (e :: l))
      | r => r

/-- The primitives of some entries, in order. -/
def primList (es : List Nat) : List (Nat × Nat × Nat) :=
  ((List.range es.length).zip es).flatMap fun x => (List.range (bits x.2 127 96)).map fun p => (x.1, p, x.2)

/-! ### An existing version (R203) -/

/-- A leaf of the pool, as its node gives it; the primitive of an instance is in the Loom's own state. It stands where it is: a version
that keeps it writes no node (R196, R207), and pins the bottom generation that an instance names (R208). -/
def leafOf (s : State) (ctx : Nat) (insts : List (Nat × Nat × Nat)) (r x : Nat) : LNode :=
  let leaf (box : Option Box) (geom prim : Nat) (pin : Option (Nat × Nat)) : LNode :=
    { kind := refKind r, kids := [], body := x % 2 ^ (8 * nodeBytes r - 32), box := box, geom := geom, prim := prim, pin := pin, kept := some (refIndex r) }
  match refKind r with
  | 3 => leaf (boxOfPoints [f32s x 3, f32s (x / 2 ^ 96) 3, f32s (x / 2 ^ 192) 3]) (bits x 343 320) (bits x 319 288) none
  | 4 => leaf (some (f32s x 3, f32s (x / 2 ^ 96) 3)) (bits x 247 224) (bits x 223 192) none
  | _ =>
    let name := ((insts.find? fun e => e.1 == refIndex r).map (·.2)).getD (0, bits x 535 512)
    leaf none name.1 name.2 ((liveGen s ctx (bits x 447 384) (bits x 511 480)).map fun y => (y.1, y.2.num))

/-- The bits of a box node that hold its origin, exponents and codes. -/
def boxBody (w x : Nat) : Nat :=
  let off := if w = 4 then 256 else 384
  x % 2 ^ 120 + x / 2 ^ off % 2 ^ (48 * w) * 2 ^ off

/-- The root of a subtree is a box node of the pool, kept as it is. -/
def keepRoot (unit body : Nat) : List LNode → List LNode
  | [] => []
  | n :: ns => { n with body := body, kept := some unit } :: ns

/-- The tree of a slot; an instance there is held to the slot's box, which holds that of its bottom structure. -/
def boxSlot (t : List LNode) (b : Box) : List LNode :=
  t.map fun n => if n.kind = 5 ∧ n.box.isNone ∧ bits n.body 479 448 ≠ 0 then { n with box := some b } else n

/-- Reads a version's nodes from the pool; a reference that names no node reads as an empty slot. -/
def readTree (s : State) (ctx : Nat) (insts : List (Nat × Nat × Nat)) (ref : Nat) : Nat → State × Except LoomEnd (List LNode)
  | 0 => (s, .ok [])
  | fuel + 1 =>
    if refKind ref = 0 ∨ 5 < refKind ref then (s, .ok []) else
    match loomRead s ctx (bits (s.ctx ctx).pool 51 16 * 2 ^ 16 + 64 * refIndex ref) (nodeBytes ref) with
    | (s1, .error a) => (s1, .error ⟨stBadCmd, a⟩)
    | (s1, .ok x) =>
      if 3 ≤ refKind ref then (s1, .ok [leafOf s1 ctx insts ref x]) else
      let w := if refKind ref = 1 then 4 else 8
      let r := (List.range w).foldl (fun (acc : State × Except LoomEnd (List (List LNode))) k =>
        match acc with
        | (st, .error f) => (st, .error f)
        | (st, .ok l) =>
          match readTree st ctx insts (childRef x k) fuel with
          | (st1, .ok t) => (st1, .ok (l ++ [boxSlot t (childBox x w k)]))
          | (st1, .error f) => (st1, .error f)) (s1, .ok [])
      match r with
      | (s2, .ok subs) => (s2, .ok (keepRoot (refIndex ref) (boxBody w x) (joinTrees w subs)))
      | (s2, .error f) => (s2, .error f)

/-- A version with new leaves: each leaf in its place, an empty slot where its primitive is degenerate or a box node has
nothing left (R203, R471). -/
def refitTree (nodes leaves : List LNode) (i : Nat) : Nat → List LNode
  | 0 => []
  | fuel + 1 =>
    match nodes[i]? with
    | none => []
    | some n =>
      if 3 ≤ n.kind then (leaves.find? fun l => l.geom == n.geom && l.prim == n.prim).toList
      else
        let subs := n.kids.map fun k => match k with
          | some j => refitTree nodes leaves j fuel
          | none => []
        if subs.all List.isEmpty then [] else joinTrees (if n.kind = 1 then 4 else 8) subs

/-- The leaves of a version. -/
def treeLeaves (nodes : List LNode) : List LNode := nodes.filter fun n => decide (3 ≤ n.kind)

/-! ### Boxes of a version (R198) -/

/-- The part of a box node's bits that holds its origin, exponents and codes. -/
def codeBits (w x : Nat) : Nat := x % 2 ^ 120 + x / 2 ^ 128 % 2 ^ (48 * w) * 2 ^ (if w = 4 then 256 else 384)

/-- Every child's decoded box holds its exact box (R198) (DESIGN CHOICE, log 10). -/
def codesHold (w x : Nat) (kids : List (Option Box)) : Bool :=
  (List.range kids.length).all fun k =>
    match nth kids k none with
    | none => true
    | some b =>
      let (lo, hi) := childBox x w k
      (List.range 3).all fun a => (axis lo a).le (axis b.1 a) && (axis b.2 a).le (axis hi a)

/-- The smallest exponent whose codes span an extent. -/
def scaleFor (ext : Fl) : Int := (((List.range 256).map fun (i : Nat) => ((i : Int) - 128)).find? fun e => ext.le (Fl.scaled 256 e)).getD 127

/-- Tight codes for a node's children (DESIGN CHOICE, log 10). -/
def tightCodes (w : Nat) (b : Box) (kids : List (Option Box)) : Nat :=
  let o := (List.range 3).map fun a => roundF fFP32 .rd (axis b.1 a)
  let e := (List.range 3).map fun a => scaleFor ((axis b.2 a).sub .rn (f32 (nth o a 0)))
  let code (x : Fl) (a : Nat) (m : RMode) : Int := (Fl.toIntR m ((x.sub .rn (f32 (nth o a 0))).div (Fl.scaled 1 (nth e a 0)))).getD 0
  let qbox (c : Box) : Nat := ((List.range 3).map fun a =>
    let lo := (satInt false 8 (code (axis c.1 a) a .rd)).toNat
    let hi := max lo (satInt false 8 (code (axis c.2 a) a .ru - 1)).toNat
    (lo + 256 * hi) * 2 ^ (16 * a)).sum
  joinElems 32 o + ((List.range 3).map fun a => wrapInt 8 (nth e a 0) * 2 ^ (96 + 8 * a)).sum +
    ((List.range kids.length).map fun k => match nth kids k none with
      | some c => qbox c * 2 ^ ((if w = 4 then 256 else 384) + 48 * k)
      | none => 0).sum

/-- Origin, exponents and codes of a box node: any that hold its children are allowed, and which the Loom takes is left open
(R198, DESIGN CHOICE, log 10). -/
def nodeCodes (s : State) (w : Nat) (b : Box) (kids : List (Option Box)) : State × Nat :=
  let (n, s1) := s.draw
  let x := codeBits w (Config.free n)
  (s1, if codesHold w x kids && ((f32s x 3).all Fl.isFinite) then x else tightCodes w b kids)

/-- The bodies of the box nodes of a version. -/
def fillCodes (s : State) (nodes : List LNode) : List LNode → State × List LNode
  | [] => (s, [])
  | n :: ns =>
    if 3 ≤ n.kind then let (s1, l) := fillCodes s nodes ns; (s1, n :: l) else
    let kids := n.kids.map fun k => (k.bind fun j => nodes[j]?).bind (·.box)
    match n.box with
    | none => let (s1, l) := fillCodes s nodes ns; (s1, n :: l)
    | some b =>
      let (s1, x) := nodeCodes s (if n.kind = 1 then 4 else 8) b kids
      let (s2, l) := fillCodes s1 nodes ns
      (s2, { n with body := x } :: l)

/-! ### Quality counters (R211) -/

/-- What the walk of a version adds up: the surface cost in FP64, intersections and areas of children, slots filled and
slots, and the greatest depth. -/
structure Quality where
  (cost : Fl) (meet : Fl) (area : Fl) (full : Nat) (slots : Nat) (depth : Nat) (prims : Nat)

def rnd64 (x : Fl) : Fl := decodeF fFP64 (roundF fFP64 .rn x)

/-- Walks a version depth-first, children in ascending slot; the box is the decoded one. -/
def quality (nodes : List LNode) (root : Fl) (q : Quality) (i : Nat) (b : Box) (depth : Nat) : Nat → Quality
  | 0 => q
  | fuel + 1 =>
    match nodes[i]? with
    | none => q
    | some n =>
      let w := if root.isZero then Fl.ofNat 0 else (areaOf b).div root
      let term := if 3 ≤ n.kind then (Fl.ofNat 4).mul w else w
      let q1 := { q with cost := rnd64 (q.cost.add .rn (rnd64 term)), depth := max q.depth depth }
      if 3 ≤ n.kind then { q1 with prims := q.prims + 1 } else
      let sz := if n.kind = 1 then 4 else 8
      let kids := ((List.range n.kids.length).zip n.kids).filterMap fun k => k.2.map fun j => (j, childBox n.body sz k.1)
      let boxes := kids.map (·.2)
      let pairs := (List.range boxes.length).flatMap fun x => (boxes.drop (x + 1)).map fun c => meetArea (nth boxes x ([], [])) c
      let low := kids.all fun k => (nodes[k.1]?).any fun m => decide (3 ≤ m.kind)
      let q2 := { q1 with meet := pairs.foldl (Fl.add .rn) q1.meet, area := (boxes.map areaOf).foldl (Fl.add .rn) q1.area,
                          full := q1.full + (if low then kids.length else 0), slots := q1.slots + (if low then sz else 0) }
      kids.foldl (fun acc k => quality nodes root acc k.1 k.2 (depth + 1) fuel) q2

/-- FP32 codes of a version's bounds: its root box rounded outward; +0 where there is none. -/
def boundCodes (nodes : List LNode) : List Nat :=
  match nodes.head?.bind (·.box) with
  | some b => (List.range 3).map (fun a => roundF fFP32 .rd (axis b.1 a)) ++ (List.range 3).map fun a => roundF fFP32 .ru (axis b.2 a)
  | none => List.replicate 6 0

/-- The counters of a version. -/
def qualityOf (nodes : List LNode) : Quality :=
  let c := boundCodes nodes
  let b : Box := ((c.take 3).map f32, (c.drop 3).map f32)
  quality nodes (areaOf b) ⟨.ofNat 0, .ofNat 0, .ofNat 0, 0, 0, 0, 0⟩ 0 b 0 64

/-- Bytes 4 to 63 of the header that publishes a version (Table 8-2). -/
def headerBytes (nodes : List LNode) (root refits : Nat) (top : Bool) : List Byte :=
  let q := qualityOf nodes
  let ov := if q.area.isZero then 0 else (toIntSat false 16 .rz ((Fl.ofNat 65536).mul (q.meet.div q.area))).toNat
  let fill := if q.slots = 0 then 0 else min 65535 (q.full * 65536 / q.slots)
  bytesOfNat root 4 ++ (boundCodes nodes).flatMap (fun c => bytesOfNat c 4) ++ bytesOfNat (code32 q.cost) 4 ++ bytesOfNat ov 2 ++ bytesOfNat fill 2 ++
    bytesOfNat q.depth 1 ++ bytesOfNat (1 + 2 * b2n top) 1 ++ bytesOfNat refits 2 ++ bytesOfNat q.prims 4 ++ List.replicate 16 0

/-! ### Allocation and nodes (R194, R196, R470) -/

/-- The first free run of n units, n-aligned, at or after a unit. -/
def freeRun (used : List Nat) (units n i : Nat) : Nat → Option Nat
  | 0 => none
  | fuel + 1 =>
    if units < i + n then none
    else if (List.range n).all fun k => !(used.contains (i + k)) then some i else freeRun used units n (i + n) fuel

/-- Takes units of the pool for a node; which free ones is left to the schedule (DESIGN CHOICE, log 10). -/
def takeUnits (s : State) (ctx n : Nat) : State × Option Nat :=
  let c := s.ctx ctx
  let units := bits c.pool 92 64
  let (start, s1) := s.choose units
  match freeRun c.poolUsed units n (start / n * n) (units + 1) with
  | some i => (s1.modCtx ctx fun c => { c with poolUsed := c.poolUsed ++ (List.range n).map (i + ·) }, some i)
  | none =>
    match freeRun c.poolUsed units n 0 (units + 1) with
    | some i => (s1.modCtx ctx fun c => { c with poolUsed := c.poolUsed ++ (List.range n).map (i + ·) }, some i)
    | none => (s1, none)

/-- Returns units to the pool. -/
def returnUnits (s : State) (ctx : Nat) (l : List Nat) : State :=
  s.modCtx ctx fun c => { c with poolUsed := c.poolUsed.filter fun u => !(l.contains u) }

/-- Units of a node. -/
def LNode.units (n : LNode) : Nat := if n.kind = 2 ∨ n.kind = 5 then 2 else 1

/-- Takes units for every node in order, but for nodes that are kept: the first unit of each, or how far it came. -/
def takeAll (s : State) (ctx : Nat) : List LNode → State × List Nat × Bool
  | [] => (s, [], true)
  | n :: ns =>
    match (match n.kept with
      | some i => (s, some i)
      | none => takeUnits s ctx n.units) with
    | (s1, none) => (s1, [], false)
    | (s1, some i) => let (s2, l, ok) := takeAll s1 ctx ns; (s2, i :: l, ok)

/-- The units that nodes hold. -/
def heldUnits (nodes : List LNode) (idx : List Nat) : List Nat := (nodes.zip idx).flatMap fun x => (List.range x.1.units).map (x.2 + ·)

/-- The nodes that are not kept, with their units. -/
def newNodes (nodes : List LNode) (idx : List Nat) : List (LNode × Nat) := (nodes.zip idx).filter fun x => x.1.kept.isNone

/-- The units that the nodes not kept hold. -/
def newUnits (nodes : List LNode) (idx : List Nat) : List Nat := (newNodes nodes idx).flatMap fun x => (List.range x.1.units).map (x.2 + ·)

/-- The primitives behind the instance nodes of a version. -/
def instNames (nodes : List LNode) (idx : List Nat) : List (Nat × Nat × Nat) :=
  ((nodes.zip idx).filter fun x => x.1.kind == 5).map fun x => (x.2, x.1.geom, x.1.prim)

/-- The reference of node j. -/
def refOf (nodes : List LNode) (idx : List Nat) (j : Nat) : Nat := ((nodes[j]?).map (·.kind)).getD 0 * 2 ^ 29 + nth idx j 0

/-- A node as it stands in the pool: references and GEN with its body. -/
def nodeImage (nodes : List LNode) (idx : List Nat) (gen : Nat) (n : LNode) : Nat :=
  n.body + ((List.range n.kids.length).map fun k => match nth n.kids k none with
    | some j => refOf nodes idx j * 2 ^ (32 * k + 128)
    | none => 0).sum + gen % 2 ^ 32 * 2 ^ (if n.units = 2 then 992 else 480)

/-- Writes the nodes of a version; else the address that faulted. -/
def writeNodes (s : State) (ctx gen : Nat) (nodes : List LNode) (idx : List Nat) : List (LNode × Nat) → State × Option Nat
  | [] => (s, none)
  | x :: xs =>
    match loomWrite s ctx (bits (s.ctx ctx).pool 51 16 * 2 ^ 16 + 64 * x.2) (bytesOfNat (nodeImage nodes idx gen x.1) (64 * x.1.units)) with
    | (s1, some a) => (s1, some a)
    | (s1, none) => writeNodes s1 ctx gen nodes idx xs

/-! ### Staging and publishing (R203, R205, R206, R208, R210) -/

/-- A structure that has just been named. -/
def Struct.initial (ctx header : Nat) : Struct :=
  { ctx := ctx, header := header, gens := [], cur := none, geoms := [], refits := 0, staged := none, retired := [] }

/-- The structure of a header, created on its first naming (R195). -/
def structFor (s : State) (ctx header : Nat) : State × Nat :=
  match structAt s ctx header with
  | some k => (s, k)
  | none => let (k, s1) := s.fresh; (s1.setStruct k (Struct.initial ctx header), k)

/-- The generation that the next publish takes (R206). -/
def nextGen (t : Struct) : Nat := ((t.cur.getD 0) + 1) % 2 ^ 32

/-- Ends a staged version that is no longer the structure's: the units that no other version of it reaches return, and its pins are
released (R208). -/
def dropStaged (s : State) (k ctx : Nat) (v : Staged) : State :=
  let used := ((s.structs.get? k).map fun t => t.gens.flatMap (·.units) ++ t.retired.flatMap (·.2) ++ ((t.staged.map (·.units)).getD [])).getD []
  let s1 := returnUnits s ctx (v.units.filter fun u => !(used.contains u))
  dropPins s1 (pinFuel s1 + v.below.length) v.below

/-- Makes a version the staged version of a structure, or leaves it without one. -/
def setStaged (s : State) (k : Nat) (v : Option Staged) : State :=
  match s.structs.get? k with
  | some t => s.setStruct k { t with staged := v }
  | none => s

/-- Stages a version: units and nodes for what it does not keep, and pins; the version it replaces has not ended yet. It answers the
units allocated. A header that is given is the source's own. -/
def stage (s : State) (k ctx : Nat) (nodes : List LNode) (refits : Nat) (geoms : List Nat) (top : Bool) (header : Option (List Byte)) :
    State × Except (LoomEnd × Nat) Nat :=
  match s.structs.get? k with
  | none => (s, .error (⟨stBadCmd, 0⟩, 0))
  | some t =>
    let (s1, idx, ok) := takeAll s ctx nodes
    let mine := newUnits nodes idx
    if !ok then (returnUnits s1 ctx mine, .error (⟨stPoolFull, t.header⟩, mine.length)) else
    match writeNodes s1 ctx (nextGen t) nodes idx (newNodes nodes idx) with
    | (s2, some a) => (returnUnits s2 ctx mine, .error (⟨stBadCmd, a⟩, mine.length))
    | (s2, none) =>
      let below := dedup (nodes.filterMap (·.pin))
      let s3 := below.foldl (fun st p => addPin st p.1 p.2) s2
      let root := if nodes.isEmpty then 0 else refOf nodes idx 0
      (setStaged s3 k (some { root := root, units := heldUnits nodes idx, below := below, header := header.getD (headerBytes nodes root refits top),
                              refits := refits, geoms := geoms, insts := instNames nodes idx }), .ok mine.length)

/-- The generations that stay live when another is published. -/
def staysLive (t : Struct) : List Gen := t.gens.filter fun g => decide (0 < g.pins)

/-- A publish would pass 16 live generations or the span limit (R208, R473). -/
def pinFull (t : Struct) : Bool :=
  decide (16 ≤ (staysLive t).length) || (staysLive t).any fun g => decide (2 ^ 31 ≤ (nextGen t + 2 ^ 32 - g.num % 2 ^ 32) % 2 ^ 32)

/-- The pin table after a publish: the new generation, the old ones that stay live, and what the publish retires (R210). -/
def published (t : Struct) (v : Staged) : Struct :=
  let new := nextGen t
  let old := (t.gens.filter fun g => t.cur == some g.num).flatMap (·.units)
  { t with gens := staysLive t ++ [{ num := new, root := v.root, units := v.units, pins := 0, below := v.below, header := v.header, insts := v.insts }], cur := some new, geoms := v.geoms,
           refits := v.refits, staged := none, retired := t.retired ++ [(new, old.filter fun u => !(v.units.contains u))] }

/-- PUBLISH (R206): the header in one atomic step, the pins of generations that are no longer live, and the return of
retired units. It answers a status. -/
def publish (s : State) (k : Nat) : State × LoomEnd :=
  match s.structs.get? k with
  | none => (s, ⟨stNoStaged, 0⟩)
  | some t =>
    match t.staged with
    | none => (s, ⟨stNoStaged, 0⟩)
    | some v =>
      if pinFull t then (s, ⟨stPinFull, t.header⟩) else
      match loomWrite s t.ctx t.header (bytesOfNat (nextGen t) 4 ++ v.header) with
      | (s1, some a) => (s1, ⟨stBadCmd, a⟩)
      | (s1, none) =>
        let dead := t.gens.filter fun g => g.pins == 0
        let s2 := reclaim (s1.setStruct k (published t v)) k
        (dropPins s2 (pinFuel s2) (dead.flatMap (·.below)), ⟨stDone, 0⟩)

/-! ### Commands (R203 to R206, Table 8-5) -/

/-- What a command gave: its end, and the count fields that it writes. -/
structure LoomOut where
  (s : State) (fin : LoomEnd) (degen : Nat) (nodes : Nat) (first : Option Nat) (gen : Option Nat)

/-- The offending field of a command block, when there is one (Table 8-6) (DEDUCED, log 43). -/
def blockBad (w : Nat) : Option Nat :=
  if 4 ≤ w % 16 then some (w % 16) else if bits w 7 6 = 3 then some 3 else if bits w 31 8 ≠ 0 then some (bits w 31 8)
  else if bits w 223 200 ≠ 0 then some (bits w 223 200) else if bits w 511 352 ≠ 0 then some (bits w 511 352)
  else if 256 < bits w 63 32 then some (bits w 63 32) else if bits w 127 64 % 64 ≠ 0 then some (bits w 127 64) else none

/-- A command that ends without effect (DEDUCED, log 43). -/
def loomFail (s : State) (e : LoomEnd) : LoomOut := ⟨s, e, 0, 0, if e.status = stDegenerate then some e.d1 else none, none⟩

/-- The staged version that a structure has. -/
def stagedOf (s : State) (k : Nat) : Option Staged := (s.structs.get? k).bind (·.staged)

/-- Ends the version that a new staged version has replaced. -/
def dropOld (s : State) (k ctx : Nat) : Option Staged → State
  | some v => dropStaged s k ctx v
  | none => s

/-- The end of a command that has staged a version in place of another: AUTOPUB publishes it at once. A publish that fails but with
PINFULL leaves the staged version as it was before the command (R203, R205). -/
def afterStage (s : State) (k ctx w degen nodes : Nat) (first : Option Nat) (old : Option Staged) : LoomOut :=
  let gen := (s.structs.get? k).map nextGen
  if !(bit w 5) then ⟨dropOld s k ctx old, ⟨stDone, 0⟩, degen, nodes, first, gen⟩ else
  let (s1, e) := publish s k
  if e.status = stDone ∨ e.status = stPinFull then ⟨dropOld s1 k ctx old, e, degen, nodes, first, gen⟩
  else { loomFail (dropOld (setStaged s1 k old) k ctx (stagedOf s1 k)) e with degen := degen, nodes := nodes, first := first }

/-- Stages and ends a command. -/
def finishStage (s : State) (k ctx w : Nat) (nodes : List LNode) (refits : Nat) (geoms : List Nat) (top : Bool) (header : Option (List Byte))
    (degen : Nat) (first : Option Nat) : LoomOut :=
  match stage s k ctx nodes refits geoms top header with
  | (s1, .error e) => { loomFail s1 e.1 with degen := degen, nodes := e.2, first := first }
  | (s1, .ok n) => afterStage s1 k ctx w degen n first (stagedOf s k)

/-- The version that a command works from (R203): root, refits, primitive counts, header and the primitives of its instances. -/
structure Source where
  (root : Nat) (refits : Nat) (geoms : List Nat) (header : List Byte) (insts : List (Nat × Nat × Nat))

/-- The staged version, else the current one (R203). -/
def sourceOf (t : Struct) : Option Source :=
  match t.staged with
  | some v => some ⟨v.root, v.refits, v.geoms, v.header, v.insts⟩
  | none => (t.gens.find? fun g => t.cur == some g.num).map fun g => ⟨g.root, t.refits, t.geoms, g.header, g.insts⟩

/-- SAHCOST in bytes 4 to 63 of a header (Table 8-2). -/
def headerCost (header : List Byte) : Fl := f32 (byteField header 28 4)

/-- Entries that mix instances with other kinds (R204). -/
def mixedKinds (es : List Nat) : Bool := es.any (fun e => bit e 194) && es.any fun e => !(bit e 194)

/-- Reads the geometry of a BUILD or REFIT; a REFIT's counts must equal those of the version (R203). -/
def gather (s : State) (ctx w : Nat) (counts : Option (List Nat)) : State × Except LoomEnd (List Nat × Gathered) :=
  match readEntries s ctx (bits w 191 128) (List.range (bits w 63 32)) with
  | (s1, .error e) => (s1, .error e)
  | (s1, .ok es) =>
    if mixedKinds es then (s1, .error ⟨stBadCmd, 1⟩)
    else if counts.any fun c => c != es.map fun e => bits e 127 96 then (s1, .error ⟨stMismatch, 0⟩) else
    match readPrims s1 ctx (bit w 4) (primList es) with
    | (s2, .ok g) => (s2, .ok (es, g))
    | (s2, .error e) => (s2, .error e)

/-- BUILD (R203). -/
def runBuild (s : State) (k ctx w : Nat) : LoomOut :=
  match gather s ctx w none with
  | (s1, .error e) => loomFail s1 e
  | (s1, .ok (es, g)) =>
    let (s2, tree) := buildTree s1 g.leaves
    let (s3, nodes) := fillCodes s2 tree tree
    finishStage s3 k ctx w nodes 0 (es.map fun e => bits e 127 96) (es.any fun e => bit e 194) none g.degen g.first

/-- REFIT (R203, R471). -/
def runRefit (s : State) (k ctx w : Nat) : LoomOut :=
  match (s.structs.get? k).bind sourceOf with
  | none => loomFail s ⟨stMismatch, 0⟩
  | some src =>
    match gather s ctx w (some src.geoms) with
    | (s1, .error e) => loomFail s1 e
    | (s1, .ok (es, g)) =>
      match readTree s1 ctx src.insts src.root 64 with
      | (s2, .error e) => loomFail s2 e
      | (s2, .ok old) =>
        let tree := refitTree old g.leaves 0 64
        let (s3, nodes) := fillCodes s2 tree tree
        finishStage s3 k ctx w nodes (min 65535 (src.refits + 1)) src.geoms (es.any fun e => bit e 194) none g.degen g.first

/-- REBALANCE (R203): new box nodes over the leaves that there are, where the SAHCOST is no higher than the source's; else the source's
own nodes and header. -/
def runRebalance (s : State) (k ctx w : Nat) : LoomOut :=
  match (s.structs.get? k).bind sourceOf with
  | none => loomFail s ⟨stMismatch, 0⟩
  | some src =>
    match readTree s ctx src.insts src.root 64 with
    | (s1, .error e) => loomFail s1 e
    | (s1, .ok old) =>
      let (s2, tree) := buildTree s1 (treeLeaves old)
      let (s3, new) := fillCodes s2 tree tree
      let top := old.any fun n => n.kind == 5
      if (f32 (code32 (qualityOf new).cost)).le (headerCost src.header)
      then finishStage s3 k ctx w new src.refits src.geoms top none 0 none
      else finishStage s3 k ctx w old src.refits src.geoms top (some src.header) 0 none

/-- One command on its structure. -/
def runCommand (s : State) (ctx w : Nat) : LoomOut :=
  match blockBad w with
  | some f => loomFail s ⟨stBadCmd, f % 2 ^ 64⟩
  | none =>
    let (s1, k) := structFor s ctx (bits w 127 64)
    match w % 16 with
    | 0 => runBuild s1 k ctx w
    | 1 => runRefit s1 k ctx w
    | 2 => runRebalance s1 k ctx w
    | _ =>
      let gen := (s1.structs.get? k).map nextGen
      let (s2, e) := publish s1 k
      ⟨s2, e, 0, 0, none, if e.status = stDone then gen else none⟩

/-- Writes STATUS and the count fields of a command block; GENOUT and FIRSTDEG are left open where the spec gives them no
value (DESIGN CHOICE, log 6). -/
def writeStatus (s : State) (ctx a : Nat) (o : LoomOut) : State :=
  let (n, s1) := s.draw
  let s2 := (loomWrite s1 ctx (a + 24) (bytesOfNat o.fin.status 1)).1
  (loomWrite s2 ctx (a + 28) (bytesOfNat (o.gen.getD (Config.free n % 2 ^ 32)) 4 ++ bytesOfNat o.degen 4 ++ bytesOfNat o.nodes 4 ++
    bytesOfNat (o.first.getD (Config.free n / 2 ^ 32)) 4)).1

/-- The log entry of a status (Table 20-2) (DEDUCED, log 43). -/
def logStatus (s : State) (ctx : Nat) (e : LoomEnd) : State :=
  if e.status = stPoolFull ∨ e.status = stPinFull then logRender s 0xFFFF ctx e.d1 (bits (s.ctx ctx).pool 92 64 - (s.ctx ctx).poolUsed.length)
  else if e.status = stDegenerate ∨ e.status = stBadCmd then logRender s 0xFFFF ctx e.d1 0
  else s

/-- Performs a command whose block has been read: its effect, STATUS, the log, and then the flag (R203, R389). -/
def endCommand (s : State) (id : Nat) (op : Op) (a : Nat) (cmd : List Byte) : State :=
  let o := if cmd.isEmpty then loomFail s ⟨stBadCmd, a⟩ else runCommand s op.ctx (natOfBytes cmd)
  let s1 := logStatus (writeStatus o.s op.ctx a o) op.ctx o.fin
  decFlags (endOp s1 id) op.decs

/-- A Loom command in flight. -/
def loomJob (op : Op) : Option (List Byte × Nat × Bool) :=
  match op.job with
  | .loom cmd a st => some (cmd, a, st)
  | _ => none

/-- A command may be performed: every command before it has reached the Loom, and none of them names its structure (R206). -/
def mayRun (s : State) (id : Nat) (op : Op) (cmd : List Byte) : Bool :=
  s.ops.all fun e => match loomJob e.2 with
    | some (c, _, st) => decide (id ≤ e.1) || (st && !(e.2.ctx == op.ctx && byteField c 8 8 == byteField cmd 8 8))
    | none => true

/-- A command reaches the Loom, which reads its block (R389); an unreadable block leaves it without one (R472). -/
def takeCommand (s : State) (id : Nat) (op : Op) (a : Nat) : State :=
  match loomPieces s op.ctx [(a, 64)] with
  | (s1, .ok l) => s1.setOp id { op with job := .loom l a true }
  | (s1, .error _) => s1.setOp id { op with job := .loom [] a true }

/-- The operation that a block names; a block that cannot be read or names none stands for a BUILD. -/
def loomKind (cmd : List Byte) : Nat := if 3 < byteField cmd 0 1 % 16 then 0 else byteField cmd 0 1 % 16

/-- A step of the Loom on a command: it takes the command, or performs it when it is of the kind given. -/
def loomStep (kind : Nat) (id : Nat) (s : State) : State :=
  match s.ops.get? id with
  | none => s
  | some op =>
    match loomJob op with
    | some (_, a, false) => takeCommand s id op a
    | some (cmd, a, true) => if loomKind cmd = kind && mayRun s id op cmd then endCommand s id op a cmd else s
    | none => s

/-- BUILD (R203). -/
def execBuild (op : Nat) (s : State) : Host.Outcome State Fault Refusal := .next (loomStep 0 op s)
/-- REFIT (R203). -/
def execRefit (op : Nat) (s : State) : Host.Outcome State Fault Refusal := .next (loomStep 1 op s)
/-- REBALANCE (R203). -/
def execRebalance (op : Nat) (s : State) : Host.Outcome State Fault Refusal := .next (loomStep 2 op s)
/-- PUBLISH (R206). -/
def execPublish (op : Nat) (s : State) : Host.Outcome State Fault Refusal := .next (loomStep 3 op s)

/-! ### bld, gpin, gunpin, gqry (R389, R390) -/

/-- bld of one thread. -/
def bldThread (o : OpBld) (s : State) (t : Nat) : Act :=
  let a := s.gr t o.a.val
  if a.toNat % 64 ≠ 0 then .bad (cAlign, a) else .done (forkOp s t o.fs (.loom [] a.toNat false) 0 [] [])

/-- `bld` (R389). -/
def execBld (o : OpBld) (s : State) : Host.Outcome State Fault Refusal := laneOp (.bld o) (bldThread o) s

/-- gpin of one thread. -/
def gpinThread (o : Op2) (s : State) (t : Nat) : Act :=
  let a := s.gr t o.a.val
  if a.toNat % 64 ≠ 0 then .bad (cAlign, a) else
  match headerRead s t a.toNat with
  | (s1, .error f) => .fail s1 f
  | (s1, .ok h) =>
    match takePin s1 (s1.ctxOf t) a.toNat h none with
    | (s2, none) => .done (s2.setG t o.d.val 0)
    | (s2, some (k, g)) =>
      let s3 := (acquire s2 (s2.clusterOf t)).modCtx (s.ctxOf t) fun c => { c with pins := c.pins ++ [(k, g.num)] }
      .done (s3.setG t o.d.val (wordOf (g.num % 2 ^ 32 + 2 ^ 32)))

/-- `gpin` (R390). -/
def execGpin (o : Op2) (s : State) : Host.Outcome State Fault Refusal := laneOp (.gpin o) (gpinThread o) s

/-- The list without the first occurrence of an entry. -/
def dropOne {α : Type} [BEq α] (x : α) : List α → List α
  | [] => []
  | y :: ys => if y == x then ys else y :: dropOne x ys

/-- gunpin of one thread. -/
def gunpinThread (o : OpAB) (s : State) (t : Nat) : Act :=
  let a := s.gr t o.a.val
  let b := (s.gr t o.b.val).toNat
  if a.toNat % 64 ≠ 0 then .bad (cAlign, a) else
  match headerRead s t a.toNat with
  | (s1, .error f) => .fail s1 f
  | (s1, .ok _) =>
    match structAt s1 (s.ctxOf t) a.toNat with
    | none => .fail s1 (cOperand, 0)
    | some k =>
      if 2 ^ 32 ≤ b ∨ !((s1.ctx (s.ctxOf t)).pins.contains (k, b)) then .fail s1 (cOperand, 0)
      else .done (dropPin (s1.modCtx (s.ctxOf t) fun c => { c with pins := dropOne (k, b) c.pins }) k b)

/-- `gunpin` (R390). -/
def execGunpin (o : OpAB) (s : State) : Host.Outcome State Fault Refusal := laneOp (.gunpin o) (gunpinThread o) s

/-- The word of gqry: CURGEN and VALID of the header, and what the Loom knows of the structure. -/
def gqryWord (s : State) (ctx a h : Nat) : Nat :=
  let t := (structAt s ctx a).bind s.structs.get?
  headerGen h + b2n (headerValid h) * 2 ^ 32 + b2n (t.any fun x => x.staged.isSome) * 2 ^ 33 +
    min 16 ((t.map fun x => (x.gens.filter (genLive x)).length).getD 0) * 2 ^ 34

/-- gqry of one thread (DEDUCED, log 40). -/
def gqryThread (o : Op2) (s : State) (t : Nat) : Act :=
  let a := s.gr t o.a.val
  if a.toNat % 64 ≠ 0 then .bad (cAlign, a) else
  match headerRead s t a.toNat with
  | (s1, .error f) => .fail s1 f
  | (s1, .ok h) => .done (s1.setG t o.d.val (wordOf (gqryWord s1 (s.ctxOf t) a.toNat h)))

/-- `gqry` (R390). -/
def execGqry (o : Op2) (s : State) : Host.Outcome State Fault Refusal := laneOp (.gqry o) (gqryThread o) s

end Sys2Proof.Machine
end

