-- ==== Sys2Proof/Machine/Fifo.lean ====
section
/-! DEFINITION. FIFO stage queues (spec 13 R326 to R328, spec 06 R150 to R152, spec 07 R163): pop and push, at issue and
when Blocked threads test again. -/

namespace Sys2Proof.Machine

/-- Entry bytes of a FIFO (Table 6-7). -/
def FifoDef.bytes (d : FifoDef) : Nat := 16 * 2 ^ d.esize

/-- The instance, stage and group of a thread of a stage team. -/
def stageOf (s : State) (t : Nat) : Option (Nat × Nat × Nat) :=
  match (s.teamOf t).role with
  | .stage inst st group => if (s.insts.get? inst).isSome then some (inst, st, group) else none
  | _ => none

/-- A group of an instance is draining (R152). -/
def isDraining (i : Instance) (st group : Nat) : Bool :=
  i.groups.any fun h => h.stage == st && 64 * h.core + h.quarter == group && h.draining.isSome

/-- The producer of a FIFO is closed (R151, R163). -/
def producerClosed (i : Instance) (f : Fifo) : Bool := if f.def_.prod < 8 then nth i.closed f.def_.prod false else f.fixedClosed

/-- A pop or push that Table 13-8 rejects. -/
def fifoBad (s : State) (t f n : Nat) (pops : Bool) : Bool :=
  match stageOf s t with
  | none => true
  | some (inst, st, _) =>
    match s.insts.get? inst with
    | none => true
    | some i =>
      match i.fifos[f]? with
      | none => true
      | some q => (if pops then q.def_.cons != st else q.def_.prod != st) || decide (q.def_.bytes < 8 * n)

/-- Changes one FIFO of an instance. -/
def modFifo (s : State) (inst f : Nat) (g : Fifo → Fifo) : State :=
  s.modInst inst fun i => { i with fifos := modNth i.fifos f g }

/-- A pop that finds no entry writes D alone: poison that waits for the end of the clause in the rest of the group still comes
(R262). -/
def popNothing (s : State) (t n d pd : Nat) (v : Word) : State :=
  ((s.setG t d v).setP t pd false).modThread t fun x =>
    { x with hintEnd := x.hintEnd ++ ((x.clause.map (·.poison)).getD []).filter fun r => decide (d < r ∧ r < d + n) }

/-- What a pop does now (R327); none where the thread stays Blocked. -/
def popNow (s : State) (t f n d pd : Nat) : Option State :=
  match stageOf s t with
  | none => some s
  | some (inst, st, group) =>
    match s.insts.get? inst with
    | none => some s
    | some i =>
      match i.fifos[f]? with
      | none => some s
      | some q =>
        if isDraining i st group then some (popNothing s t n d pd 1) else
        match q.entries with
        | e :: rest =>
          let s0 := modFifo s inst f fun q => { q with entries := rest }
          let s1 := if q.def_.prod = 9 then takeEntry s0 inst t e else s0
          some ((setGroup (acquire s1 (s1.clusterOf t)) t d n (natOfBytes (e.take (8 * n)))).setP t pd true)
        | [] => if producerClosed i q then some (popNothing s t n d pd 0) else none

/-- What a push does now (R328); none where the thread stays Blocked. -/
def pushNow (s : State) (t f n d pd : Nat) : Option State :=
  match stageOf s t with
  | none => some s
  | some (inst, _, _) =>
    match s.insts.get? inst with
    | none => some s
    | some i =>
      match i.fifos[f]? with
      | none => some s
      | some q =>
        if q.entries.length < q.def_.depth then
          let e := groupBytes s t d n ++ List.replicate (q.def_.bytes - 8 * n) 0
          some ((modFifo s inst f fun q => { q with entries := q.entries ++ [e] }).setP t pd true)
        else none

/-- A thread Blocked at a FIFO goes on if it can. -/
def retryFifo (s : State) (t : Nat) : Option State :=
  match (s.thread t).run with
  | .blocked (.pop f n d pd) => (popNow s t f n d pd).map fun s1 => resume s1 t
  | .blocked (.push f n d pd) => (pushNow s t f n d pd).map fun s1 => resume s1 t
  | _ => none

/-- A thread still stands Blocked at a FIFO, its team resident. -/
def stillAt (s : State) (t f : Nat) (pops : Bool) : Bool :=
  teamRuns s t && match (s.thread t).run with
    | .blocked (.pop f' _ _ _) => pops && f == f'
    | .blocked (.push f' _ _ _) => !pops && f == f'
    | _ => false

/-- The first thread of a waiting list that can go on, and the state after it. -/
def firstReady (s : State) : List Nat → Option (Nat × State)
  | [] => none
  | t :: ts =>
    match retryFifo s t with
    | some s1 => some (t, s1)
    | none => firstReady s ts

/-- Re-tests the threads Blocked at a FIFO, in the order in which they blocked, until none can go on. -/
def settleFifo (s : State) (inst f : Nat) : Nat → State
  | 0 => s
  | fuel + 1 =>
    match (s.insts.get? inst).bind fun i => i.fifos[f]? with
    | none => s
    | some q =>
      match firstReady s (q.poppers.filter fun t => stillAt s t f true) with
      | some (t, s1) => settleFifo (modFifo s1 inst f fun q => { q with poppers := q.poppers.filter fun x => x != t }) inst f fuel
      | none =>
        match firstReady s (q.pushers.filter fun t => stillAt s t f false) with
        | some (t, s1) => settleFifo (modFifo s1 inst f fun q => { q with pushers := q.pushers.filter fun x => x != t }) inst f fuel
        | none => s

/-- Re-tests a FIFO for as many threads as wait at it. -/
def settleFifoAll (s : State) (inst f : Nat) : State :=
  match (s.insts.get? inst).bind fun i => i.fifos[f]? with
  | none => s
  | some q => settleFifo s inst f (q.poppers.length + q.pushers.length + 1)

/-- Re-tests every FIFO of an instance, after a stage has closed or a group has begun to drain. -/
def settleFifos (s : State) (inst : Nat) : State :=
  (List.range (((s.insts.get? inst).map (·.fifos.length)).getD 0)).foldl (fun st f => settleFifoAll st inst f) s

/-- Appends an engine's entry to a FIFO (R328); it waits for room in its producer. -/
def enginePush (s : State) (inst f : Nat) (e : List Byte) : State :=
  settleFifoAll (modFifo s inst f fun q => { q with entries := q.entries ++ [e] }) inst f

/-- A pop of one thread (R327). -/
def popThread (o : OpFifo) (s : State) (t : Nat) : Act :=
  let n := o.n.val + 1
  if fifoBad s t o.f.val n true then .bad (cOperand, 0) else
  match stageOf s t with
  | none => .done s
  | some (inst, _, _) =>
    match popNow s t o.f.val n o.d.val o.pd.val with
    | some s1 => .done (settleFifoAll s1 inst o.f.val)
    | none => .done (modFifo (block s t (.pop o.f.val n o.d.val o.pd.val)) inst o.f.val fun q =>
        { q with poppers := q.poppers.filter (fun x => x != t) ++ [t] })

/-- `pop` (R326, R327). -/
def execPop (o : OpFifo) (s : State) : Host.Outcome State Fault Refusal :=
  .next (issueFix (.pop o) (runThreads (popThread o)) (fun _ _ => .next) (fun _ st t => ([], (st.thread t).hintEnd)) s)

/-- A push of one thread (R328). -/
def pushThread (o : OpFifo) (s : State) (t : Nat) : Act :=
  let n := o.n.val + 1
  if fifoBad s t o.f.val n false then .bad (cOperand, 0) else
  match stageOf s t with
  | none => .done s
  | some (inst, _, _) =>
    match pushNow s t o.f.val n o.d.val o.pd.val with
    | some s1 => .done (settleFifoAll s1 inst o.f.val)
    | none => .done (modFifo (block s t (.push o.f.val n o.d.val o.pd.val)) inst o.f.val fun q =>
        { q with pushers := q.pushers.filter (fun x => x != t) ++ [t] })

/-- `push` (R326, R328). -/
def execPush (o : OpFifo) (s : State) : Host.Outcome State Fault Refusal := laneOp (.push o) (pushThread o) s

end Sys2Proof.Machine
end

