-- ==== Sys2Proof/Machine/LaneFloat.lean ====
section
/-! DEFINITION. Floating point, compares, predicates, conversions, special functions and the log domain (spec 12 R280 to
R290). -/

namespace Sys2Proof.Machine

/-- Rounds a value into a format as an instruction's modifiers say (R120, R122). -/
def State.roundTo (s : State) (f : Fmt) (x : Fl) : Nat := roundFlush f s.mode s.ftz x

/-- An element-wise float instruction of format A (R280): the value of a result from those of a, b and d. -/
def floatOp (i : Instr) (o : Op3F) (f : RMode → Fl → Fl → Fl → Fl) (s : State) : Host.Outcome State Fault Refusal :=
  regOp i o.d (fun s t => map3 o.ft.fmt.width
    (fun a b d => s.roundTo o.ft.fmt (f s.mode (decodeF o.ft.fmt a) (decodeF o.ft.fmt b) (decodeF o.ft.fmt d)))
    (s.gr t o.a.val) (s.gr t o.b.val) (s.gr t o.d.val)) s

/-- An element-wise float instruction of format U: the code of a result from that of a. -/
def floatOp1 (i : Instr) (o : Op2F) (f : State → Nat → Nat) (s : State) : Host.Outcome State Fault Refusal :=
  regOp i o.d (fun s t => map1 o.ft.fmt.width (f s) (s.gr t o.a.val)) s

/-- `add` on floats (R280). -/
def execAddF (o : Op3F) (s : State) : Host.Outcome State Fault Refusal := floatOp (.addF o) o (fun m a b _ => Fl.add m a b) s
/-- `sub` on floats (R280). -/
def execSubF (o : Op3F) (s : State) : Host.Outcome State Fault Refusal := floatOp (.subF o) o (fun m a b _ => Fl.sub m a b) s
/-- `mul` on floats (R280). -/
def execMulF (o : Op3F) (s : State) : Host.Outcome State Fault Refusal := floatOp (.mulF o) o (fun _ a b _ => Fl.mul a b) s
/-- `fma`, exact with one rounding (R280). -/
def execFma (o : Op3F) (s : State) : Host.Outcome State Fault Refusal :=
  floatOp (.fma o) o (fun m a b d => Fl.add m (Fl.mul a b) d) s
/-- `min` on floats (R280, R124). -/
def execMinF (o : Op3F) (s : State) : Host.Outcome State Fault Refusal := floatOp (.minF o) o (fun _ a b _ => Fl.minN a b) s
/-- `max` on floats (R280, R124). -/
def execMaxF (o : Op3F) (s : State) : Host.Outcome State Fault Refusal := floatOp (.maxF o) o (fun _ a b _ => Fl.maxN a b) s
/-- `class` (R282). -/
def execClassOp (o : Op2F) (s : State) : Host.Outcome State Fault Refusal :=
  floatOp1 (.classOp o) o (fun _ c => classMask o.ft.fmt c) s

/-- The integral value nearest a value under a mode (R283). -/
def rndValue (m : RMode) : Fl → Fl
  | .num s n d => .num s (roundUnits m s n d 0) 1
  | x => x

/-- `rnd` (R283). -/
def execRnd (o : Op2F) (s : State) : Host.Outcome State Fault Refusal :=
  floatOp1 (.rnd o) o (fun s c => roundF o.ft.fmt .rn (rndValue s.mode (decodeF o.ft.fmt c))) s

/-! ### Compares and predicates -/

/-- Width of an integer compare (Table 12-4). -/
def OpCmp.intWidth (w : Bool) : Nat := if w then 64 else 32

/-- `cmp` on signed integers (R284). -/
def execCmpS (o : OpCmp) (s : State) : Host.Outcome State Fault Refusal :=
  predOp (.cmpS o) o.pd (fun s t =>
    let n := OpCmp.intWidth o.w
    condInt o.cond (sextNat n (s.gr t o.a.val).toNat) (sextNat n (s.gr t o.b.val).toNat)) s
/-- `cmp` on unsigned integers (R284). -/
def execCmpN (o : OpCmp) (s : State) : Host.Outcome State Fault Refusal :=
  predOp (.cmpN o) o.pd (fun s t =>
    let n := OpCmp.intWidth o.w
    condInt o.cond ((s.gr t o.a.val).toNat % 2 ^ n : Nat) ((s.gr t o.b.val).toNat % 2 ^ n : Nat)) s

/-- A float compare of element 0 (R284). -/
def cmpF (f : Fmt) (o : OpCmp) (s : State) (t : Nat) : Bool :=
  condFl o.cond (decodeF f ((s.gr t o.a.val).toNat % 2 ^ f.width)) (decodeF f ((s.gr t o.b.val).toNat % 2 ^ f.width))

/-- `cmp` on FP32 and FP64 (R284). -/
def execCmpF32F64 (o : OpCmp) (s : State) : Host.Outcome State Fault Refusal :=
  predOp (.cmpF32F64 o) o.pd (cmpF (if o.w then fFP64 else fFP32) o) s
/-- `cmp` on FP16 and BF16 (R284). -/
def execCmpF16Bf16 (o : OpCmp) (s : State) : Host.Outcome State Fault Refusal :=
  predOp (.cmpF16Bf16 o) o.pd (cmpF (if o.w then fBF16 else fFP16) o) s
/-- `plop` (R286). -/
def execPlop (o : OpPlop) (s : State) : Host.Outcome State Fault Refusal :=
  predOp (.plop o) o.pd (fun s t => lutBit o.lut (s.pr t o.pa.val) (s.pr t o.pb.val) (s.pr t o.pc.val)) s

/-! ### Conversions -/

/-- The result register of a conversion to a type: sign-extended for a signed integer, zero-extended otherwise (R287). -/
def cvtWord (ty : Ty) (c : Nat) : Word :=
  match tyNum ty with
  | .int true n => sextWord n c
  | _ => wordOf c

/-- `cvt` (R287). -/
def execCvt (o : OpCvt) (s : State) : Host.Outcome State Fault Refusal :=
  regOp (.cvt o) o.d (fun s t =>
    cvtWord o.dst (convert (tyNum o.src) (tyNum o.dst) s.mode s.ftz ((s.gr t o.a.val).toNat % 2 ^ (tyNum o.src).width))) s

/-! ### Special functions (Table 12-6) -/

/-- A special function that goes through the log domain and back. -/
def specialOp (i : Instr) (o : Op2F) (f : LogW → LogW) (s : State) : Host.Outcome State Fault Refusal :=
  floatOp1 i o (fun s c => fromLog o.ft.fmt s.mode s.ftz (f (toLog (decodeF o.ft.fmt c)))) s

/-- `rcp` (R288). -/
def execRcp (o : Op2F) (s : State) : Host.Outcome State Fault Refusal := specialOp (.rcp o) o logRcp s
/-- `sqrt` (R288). -/
def execSqrt (o : Op2F) (s : State) : Host.Outcome State Fault Refusal := specialOp (.sqrt o) o logSqrt s
/-- `rsqrt` (R288). -/
def execRsqrt (o : Op2F) (s : State) : Host.Outcome State Fault Refusal := specialOp (.rsqrt o) o logRsqrt s
/-- `log2` (R288). -/
def execLog2 (o : Op2F) (s : State) : Host.Outcome State Fault Refusal :=
  floatOp1 (.log2 o) o (fun s c => s.roundTo o.ft.fmt (logLog2 (toLog (decodeF o.ft.fmt c)))) s
/-- `exp2` (R288). -/
def execExp2 (o : Op2F) (s : State) : Host.Outcome State Fault Refusal :=
  floatOp1 (.exp2 o) o (fun s c => fromLog o.ft.fmt s.mode s.ftz (logExp2 (decodeF o.ft.fmt c))) s
/-- `tolog` (R289). -/
def execTolog (o : Op2F) (s : State) : Host.Outcome State Fault Refusal :=
  regOp (.tolog o) o.d (fun s t => wordOf (toLog (decodeF o.ft.fmt ((s.gr t o.a.val).toNat % 2 ^ o.ft.fmt.width))).toNat) s
/-- `fromlog` (R289). -/
def execFromlog (o : Op2F) (s : State) : Host.Outcome State Fault Refusal :=
  regOp (.fromlog o) o.d (fun s t => wordOf (fromLog o.ft.fmt s.mode s.ftz (.ofNat (s.gr t o.a.val).toNat))) s
/-- `lsqrt` (R290). -/
def execLsqrt (o : Op2) (s : State) : Host.Outcome State Fault Refusal :=
  regOp (.lsqrt o) o.d (fun s t => wordOf (logSqrt (.ofNat (s.gr t o.a.val).toNat)).toNat) s
/-- `lrcp` (R290); −L that leaves the range takes the result of R118. -/
def execLrcp (o : Op2) (s : State) : Host.Outcome State Fault Refusal :=
  regOp (.lrcp o) o.d (fun s t => wordOf (logRcp (.ofNat (s.gr t o.a.val).toNat)).toNat) s
/-- `lmul` (R290). -/
def execLmul (o : Op3X) (s : State) : Host.Outcome State Fault Refusal :=
  regOp (.lmul o) o.d (fun s t => wordOf (logMul (.ofNat (s.gr t o.a.val).toNat) (.ofNat (s.gr t o.b.val).toNat)).toNat) s
/-- `ldiv` (R290). -/
def execLdiv (o : Op3X) (s : State) : Host.Outcome State Fault Refusal :=
  regOp (.ldiv o) o.d (fun s t => wordOf (logDiv (.ofNat (s.gr t o.a.val).toNat) (.ofNat (s.gr t o.b.val).toNat)).toNat) s
/-- `lpow` (R290): element 0 of B is an FP32 exponent. -/
def execLpow (o : Op3X) (s : State) : Host.Outcome State Fault Refusal :=
  regOp (.lpow o) o.d (fun s t =>
    wordOf (logPow (.ofNat (s.gr t o.a.val).toNat) (decodeF fFP32 ((s.gr t o.b.val).toNat % 2 ^ 32))).toNat) s

end Sys2Proof.Machine
end

