-- ==== Sys2Proof/Machine/CrossLane.lean ====
section
/-! DEFINITION. Cross-lane operations (spec 12 R299 to R305), xmov and the uniform majors (R306 to R308, spec 02 R26). -/

namespace Sys2Proof.Machine

/-- The participant at a gang position. -/
def partAt (s : State) (ps : List Nat) (p : Nat) : Option Nat := ps.find? fun t => (s.thread t).pos == p

/-- Writes one register of every participant, from values read before any is written (R275). -/
def crossWrite (s : State) (ps : List Nat) (d : Nat) (f : Nat → Word) : State := ps.foldl (fun st t => st.setG t d (f t)) s

/-- A gang-wide instruction that writes a g register of each participant. -/
def crossOp (i : Instr) (d : Reg) (f : State → Nat → List Nat → Nat → Word) (s : State) : Host.Outcome State Fault Refusal :=
  gangOp i (fun s gid ps => Out.ok (crossWrite s ps d.val (f s gid ps))) s

/-- Flat element f of register a (R299); none when it is absent. -/
def flatElem (s : State) (ps : List Nat) (a n w : Nat) (f : Option Nat) : Option Nat :=
  match f with
  | none => none
  | some f => if f < w * (64 / n) then (partAt s ps (f / (64 / n))).map fun t => elemAt n (f % (64 / n)) (s.gr t a).toNat else none

/-- Gathers the elements of a shuffle: an absent source gives the reader's own element (R299). -/
def shuffle (s : State) (gid : Nat) (ps : List Nat) (a n : Nat) (src : Nat → Nat → Option Nat) (t : Nat) : Word :=
  let w := (s.gang gid).width
  wordOf (joinElems n ((List.range (64 / n)).map fun j =>
    (flatElem s ps a n w (src (s.thread t).pos j)).getD (elemAt n j (s.gr t a).toNat)))

/-- `shfl` (R300). -/
def execShfl (o : Op3) (s : State) : Host.Outcome State Fault Refusal :=
  crossOp (.shfl o) o.d (fun s gid ps t =>
    let n := o.wid.size
    let all := (s.gang gid).width * (64 / n)
    shuffle s gid ps o.a.val n (fun _ j => some (((s.gr t o.b.val).toNat % 512 + j) % all)) t) s

/-- An immediate shuffle: the source of element j of position p, among e elements (R301). -/
def shfliOp (i : Instr) (o : OpShfli) (src : Nat → Nat → Nat → Option Nat) (s : State) : Host.Outcome State Fault Refusal :=
  crossOp i o.d (fun s gid ps t => shuffle s gid ps o.a.val o.wid.size (src (64 / o.wid.size)) t) s

/-- `shfli.idx` (R301). -/
def execShfliIdx (o : OpShfli) (s : State) : Host.Outcome State Fault Refusal :=
  shfliOp (.shfliIdx o) o (fun e _ j => some (o.v.val * e + j)) s
/-- `shfli.up` (R301). -/
def execShfliUp (o : OpShfli) (s : State) : Host.Outcome State Fault Refusal :=
  shfliOp (.shfliUp o) o (fun e p j => if p * e + j < o.v.val then none else some (p * e + j - o.v.val)) s
/-- `shfli.down` (R301). -/
def execShfliDown (o : OpShfli) (s : State) : Host.Outcome State Fault Refusal :=
  shfliOp (.shfliDown o) o (fun e p j => some (p * e + j + o.v.val)) s
/-- `shfli.xor` (R301). -/
def execShfliXor (o : OpShfli) (s : State) : Host.Outcome State Fault Refusal :=
  shfliOp (.shfliXor o) o (fun e p j => some (Nat.xor (p * e + j) o.v.val)) s

/-- `bcast` (R302). -/
def execBcast (o : OpBcast) (s : State) : Host.Outcome State Fault Refusal :=
  crossOp (.bcast o) o.d (fun s _ ps t => s.gr ((partAt s ps o.p.val).getD t) o.a.val) s

/-- A vote: every participant writes PD (R303). -/
def voteOp (i : Instr) (o : OpVote) (f : List Bool → Bool) (s : State) : Host.Outcome State Fault Refusal :=
  gangOp i (fun s _ ps =>
    let r := f (ps.map fun t => s.pr t o.a.val)
    Out.ok (ps.foldl (fun st t => st.setP t o.d.val r) s)) s

/-- `vote.any` (R303). -/
def execVoteAny (o : OpVote) (s : State) : Host.Outcome State Fault Refusal := voteOp (.voteAny o) o (fun l => l.any id) s
/-- `vote.all` (R303). -/
def execVoteAll (o : OpVote) (s : State) : Host.Outcome State Fault Refusal := voteOp (.voteAll o) o (fun l => l.all id) s
/-- `vote.uni` (R303). -/
def execVoteUni (o : OpVote) (s : State) : Host.Outcome State Fault Refusal :=
  voteOp (.voteUni o) o (fun l => l.all id || l.all fun b => !b) s

/-- The mask of the positions of some threads. -/
def posMask (s : State) (l : List Nat) : Word := wordOf (maskOf (l.map fun t => (s.thread t).pos))

/-- `ballot` (R303). -/
def execBallot (o : OpBallot) (s : State) : Host.Outcome State Fault Refusal :=
  crossOp (.ballot o) o.d (fun s _ ps _ => posMask s (ps.filter fun t => s.pr t o.n.val)) s

/-- `match` (R304). -/
def execMatchOp (o : Op2W) (s : State) : Host.Outcome State Fault Refusal :=
  crossOp (.matchOp o) o.d (fun s _ ps t =>
    posMask s (ps.filter fun u => (s.gr u o.a.val).toNat % 2 ^ o.wid.size == (s.gr t o.a.val).toNat % 2 ^ o.wid.size)) s

/-! ### reduce (R305, R131) -/

/-- A step of the tree with an operand that may be absent (R131). -/
def optOp (f : Nat → Nat → Nat) : Option Nat → Option Nat → Option Nat
  | none, y => y
  | x, none => x
  | some x, some y => some (f x y)

/-- One level of the tree: neighbours are combined. -/
def pairUp (f : Nat → Nat → Nat) : List (Option Nat) → List (Option Nat)
  | x :: y :: rest => optOp f x y :: pairUp f rest
  | l => l

/-- The fixed tree over the positions of a gang, in log2 levels (R131). -/
def treeReduce (f : Nat → Nat → Nat) : Nat → List (Option Nat) → Option Nat
  | 0, l => (l.head?).getD none
  | k + 1, l => treeReduce f k (pairUp f l)

/-- Bits of an element of a reduce type. -/
def Ty.bits (ty : Ty) : Nat := (tyNum ty).width

/-- A reduce: element j over all positions, the result to every participant; an absent result cannot arise (R305). -/
def reduceOp (i : Instr) (o : OpRed) (f : State → Nat → Nat → Nat) (s : State) : Host.Outcome State Fault Refusal :=
  crossOp i o.d (fun s gid ps _ =>
    let n := Ty.bits o.ty
    let w := (s.gang gid).width
    wordOf (joinElems n ((List.range (64 / n)).map fun j =>
      (treeReduce (f s) (Nat.log2 w) ((List.range w).map fun p => (partAt s ps p).map fun t => elemAt n j (s.gr t o.a.val).toNat)).getD 0))) s

/-- Integer min or max by the sign of the type. -/
def pickInt (signed : Bool) (n : Nat) (low : Bool) (x y : Nat) : Nat :=
  if low == decide (intOf signed n y < intOf signed n x) then y else x

/-- `reduce.add` (R305). -/
def execReduceAdd (o : OpRed) (s : State) : Host.Outcome State Fault Refusal :=
  reduceOp (.reduceAdd o) o (fun s x y => match tyNum o.ty with
    | .fl f => s.roundTo f (Fl.add s.mode (decodeF f x) (decodeF f y))
    | .int _ n => (x + y) % 2 ^ n) s
/-- `reduce.min` (R305). -/
def execReduceMin (o : OpRed) (s : State) : Host.Outcome State Fault Refusal :=
  reduceOp (.reduceMin o) o (fun _ x y => match tyNum o.ty with
    | .fl f => roundF f .rn (Fl.minN (decodeF f x) (decodeF f y))
    | .int g n => pickInt g n true x y) s
/-- `reduce.max` (R305). -/
def execReduceMax (o : OpRed) (s : State) : Host.Outcome State Fault Refusal :=
  reduceOp (.reduceMax o) o (fun _ x y => match tyNum o.ty with
    | .fl f => roundF f .rn (Fl.maxN (decodeF f x) (decodeF f y))
    | .int g n => pickInt g n false x y) s

/-! ### Uniform registers -/

/-- `xmov gD, wA` (R306). -/
def execXmovG (o : OpXg) (s : State) : Host.Outcome State Fault Refusal :=
  regOp (.xmovG o) o.d (fun s t => s.ur t o.a.val) s

/-- `xmov wD, gA`: A of the participant at the lowest position (R306). -/
def execXmovW (o : OpXw) (s : State) : Host.Outcome State Fault Refusal :=
  gangOp (.xmovW o) (fun s gid ps => match ps with
    | t :: _ => Out.ok (s.setW gid o.d.val (s.gr t o.a.val))
    | [] => Out.ok s) s

/-- A uniform instruction executes once for each gang with a true guard in the group (R26). -/
def uniformOp (i : Instr) (d : UReg) (f : (Nat → Word) → Word) (s : State) : Host.Outcome State Fault Refusal :=
  gangOp i (fun s gid ps => match ps with
    | _ :: _ => Out.ok (s.setW gid d.val (f fun n => vget (s.gang gid).w n 0))
    | [] => Out.ok s) s

/-- A uniform instruction of two operands (Table 12-9). -/
def uniform3 (i : Instr) (o : OpU3) (f : Word → Word → Word) (s : State) : Host.Outcome State Fault Refusal :=
  uniformOp i o.d (fun w => f (w o.a.val) (w o.b.val)) s

/-- Uniform `add`. -/
def execAddU (o : OpU3) (s : State) : Host.Outcome State Fault Refusal := uniform3 (.addU o) o (· + ·) s
/-- Uniform `sub`. -/
def execSubU (o : OpU3) (s : State) : Host.Outcome State Fault Refusal := uniform3 (.subU o) o (· - ·) s
/-- Uniform `and`. -/
def execAndU (o : OpU3) (s : State) : Host.Outcome State Fault Refusal := uniform3 (.andU o) o (· &&& ·) s
/-- Uniform `or`. -/
def execOrU (o : OpU3) (s : State) : Host.Outcome State Fault Refusal := uniform3 (.orU o) o (· ||| ·) s
/-- Uniform `xor`. -/
def execXorU (o : OpU3) (s : State) : Host.Outcome State Fault Refusal := uniform3 (.xorU o) o (· ^^^ ·) s
/-- Uniform `shl`: 0 from a count of 64 up. -/
def execShlU (o : OpU3) (s : State) : Host.Outcome State Fault Refusal := uniform3 (.shlU o) o (fun a b => if b.toNat < 64 then a <<< b.toNat else 0) s
/-- Uniform `shr`: 0 from a count of 64 up. -/
def execShrU (o : OpU3) (s : State) : Host.Outcome State Fault Refusal := uniform3 (.shrU o) o (fun a b => if b.toNat < 64 then a >>> b.toNat else 0) s
/-- Uniform `mul`. -/
def execMulU (o : OpU3) (s : State) : Host.Outcome State Fault Refusal := uniform3 (.mulU o) o (· * ·) s
/-- Uniform add of an immediate. -/
def execAddUimm (o : OpUI) (s : State) : Host.Outcome State Fault Refusal :=
  uniformOp (.addUimm o) o.d (fun w => w o.a.val + immWord o.imm) s
/-- Replaces quarter q of a uniform register. -/
def execMovkU (o : OpUL) (s : State) : Host.Outcome State Fault Refusal :=
  uniformOp (.movkU o) o.d (fun w => wordOf ((w o.d.val).toNat % 2 ^ (16 * o.q.val) + o.imm.toNat * 2 ^ (16 * o.q.val)
    + (w o.d.val).toNat / 2 ^ (16 * o.q.val + 16) * 2 ^ (16 * o.q.val + 16))) s

end Sys2Proof.Machine
end

