-- ==== Sys2Proof/Machine/Graphics.lean ====
section
/-! DEFINITION. Coverage, interpolation and derivatives (spec 15 R371 to R374), resource descriptors, texel formats and the
texture and image accesses (R375 to R377, spec 07 R172). -/

namespace Sys2Proof.Machine

/-! ### edge (R372) -/

/-- A·x + B·y + C from three consecutive codes, exactly. -/
def planeAt (rec_ : List Fl) (k : Nat) (x y : Fl) : Fl :=
  (((axis rec_ (3 * k)).mul x).add .rn ((axis rec_ (3 * k + 1)).mul y)).add .rn (axis rec_ (3 * k + 2))

/-- A pixel centre is inside edge k (R372). -/
def insideEdge (rec_ : List Fl) (k : Nat) (e : Fl) : Bool :=
  let zero := Fl.ofNat 0
  zero.lt e || (e.isZero && (zero.lt (axis rec_ (3 * k)) || ((axis rec_ (3 * k)).isZero && zero.lt (axis rec_ (3 * k + 1)))))

/-- Barycentric weight k; the default NaN when the sum is zero. -/
def weightOf (e sum : Fl) : Nat := code32 (if sum.isZero then .nan else e.div sum)

/-- The pair that edge writes, from the pixel centre and 48 bytes of the record. -/
def edgePair (centre rec_ : Nat) : Nat :=
  let x := f32 centre
  let y := f32 (centre / 2 ^ 32)
  let l := f32s rec_ 12
  let e := (List.range 3).map fun k => planeAt l k x y
  let cov := (x :: y :: l).all Fl.isFinite && (List.range 3).all fun k => insideEdge l k (axis e k)
  let sum := ((axis e 0).add .rn (axis e 1)).add .rn (axis e 2)
  weightOf (axis e 1) sum + weightOf (axis e 2) sum * 2 ^ 32 + code32 (planeAt l 3 x y) * 2 ^ 64 + b2n cov * 2 ^ 127

/-- `edge` (R372). -/
def execEdge (o : Op3X) (s : State) : Host.Outcome State Fault Refusal :=
  laneOp (.edge o) (fun s t => .done (setGroup s t o.d.val 2 (edgePair (s.gr t o.a.val).toNat (groupNat s t o.b.val 6)))) s

/-! ### interp (R373) -/

/-- l0, l1 and l2 from the word of A. -/
def weights (a : Nat) : List Fl :=
  let l1 := f32 a
  let l2 := f32 (a / 2 ^ 32)
  [((Fl.ofNat 1).sub .rn l1).sub .rn l2, l1, l2]

/-- The sum of three products. -/
def dot3 (a b : List Fl) : Fl :=
  (((axis a 0).mul (axis b 0)).add .rn ((axis a 1).mul (axis b 1))).add .rn ((axis a 2).mul (axis b 2))

/-- Attributes of the three vertices, and their clip-space w. -/
def attrsOf (s : State) (t b : Nat) : List Fl := (List.range 3).map fun k => f32 (s.gr t (b + k)).toNat
def clipWs (s : State) (t b : Nat) : List Fl := (List.range 3).map fun k => f32 ((s.gr t (b + k)).toNat / 2 ^ 32)

/-- The value when every input read is finite, else the default NaN. -/
def whenFinite (l : List Fl) (v : Fl) : Word := wordOf (code32 (if l.all Fl.isFinite then v else .nan))

/-- Linear interpolation. -/
def interpLinWord (a : Nat) (attrs : List Fl) : Word := whenFinite ([f32 a, f32 (a / 2 ^ 32)] ++ attrs) (dot3 (weights a) attrs)

/-- Perspective interpolation. -/
def interpPerspWord (a : Nat) (attrs ws : List Fl) : Word :=
  let q := (List.range 3).map fun k => (axis (weights a) k).div (axis ws k)
  let sum := ((axis q 0).add .rn (axis q 1)).add .rn (axis q 2)
  whenFinite ([f32 a, f32 (a / 2 ^ 32)] ++ attrs ++ ws) (if ws.any Fl.isZero || sum.isZero then .nan else (dot3 q attrs).div sum)

/-- `interp.persp` (R373). -/
def execInterpPersp (o : Op3X) (s : State) : Host.Outcome State Fault Refusal :=
  regOp (.interpPersp o) o.d (fun s t => interpPerspWord (s.gr t o.a.val).toNat (attrsOf s t o.b.val) (clipWs s t o.b.val)) s
/-- `interp.lin` (R373). -/
def execInterpLin (o : Op3X) (s : State) : Host.Outcome State Fault Refusal :=
  regOp (.interpLin o) o.d (fun s t => interpLinWord (s.gr t o.a.val).toNat (attrsOf s t o.b.val)) s
/-- `interp.flat` (R373). -/
def execInterpFlat (o : Op3X) (s : State) : Host.Outcome State Fault Refusal :=
  regOp (.interpFlat o) o.d (fun s t => whenFinite [f32 (s.gr t o.b.val).toNat] (f32 (s.gr t o.b.val).toNat)) s

/-! ### deriv (R374) -/

/-- The positions of d and e for a reader (Table 15-2). -/
def derivPositions (y fine : Bool) (p : Nat) : Nat × Nat :=
  let q := p / 4 * 4
  let c := p % 2
  let r := p % 4 / 2
  match y, fine with
  | false, false => (q + 1, q)
  | true, false => (q + 2, q)
  | false, true => (q + 2 * r + 1, q + 2 * r)
  | true, true => (q + 2 + c, q + c)

/-- The result of a deriv for one participant. -/
def derivWord (o : OpDeriv) (s : State) (ps : List Nat) (t : Nat) : Word :=
  let f := o.ft.fmt
  let (pd, pe) := derivPositions o.y o.fine (s.thread t).pos
  match partAt s ps pd, partAt s ps pe with
  | some d, some e => map3 f.width (fun a b _ => roundF f .rn (Fl.sub .rn (decodeF f a) (decodeF f b))) (s.gr d o.a.val) (s.gr e o.a.val) 0
  | _, _ => 0

/-- `deriv` (R374). -/
def execDeriv (o : OpDeriv) (s : State) : Host.Outcome State Fault Refusal :=
  crossOp (.deriv o) o.d (fun s _ ps t => derivWord o s ps t) s

/-! ### Resource descriptors (R375, R376) -/

/-- Bytes of a texel; 0 for a reserved format (Table 15-4). -/
def texelBytes (fmt : Nat) : Nat :=
  match fmt with
  | 1 => 1 | 2 => 4 | 3 => 4 | 4 => 8 | 5 => 8 | 6 => 16 | _ => 0

/-- Components of a texel and the bytes of each. -/
def texelParts (fmt : Nat) : Nat × Nat :=
  match fmt with
  | 1 => (1, 1) | 2 => (4, 1) | 3 => (1, 4) | 4 => (2, 4) | 5 => (4, 2) | _ => (4, 4)

/-- Component k of a texel as an FP32 code (R376). -/
def texelComp (fmt x k : Nat) : Nat :=
  let (n, z) := texelParts fmt
  let c := x / 2 ^ (8 * z * k) % 2 ^ (8 * z)
  if n ≤ k then (if k = 3 then code32 (.ofNat 1) else 0)
  else if z = 1 then code32 ((Fl.ofNat c).div (.ofNat 255))
  else if z = 2 then roundF fFP32 .rn (decodeF fFP16 c) else c

/-- The stored form of a component (R376). -/
def encodeComp (fmt v : Nat) : Nat :=
  match (texelParts fmt).2 with
  | 1 => let x := f32 v; if x.isNan then 0 else (toIntSat false 8 .rn ((Fl.ofNat 255).mul ((Fl.ofNat 1).minN ((Fl.ofNat 0).maxN x)))).toNat
  | 2 => roundF fFP16 .rn (f32 v)
  | _ => v

/-- A descriptor has a reserved format or reserved bits set (Table 15-3). -/
def resBad (r : Nat) : Bool := texelBytes (bits r 103 96) == 0 || bits r 189 144 != 0 || bits r 134 104 != 0

/-- Width and height of level k. -/
def levelW (r k : Nat) : Nat := max 1 ((bits r 79 64 + 1) / 2 ^ k)
def levelH (r k : Nat) : Nat := max 1 ((bits r 95 80 + 1) / 2 ^ k)
/-- Pitch of level k. -/
def levelPitch (r k : Nat) : Nat := 16 * ceilDiv (levelW r k * texelBytes (bits r 103 96)) 16
/-- Address of a texel (R375). -/
def texelAddr (r k i j : Nat) : Nat :=
  (bits r 63 0 + ((List.range k).map fun l => levelPitch r l * levelH r l).sum + j * levelPitch r k + i * texelBytes (bits r 103 96)) % 2 ^ 64

/-- Reads a descriptor for a thread: its causes come before those of its contents (Table 15-9). -/
def readRes (s : State) (t a : Nat) : State × Except Flt Nat :=
  if a % 32 ≠ 0 then (s, .error (cAlign, wordOf a)) else
  match rayLoad s t a 32 with
  | (s1, .ok r) => if resBad r then (s1, .error (cOperand, 0)) else (s1, .ok r)
  | x => x

/-- Four components as two words. -/
def packTexel (c : List Nat) : Nat := ((List.range 4).map fun k => nth c k 0 * 2 ^ (32 * k)).sum

/-- The components of a texel that lies in its level. -/
def loadTexel (s : State) (t r k i j : Nat) : State × Except Flt (List Nat) :=
  match rayLoad s t (texelAddr r k i j) (texelBytes (bits r 103 96)) with
  | (s1, .ok x) => (s1, .ok ((List.range 4).map (texelComp (bits r 103 96) x)))
  | (s1, .error f) => (s1, .error f)

/-! ### Texture reads (R377) -/

/-- An index wrapped on an axis of n; none for a border. -/
def wrapIndex (mode n : Nat) (i : Int) : Option Nat :=
  match mode with
  | 0 => some (i % n).toNat
  | 1 => some (min ((n : Int) - 1) (max 0 i)).toNat
  | 2 => let m := (i % (2 * n)).toNat; some (if m < n then m else 2 * n - 1 - m)
  | _ => if 0 ≤ i ∧ i < n then some i.toNat else none

/-- A texel at wrapped indices. -/
def wrappedTexel (s : State) (t r k : Nat) (ij : Int × Int) : State × Except Flt (List Nat) :=
  match wrapIndex (bits r 137 136) (levelW r k) ij.1, wrapIndex (bits r 139 138) (levelH r k) ij.2 with
  | some i, some j => loadTexel s t r k i j
  | _, _ => (s, .ok [0, 0, 0, 0])

/-- Several texels in order. -/
def wrappedTexels (s : State) (t r k : Nat) : List (Int × Int) → State × Except Flt (List (List Nat))
  | [] => (s, .ok [])
  | p :: ps =>
    match wrappedTexel s t r k p with
    | (s1, .error f) => (s1, .error f)
    | (s1, .ok c) =>
      match wrappedTexels s1 t r k ps with
      | (s2, .ok l) => (s2, .ok (c :: l))
      | (s2, .error f) => (s2, .error f)

/-- The level of texs and texg. -/
def sampleLevel (r x : Nat) : Nat :=
  let v := f32 x
  if v.isNan then 0 else min (bits r 143 140) (max 0 (toIntSat true 64 .rn v)).toNat

/-- The largest integer not above a finite value. -/
def floorOf (x : Fl) : Int := (Fl.toIntR .rd x).getD 0
/-- The integer nearest a value, ties to even. -/
def nearOf (x : Fl) : Nat := ((Fl.toIntR .rn x).getD 0).toNat

/-- The four indices of a bilinear sample with its two weights: T00, T10, T01, T11. -/
def bilinear (u v : Fl) (w h : Nat) : List (Int × Int) × Nat × Nat :=
  let half := Fl.num false 1 2
  let p := (u.mul (.ofNat w)).sub .rn half
  let q := (v.mul (.ofNat h)).sub .rn half
  let i := floorOf p
  let j := floorOf q
  ([(i, j), (i + 1, j), (i, j + 1), (i + 1, j + 1)], nearOf ((Fl.ofNat 256).mul (p.sub .rn (.ofInt i))),
   nearOf ((Fl.ofNat 256).mul (q.sub .rn (.ofInt j))))

/-- One component of a bilinear sample: terms of weight zero are omitted. -/
def blend4 (ts : List (List Nat)) (a b k : Nat) : Nat :=
  let wts := [(256 - a) * (256 - b), a * (256 - b), (256 - a) * b, a * b]
  let terms := (wts.zip ts).filterMap fun p => if p.1 = 0 then none else some ((Fl.ofNat p.1).mul (f32 (nth p.2 k 0)))
  match terms with
  | [] => 0
  | x :: xs => code32 ((xs.foldl (Fl.add .rn) x).div (.ofNat 65536))

/-- The pair of a texs (R377). -/
def sampleTexs (s : State) (t r k : Nat) (u v : Fl) : State × Except Flt Nat :=
  if bit r 135 then
    let (ps, a, b) := bilinear u v (levelW r k) (levelH r k)
    match wrappedTexels s t r k ps with
    | (s1, .ok ts) => (s1, .ok (packTexel ((List.range 4).map (blend4 ts a b))))
    | (s1, .error f) => (s1, .error f)
  else
    match wrappedTexel s t r k (floorOf (u.mul (.ofNat (levelW r k))), floorOf (v.mul (.ofNat (levelH r k)))) with
    | (s1, .ok c) => (s1, .ok (packTexel c))
    | (s1, .error f) => (s1, .error f)

/-- The pair of a texg (R377): T10:T00, then T11:T01. -/
def sampleTexg (s : State) (t r k : Nat) (u v : Fl) : State × Except Flt Nat :=
  match wrappedTexels s t r k (bilinear u v (levelW r k) (levelH r k)).1 with
  | (s1, .ok ts) => (s1, .ok (packTexel (ts.map fun c => nth c 0 0)))
  | (s1, .error f) => (s1, .error f)

/-- A texture access waits until the thread's older accesses are performed (DESIGN CHOICE, log 4). -/
def afterOlder (body : State → Nat → Act) (s : State) (t : Nat) : Act := if (s.accsOf t).isEmpty then body s t else .stay s

/-- A texture read of one thread. -/
def texThread (o : Op3X) (f : State → Nat → Nat → Nat → Fl → Fl → State × Except Flt Nat) (s : State) (t : Nat) : Act :=
  let a := (s.gr t o.a.val).toNat
  match readRes s t (s.gr t o.b.val).toNat with
  | (s1, .error e) => .fail s1 e
  | (s1, .ok r) =>
    let u := f32 a
    let v := f32 (a / 2 ^ 32)
    if !u.isFinite || !v.isFinite then .done (setGroup s1 t o.d.val 2 0) else
    match f s1 t r (sampleLevel r (s.gr t (o.a.val + 1)).toNat) u v with
    | (s2, .error e) => .fail s2 e
    | (s2, .ok x) => .done (setGroup s2 t o.d.val 2 x)

/-- `texs` (R377). -/
def execTexs (o : Op3X) (s : State) : Host.Outcome State Fault Refusal := laneOp (.texs o) (afterOlder (texThread o sampleTexs)) s
/-- `texg` (R377). -/
def execTexg (o : Op3X) (s : State) : Host.Outcome State Fault Refusal := laneOp (.texg o) (afterOlder (texThread o sampleTexg)) s

/-! ### Images (R377) -/

/-- The descriptor, level and coordinates of an image access; a level above LEVELS takes the operand-format cause. -/
def imageAt (o : Op3X) (s : State) (t : Nat) : State × Except Flt (Nat × Nat) :=
  match readRes s t (s.gr t o.b.val).toNat with
  | (s1, .error f) => (s1, .error f)
  | (s1, .ok r) =>
    let k := (s.gr t (o.a.val + 1)).toNat % 16
    if bits r 143 140 < k then (s1, .error (cOperand, 0)) else (s1, .ok (r, k))

/-- imld of one thread. -/
def imldThread (o : Op3X) (s : State) (t : Nat) : Act :=
  let a := (s.gr t o.a.val).toNat
  match imageAt o s t with
  | (s1, .error f) => .fail s1 f
  | (s1, .ok (r, k)) =>
    if levelW r k ≤ a % 2 ^ 32 ∨ levelH r k ≤ a / 2 ^ 32 then .done (setGroup s1 t o.d.val 2 0) else
    match loadTexel s1 t r k (a % 2 ^ 32) (a / 2 ^ 32) with
    | (s2, .ok c) => .done (setGroup s2 t o.d.val 2 (packTexel c))
    | (s2, .error f) => .fail s2 f

/-- `imld` (R377). -/
def execImld (o : Op3X) (s : State) : Host.Outcome State Fault Refusal := laneOp (.imld o) (afterOlder (imldThread o)) s

/-- Sets DIRTY of a descriptor in memory (R172) (DEDUCED, log 40). -/
def setDirty (s : State) (cl k : Nat) : State :=
  let w := readNat s.mem.cells (k + 16) 8
  if bit w 62 then s else atomWrite s cl (k + 16) (bytesOfNat (w + 2 ^ 62) 8)

/-- Stores the components of a texel, one plain store each (R377). -/
def storeComps (s : State) (t fmt k va : Nat) (v : Nat) : State :=
  let (n, z) := texelParts fmt
  (List.range n).foldl (fun st i =>
    notePeer (storeAt st (st.clusterOf t) (k + z * i) (bytesOfNat (encodeComp fmt (v / 2 ^ (32 * i) % 2 ^ 32)) z)) t (k + z * i) (va + z * i)) s

/-- imst of one thread: causes of the texel's store, then of the store to the descriptor (DEDUCED, log 40). -/
def imstThread (o : Op3X) (s : State) (t : Nat) : Act :=
  let a := (s.gr t o.a.val).toNat
  match imageAt o s t with
  | (s1, .error f) => .fail s1 f
  | (s1, .ok (r, k)) =>
    if levelW r k ≤ a % 2 ^ 32 ∨ levelH r k ≤ a / 2 ^ 32 then .done s1 else
    let fmt := bits r 103 96
    let va := texelAddr r k (a % 2 ^ 32) (a / 2 ^ 32)
    match resolveNow s1 t .gl va (texelBytes fmt) .store with
    | (s2, .error f) => .fail s2 f
    | (s2, .ok key) =>
      match metadataFlt s2 key with
      | some (s3, f) => .fail s3 f
      | none =>
        if !bit r 191 then .done (storeComps s2 t fmt key va (groupNat s t o.d.val 2)) else
        match resolveNow s2 t .gl (s.gr t o.b.val).toNat 32 .store with
        | (s3, .error f) => .fail s3 f
        | (s3, .ok dk) => .done (setDirty (storeComps s3 t fmt key va (groupNat s t o.d.val 2)) (s3.clusterOf t) dk)

/-- `imst` (R377). -/
def execImst (o : Op3X) (s : State) : Host.Outcome State Fault Refusal := laneOp (.imst o) (imstThread o) s

end Sys2Proof.Machine
end

