-- ==== Sys2Proof/Machine/Geometry.lean ====
section
/-! DEFINITION. The geometry phase of a frame (spec 07 R163 to R174, spec 20 R474, R475): the device's accesses to a frame's
memory, frame failure, draws and their signatures, batches, vertex work and returns, assembly, and binning. -/

namespace Sys2Proof.Machine

/-! ### The device's accesses to long ranges -/

/-- Reads pieces of a context's memory for the device. -/
def devPieces (s : State) (ctx : Nat) : List (Nat × Nat) → State × Option (List Byte)
  | [] => (s, some [])
  | p :: ps =>
    match devRead s ctx (p.1 % 2 ^ 64) p.2 with
    | (s1, none) => (s1, none)
    | (s1, some l) =>
      match devPieces s1 ctx ps with
      | (s2, some r) => (s2, some (l ++ r))
      | (s2, none) => (s2, none)

/-- Reads n bytes that may cross pages. -/
def devBytes (s : State) (ctx a n : Nat) : State × Option (List Byte) := devPieces s ctx (cutAt 64 0 a n (n / 64 + 2))

/-- Writes bytes that may cross pages, piece by piece until one fails. -/
def devPut (s : State) (ctx a : Nat) : List (Nat × Nat) → List Byte → State × Bool
  | [], _ => (s, true)
  | p :: ps, bs =>
    match devWrite s ctx (p.1 % 2 ^ 64) (bs.take p.2) with
    | (s1, false) => (s1, false)
    | (s1, true) => devPut s1 ctx a ps (bs.drop p.2)

/-- Writes bytes that may cross pages. -/
def devWriteLong (s : State) (ctx a : Nat) (bs : List Byte) : State × Bool := devPut s ctx a (cutAt 64 0 a bs.length (bs.length / 64 + 2)) bs

/-! ### The frame block (Table 7-3) -/

def Frame.field (f : Frame) (off n : Nat) : Nat := byteField f.block off n
def Frame.vring (f : Frame) : Nat := f.field 0 8
def Frame.pring (f : Frame) : Nat := f.field 8 8
def Frame.binBase (f : Frame) : Nat := f.field 16 8
def Frame.binSize (f : Frame) : Nat := f.field 24 8
def Frame.sigBase (f : Frame) : Nat := f.field 32 8
def Frame.nview (f : Frame) : Nat := bits (f.field 40 8) 19 16 + 1
def Frame.nrt (f : Frame) : Nat := bits (f.field 40 8) 22 20 + 1
def Frame.vrec (f : Frame) : Nat := bits (f.field 40 8) 27 24
def Frame.ntiles (f : Frame) : Nat := f.nview * f.ht * f.wt
/-- Address of render-target descriptor i. -/
def Frame.rtDesc (f : Frame) (i : Nat) : Nat := f.field (64 + 8 * i) 8
/-- Address of the vertex record in a slot (R166). -/
def Frame.vertexAddr (f : Frame) (slot : Nat) : Nat := f.vring + slot * f.vrec * 16
/-- View, row and column of a tile number. -/
def Frame.tilePos (f : Frame) (t : Nat) : Nat × Nat × Nat := (t / (f.ht * f.wt), t / f.wt % f.ht, t % f.wt)

/-- A frame block that the launch rejects (Table 7-3). -/
def frameBlockBad (b : List Byte) : Bool :=
  let w := byteField b 40 8
  w % 2 ^ 8 == 0 || bits w 15 8 == 0 || bits w 27 24 == 0 || bits w 23 23 != 0 || bits w 63 28 != 0 || byteField b 48 8 != 0 || byteField b 56 8 != 0
    || byteField b 32 8 % 128 != 0

/-- Opens a frame on its block (R163); the stride of the primitive ring and of bin entries is left open (DESIGN CHOICE, log 11). -/
def openFrame (s : State) (grid : Nat) (block : List Byte) (insts : List Nat) : State × Nat :=
  let (id, s1) := s.fresh
  let (n, s2) := s1.draw
  let g := s.grid grid
  let f : Frame :=
    { grid := grid, qid := g.qid, ctx := g.ctx, addr := g.launch.args.toNat, block := block, phase := 0, insts := insts, draws := [], batches := [],
      tiles := [], items := [], nextOrder := 0, nextSlot := 0, stride := 76 + 4 * (Config.free n % 2 ^ 16), entry := 1 + Config.free n / 2 ^ 16 % 64,
      records := 0, binUsed := 0, nonfinite := 0, binOvf := false, ringFault := false, sigErr := false, auditMis := false, cond := false,
      plane := false, exports := [], dropped := [], ended := false, began := s.clk.ao }
  let s3 := s2.setFrame id f
  (insts.foldl (fun st i => st.modInst i fun x => { x with frame := some id }) s3, id)

/-! ### FIFOs of a rendering pipeline (Table 7-1) -/

/-- The number of an instance's FIFO with a producer or consumer code. -/
def fifoWith (i : Instance) (p : FifoDef → Bool) : Option Nat := (List.range i.fifos.length).find? fun k => (i.fifos[k]?).any fun q => p q.def_

def vertexFifo (i : Instance) : Option Nat := fifoWith i fun d => d.prod == 8
def returnFifo (i : Instance) : Option Nat := fifoWith i fun d => d.cons == 8
def fragmentFifo (i : Instance) : Option Nat := fifoWith i fun d => d.prod == 9

/-- Closes the FIFO of a fixed producer, and lets its consumers see it (R163). -/
def closeFixed (s : State) (inst : Nat) (which : Instance → Option Nat) : State :=
  match (s.insts.get? inst).bind which with
  | some k => settleFifoAll (modFifo s inst k fun q => { q with fixedClosed := true }) inst k
  | none => s

/-- Pushes entries of a fixed producer while its FIFO has room: the state and how many were pushed. -/
def pushFixed (s : State) (inst k : Nat) : List (List Byte) → State × Nat
  | [] => (s, 0)
  | e :: es =>
    match (s.insts.get? inst).bind fun i => i.fifos[k]? with
    | none => (s, 0)
    | some q =>
      if q.def_.depth ≤ q.entries.length then (s, 0) else
      let (s1, n) := pushFixed (enginePush s inst k e) inst k es
      (s1, n + 1)

/-! ### Failure of a frame (R475) -/

/-- FRAMESTAT (Table 20-3). -/
def frameStat (f : Frame) : Nat :=
  min (2 ^ 32 - 1) f.nonfinite + b2n f.binOvf * 2 ^ 32 + b2n f.ringFault * 2 ^ 33 + b2n f.sigErr * 2 ^ 34 + b2n f.auditMis * 2 ^ 35

/-- CPLADDR of a draw. -/
def Draw.cpl (d : Draw) : Nat := bits d.packet 511 448

/-- The adds of a frame's draws that did not fail before, and the end of their packets (DEDUCED, log 29). -/
def endDraws (s : State) (f : Frame) (n : Nat) : State :=
  f.draws.foldl (fun st d => if d.failed then st else packetDone (cplAdd st f.ctx d.cpl n) d.qid d.slot) s

/-- Fails a frame: nothing is emitted, the adds of failure, FRAMESTAT, VALID cleared, and a log entry (R475). -/
def failFrame (s : State) (fr : Nat) (ring sigOk : Bool) : State :=
  match s.frames.get? fr with
  | none => s
  | some f0 =>
    if 2 ≤ f0.phase then s else
    let f := { f0 with phase := 2, ringFault := f0.ringFault || ring, binOvf := f0.binOvf || !ring, exports := [], items := [] }
    let s1 := cplAdd s f.ctx (s.grid f.grid).launch.cpl cplFail
    let s2 := endDraws (s1.modGrid f.grid fun g => { g with failed := true }) f cplFail
    let s3 := if !sigOk then s2 else
      match devWrite s2 f.ctx (f.sigBase + 72) (bytesOfNat (frameStat f) 8) with
      | (s3, true) =>
        match devRead s3 f.ctx (f.sigBase + 64) 1 with
        | (s4, some b) => (devWrite s4 f.ctx (f.sigBase + 64) (bytesOfNat (natOfBytes b / 2 * 2) 1)).1
        | (s4, none) => s4
      | (s3, false) => s3
    let s4 := logRender (s3.setFrame fr f) f.qid f.ctx f.addr (frameStat f)
    f.insts.foldl (fun st i => closeFixed (closeFixed st i vertexFifo) i fragmentFifo) s4

/-! ### Draws (R164, R165, R171 to R173, R378) -/

def drawCount (w : Nat) : Nat := bits w 127 96
/-- Primitives of one instance of a draw. -/
def drawPrims (w : Nat) : Nat := if bits w 15 12 = 0 then drawCount w / 3 else drawCount w - 2
/-- Primitives of a draw. -/
def drawTotal (w : Nat) : Nat := if drawCount w = 0 then 0 else drawPrims w * bits w 191 160

/-- STATE of a draw-state block (Table 15-5). -/
def blockState (b : List Byte) : Nat := byteField b 24 8

/-- STATE holds a reserved value (R378). -/
def stateBad (x : Nat) : Bool :=
  bits x 63 28 != 0 || bits x 6 4 != 0 || decide (2 < bits x 2 0) || bits x 15 14 == 3 || decide (6 ≤ bits x 13 11) || decide (6 ≤ bits x 10 8)

/-- Reads a draw-state block whole; none where it faults or its counts are out of range. -/
def readBlock (s : State) (ctx a : Nat) : State × Option (List Byte) :=
  match devBytes s ctx a 64 with
  | (s1, none) => (s1, none)
  | (s1, some h) =>
    let n := byteField h 32 8
    if 8 < n % 16 ∨ 32 < bits n 9 4 ∨ bits n 63 10 ≠ 0 then (s1, none) else
    match devBytes s1 ctx (a + 64) (32 * (n % 16) + 8 * bits n 9 4) with
    | (s2, some r) => (s2, some (h ++ r))
    | (s2, none) => (s2, none)

/-- Signs a constant buffer whose binding is not valid, and writes its SIG (R171): the signature, none on a fault. -/
def bindingSig (s : State) (ctx a : Nat) (b : List Byte) : State × Option Nat :=
  if byteField b 12 4 % 2 = 1 then (s, some (byteField b 16 16)) else
  match devBytes s ctx (byteField b 0 8) (byteField b 8 4) with
  | (s1, none) => (s1, none)
  | (s1, some l) =>
    let sg := signature64 (stringWords l)
    match devWrite s1 ctx a (b.take 12 ++ bytesOfNat 1 4 ++ bytesOfNat sg 16) with
    | (s2, true) => (s2, some sg)
    | (s2, false) => (s2, none)

/-- TAG of a resource descriptor, bumped first when DIRTY is set (R172); none on a fault. -/
def readTag (s : State) (ctx a : Nat) : State × Option Nat :=
  match devRead s ctx a 32 with
  | (s1, none) => (s1, none)
  | (s1, some l) =>
    let w := byteField l 16 8
    let tag := byteField l 24 8
    if !bit w 62 then (s1, some tag) else
    match devWrite s1 ctx (a + 16) (bytesOfNat (w - 2 ^ 62) 8 ++ bytesOfNat (tag + 1) 8) with
    | (s2, true) => (s2, some ((tag + 1) % 2 ^ 64))
    | (s2, false) => (s2, none)

/-- Reads a list of values one after another. -/
def readEach (f : State → Nat → State × Option Nat) (s : State) : List Nat → State × Option (List Nat)
  | [] => (s, some [])
  | x :: xs =>
    match f s x with
    | (s1, none) => (s1, none)
    | (s1, some v) =>
      match readEach f s1 xs with
      | (s2, some l) => (s2, some (v :: l))
      | (s2, none) => (s2, none)

/-- The signature of a draw (R173). -/
def drawSig (s : State) (ctx a : Nat) (b : List Byte) : State × Option Nat :=
  let n := byteField b 32 8
  match readEach (fun st i => bindingSig st ctx (a + 64 + 32 * i) ((b.drop (64 + 32 * i)).take 32)) s (List.range (n % 16)) with
  | (s1, none) => (s1, none)
  | (s1, some sigs) =>
    match readEach (fun st j => readTag st ctx (byteField b (64 + 32 * (n % 16) + 8 * j) 8)) s1 (List.range (bits n 9 4)) with
    | (s2, none) => (s2, none)
    | (s2, some tags) =>
      (s2, some (signature64 ([byteField b 16 8, byteField b 0 8, byteField b 8 8, blockState b, n] ++ sigs.flatMap sigWords ++ tags)))

/-- Changes a draw of a frame. -/
def modDraw (s : State) (fr i : Nat) (f : Draw → Draw) : State := s.modFrame fr fun x => { x with draws := modNth x.draws i f }

/-- A draw fails once it has been taken: no primitive, the add of failure and a log entry (R461, R378) (DEDUCED, log 42). -/
def failDraw (s : State) (fr i code : Nat) : State :=
  match (s.frames.get? fr).bind fun f => (f.draws[i]?).map fun d => (f, d) with
  | none => s
  | some (f, d) => packetDone (logErr (cplAdd (modDraw s fr i fun d => { d with failed := true }) f.ctx d.cpl cplFail) 4 code d.qid f.ctx d.slot 0)
      d.qid d.slot

/-- A geometry engine reads a draw's state block and signs the draw. -/
def openDraw (s : State) (fr i : Nat) : State :=
  match (s.frames.get? fr).bind fun f => (f.draws[i]?).map fun d => (f, d) with
  | none => s
  | some (f, d) =>
    match readBlock s f.ctx (bits d.packet 319 256) with
    | (s1, none) => failDraw s1 fr i 5
    | (s1, some b) =>
      if stateBad (blockState b) then failDraw s1 fr i 5 else
      match drawSig s1 f.ctx (bits d.packet 319 256) b with
      | (s2, none) => failDraw s2 fr i 5
      | (s2, some sg) => modDraw s2 fr i fun d => { d with block := some b, sig := sg }

/-! ### Batches (R166) -/

/-- The numbers of a primitive's vertices in its instance; the order of the first two of every other primitive of a strip is
left open (DESIGN CHOICE, log 11). -/
def primVerts (w k : Nat) (flip : Bool) : List Nat :=
  if bits w 15 12 = 0 then [3 * k, 3 * k + 1, 3 * k + 2]
  else if k % 2 = 1 ∧ flip then [k + 1, k, k + 2] else [k, k + 1, k + 2]

/-- The vertex index of vertex i of a draw, with BASEV applied; none where the index buffer faults (DEDUCED, log 42). -/
def vertexIndex (s : State) (ctx w i : Nat) : State × Option Nat :=
  let n := bits w 95 64 + i
  if !bit w 16 then (s, some ((n + bits w 63 32) % 2 ^ 32)) else
  let z := if bit w 17 then 4 else 2
  match devBytes s ctx (bits w 255 192 + z * n) z with
  | (s1, some l) => (s1, some ((natOfBytes l + bits w 63 32) % 2 ^ 32))
  | (s1, none) => (s1, none)

/-- Adds a primitive's vertices to a batch's unique vertices: their slots, in primitive order. -/
def addVerts (verts : List (Nat × Nat × Nat)) (next inst : Nat) : List Nat → List (Nat × Nat × Nat) × Nat × List Nat
  | [] => (verts, next, [])
  | v :: vs =>
    match verts.find? fun x => x.1 == v && x.2.1 == inst with
    | some x => let (a, n, l) := addVerts verts next inst vs; (a, n, x.2.2 :: l)
    | none => let (a, n, l) := addVerts (verts ++ [(v, inst, next)]) (next + 1) inst vs; (a, n, next :: l)

/-- Cuts primitives of a draw into a batch; none where the index buffer faults. -/
def cutPrims (s : State) (ctx w order : Nat) (verts : List (Nat × Nat × Nat)) (next : Nat) :
    List Nat → State × Option (List (Nat × List Nat) × List (Nat × Nat × Nat) × Nat)
  | [] => (s, some ([], verts, next))
  | q :: qs =>
    let (k, s1) := s.draw
    let inst := bits w 159 128 + q / drawPrims w
    match readEach (fun st i => vertexIndex st ctx w i) s1 (primVerts w (q % drawPrims w) (Config.free k % 2 == 1)) with
    | (s2, none) => (s2, none)
    | (s2, some vs) =>
      let (verts1, next1, slots) := addVerts verts next (inst % 2 ^ 32) vs
      match cutPrims s2 ctx w (order + 1) verts1 next1 qs with
      | (s3, some (ps, v, n)) => (s3, some ((order, slots) :: ps, v, n))
      | (s3, none) => (s3, none)

/-- Cuts the next batch of a frame from its first draw that has primitives left (DEDUCED, log 42). -/
def cutBatch (s : State) (fr : Nat) : State :=
  match s.frames.get? fr with
  | none => s
  | some f =>
    match (List.range f.draws.length).find? fun i => (f.draws[i]?).any fun d => !d.failed && decide (d.cut < drawTotal d.packet) with
    | none => s
    | some i =>
      let s1 := if ((f.draws[i]?).bind (·.block)).isSome then s else openDraw s fr i
      match (s1.frames.get? fr).bind fun f => (f.draws[i]?).map fun d => (f, d) with
      | none => s1
      | some (f1, d) =>
        if d.failed then s1 else
        let n := min 256 (drawTotal d.packet - d.cut)
        let ready := readyGeoms s1.mgmt
        match cutPrims s1 f1.ctx d.packet f1.nextOrder [] f1.nextSlot ((List.range n).map (d.cut + ·)) with
        | (s2, none) => failDraw s2 fr i 5
        | (s2, some (ps, verts, next)) =>
          (modDraw s2 fr i fun d => { d with cut := d.cut + n }).modFrame fr fun f =>
            { f with nextOrder := f.nextOrder + n, nextSlot := next,
                     batches := f.batches ++ [{ eng := nth ready (f.batches.length % ready.length) 0, draw := i, prims := ps, verts := verts, sent := 0, back := [], done := false, out := [], binned := [] }] }

/-- Changes a batch of a frame. -/
def modBatch (s : State) (fr b : Nat) (f : BatchRec → BatchRec) : State := s.modFrame fr fun x => { x with batches := modNth x.batches b f }

/-- A vertex work entry (Table 7-5). -/
def vertexEntry (dsb : Nat) (v : Nat × Nat × Nat) : List Byte :=
  bytesOfNat dsb 8 ++ bytesOfNat v.1 4 ++ bytesOfNat v.2.1 4 ++ bytesOfNat v.2.2 4 ++ List.replicate 12 0

/-- Sends vertex work of a batch to its instance, as far as there is room (R166). -/
def sendVerts (s : State) (fr b : Nat) : State :=
  match (s.frames.get? fr).bind fun f => (f.batches[b]?).map fun x => (f, x) with
  | none => s
  | some (f, x) =>
    let inst := nth f.insts (b % f.insts.length) 0
    let dsb := bits ((f.draws[x.draw]?).map (·.packet) |>.getD 0) 319 256
    match (s.insts.get? inst).bind vertexFifo with
    | none => s
    | some k =>
      let (s1, n) := pushFixed s inst k ((x.verts.drop x.sent).map (vertexEntry dsb))
      modBatch s1 fr b fun x => { x with sent := x.sent + n }

/-- Takes the vertex returns of an instance (R166). -/
def takeReturns (s : State) (fr inst : Nat) : State :=
  match (s.insts.get? inst).bind fun i => (returnFifo i).bind fun k => (i.fifos[k]?).map fun q => (k, q) with
  | none => s
  | some (k, q) =>
    let slots := q.entries.map fun e => byteField e 0 4
    let s1 := settleFifoAll (modFifo s inst k fun q => { q with entries := [] }) inst k
    s1.modFrame fr fun f => { f with batches := f.batches.map fun x =>
      { x with back := x.back ++ slots.filter fun v => x.verts.any fun y => y.2.2 == v } }

/-! ### Assembly (R166, R371, R474) -/

/-- The clip-space coordinates of a vertex; none where the ring faults. -/
def clipOf (s : State) (f : Frame) (slot : Nat) : State × Option Nat :=
  match devRead s f.ctx (f.vertexAddr slot) 16 with
  | (s1, some l) => (s1, some (natOfBytes l))
  | (s1, none) => (s1, none)

/-- A vertex on its render target. -/
structure Vert where
  (x : Fl) (y : Fl)

/-- The place of a vertex on the render target. -/
def vertOf (f : Frame) (clip : Nat) : Vert :=
  let p := Config.place f.wt f.ht clip
  ⟨(Fl.ofInt p.1).div (.ofNat (p.2.2 + 1)), (Fl.ofInt p.2.1).div (.ofNat (p.2.2 + 1))⟩

/-- The exact coefficients of the line from i to j, positive to its right with y downward. -/
def lineOf (i j : Vert) : List Fl := [i.y.sub .rn j.y, j.x.sub .rn i.x, (i.x.mul j.y).sub .rn (i.y.mul j.x)]

/-- Twice the area that three vertices span; positive when they run clockwise on the render target. -/
def area2 (a b c : Vert) : Fl :=
  let l := lineOf a b
  (((axis l 0).mul c.x).add .rn ((axis l 1).mul c.y)).add .rn (axis l 2)

/-- The codes of the three edges (R371): edge k vanishes on the other two vertices and is positive at vertex k. The scale that the
edges share, and to which neighbour a coefficient rounds, are left open (DESIGN CHOICE, log 11). -/
def edgeCodes (x : Nat) (a b c : Vert) : List Nat :=
  let scale : Fl := .num (area2 a b c).isNeg (1 + x % 2 ^ 64) (1 + x / 2 ^ 64 % 2 ^ 64)
  let l := lineOf b c ++ lineOf c a ++ lineOf a b
  (List.range 9).map fun k => roundF fFP32 (if bit x (128 + k) then .ru else .rd) ((axis l k).mul scale)

/-- A tile has a pixel centre that the edges cover (R372). -/
def coversTile (rec_ : Nat) (tx ty : Nat) : Bool :=
  (List.range 64).any fun i =>
    let at_ (n : Nat) := roundF fFP32 .rn (.num false (2 * n + 1) 2)
    bit (edgePair (at_ (8 * tx + i % 8) + at_ (8 * ty + i / 8) * 2 ^ 32) rec_) 127

/-- What became of a primitive: set up, culled, culled as not finite, or a ring fault. -/
inductive Setup where
  | made (s : State) (p : Prim)
  | culled (s : State)
  | nonfinite (s : State)
  | fault (s : State)

/-- Sets up a primitive (R371, R474): one that spans no area, or whose facing STATE culls, goes no further; a tile with a covered
pixel centre has it, and any other may. The place of a vertex, the depth plane and the 1/w plane depend on a mapping from clip
space to pixels that the spec does not give, and are left open (DESIGN CHOICE, log 11). -/
def setUpPrim (s : State) (f : Frame) (draw st order : Nat) (w : Nat) (slots : List Nat) : Setup :=
  match readEach (fun x v => clipOf x f v) s slots with
  | (s1, none) => .fault s1
  | (s1, some clips) =>
    let (n, s2) := s1.draw
    let x := Config.free n
    if !(clips.all fun c => (f32s c 4).all Fl.isFinite) then .nonfinite s2 else
    let vert (k : Nat) := vertOf f (nth clips k 0)
    let area := area2 (vert 0) (vert 1) (vert 2)
    let coefs := (edgeCodes (x / 2 ^ 192) (vert 0) (vert 1) (vert 2)).flatMap (fun c => bytesOfNat c 4) ++ bytesOfNat x 24
    let front := area.isNeg != bit st 3
    if area.isZero then .culled s2 else
    if !((f32s (natOfBytes coefs) 15).all Fl.isFinite) then .nonfinite s2 else
    if (bits st 2 0 == 1 && !front) || (bits st 2 0 == 2 && front) then .culled s2 else
    let a := f.pring + f.stride * f.records
    let rec_ := coefs ++ bytesOfNat (b2n front) 4 ++ slots.flatMap fun v => bytesOfNat v 4
    match devWriteLong s2 f.ctx a rec_ with
    | (s3, false) => .fault s3
    | (s3, true) =>
      let per := f.ht * f.wt
      .made s3 { order := order, draw := draw, slots := slots, addr := a,
                 tiles := ((List.range per).filter fun t => coversTile (natOfBytes coefs % 2 ^ 384) (t % f.wt) (t / f.wt) || bit x (512 + t)).map (bits w 23 20 * per + ·) }

/-- Assembles the primitives of a batch. -/
def assemble (s : State) (fr draw st w : Nat) : List (Nat × List Nat) → State × Option (List Prim)
  | [] => (s, some [])
  | p :: ps =>
    match s.frames.get? fr with
    | none => (s, none)
    | some f =>
      match setUpPrim s f draw st p.1 w p.2 with
      | .fault s1 => (s1, none)
      | .culled s1 => assemble s1 fr draw st w ps
      | .nonfinite s1 => assemble (s1.modFrame fr fun f => { f with nonfinite := f.nonfinite + 1 }) fr draw st w ps
      | .made s1 q =>
        match assemble (s1.modFrame fr fun f => { f with records := f.records + 1 }) fr draw st w ps with
        | (s2, some l) => (s2, some (q :: l))
        | (s2, none) => (s2, none)

/-- Assembles a batch once every vertex of it has returned (R166). -/
def assembleBatch (s : State) (fr b : Nat) : State :=
  match (s.frames.get? fr).bind fun f => (f.batches[b]?).map fun x => (f, x) with
  | none => s
  | some (f, x) =>
    if x.done || !(x.verts.all fun v => x.back.contains v.2.2) then s else
    let d := f.draws[x.draw]?
    let st := blockState (((d.bind (·.block))).getD [])
    match assemble s fr x.draw st ((d.map (·.packet)).getD 0) x.prims with
    | (s1, some out) => modBatch s1 fr b fun x => { x with done := true, out := out }
    | (s1, none) => failFrame s1 fr true true

/-- Every primitive of the frame has been cut, and its vertices sent: the vertex work FIFOs close (R163). -/
def closeVertices (s : State) (fr : Nat) : State :=
  match s.frames.get? fr with
  | none => s
  | some f =>
    if f.ended && f.draws.all (fun d => d.failed || decide (drawTotal d.packet ≤ d.cut)) && f.batches.all (fun x => x.sent == x.verts.length)
    then f.insts.foldl (fun st i => closeFixed st i vertexFifo) s else s

/-- The work of the geometry engines on a batch (R166): it is cut, its vertex work is sent, its returns are taken, and it is
assembled. With no engine ready no batch goes on. -/
def execGeometryBatch (frame batch : Nat) (s : State) : Host.Outcome State Fault Refusal :=
  .next (match s.frames.get? frame with
    | none => s
    | some f =>
      if f.phase ≠ 0 ∨ (readyGeoms s.mgmt).isEmpty then s else
      let s1 := if batch = f.batches.length then cutBatch s frame else s
      let s2 := f.insts.foldl (fun st i => takeReturns st frame i) (sendVerts s1 frame batch)
      closeVertices (assembleBatch s2 frame batch) frame)

/-! ### Binning (R167, R475) -/

/-- The position of the instance that owns a tile (R167). -/
def tileOwner (f : Frame) (t : Nat) : Nat :=
  let (v, ty, tx) := f.tilePos t
  (tx / 4 + 7 * (ty / 4) + 3 * v) % f.insts.length

/-- A tile record with nothing in it. -/
def TileRec.empty (t : Nat) : TileRec :=
  { tile := t, prims := [], sig := 0, skipped := false, audit := false, visited := false, emitted := 0, prior := none, compared := false }

/-- Adds a primitive to a tile's bin list. -/
def binOne (l : List TileRec) (t order : Nat) : List TileRec :=
  if l.any fun x => x.tile == t then l.map fun x => if x.tile = t then { x with prims := x.prims ++ [order] } else x
  else insertBy (fun (a b : TileRec) => decide (a.tile < b.tile)) { TileRec.empty t with prims := [order] } l

/-- Appends bin entries: the bin buffer's bytes are left open (DESIGN CHOICE, log 11); none where it overflows or faults. -/
def binEntries (s : State) (fr : Nat) : List (Nat × Nat) → State × Option Bool
  | [] => (s, none)
  | (t, order) :: rest =>
    match s.frames.get? fr with
    | none => (s, none)
    | some f =>
      if f.binSize < f.binUsed + f.entry then (s, some false) else
      let (n, s1) := s.draw
      match devWriteLong s1 f.ctx (f.binBase + f.binUsed) (bytesOfNat (Config.free n) f.entry) with
      | (s2, false) => (s2, some true)
      | (s2, true) => binEntries (s2.modFrame fr fun f => { f with binUsed := f.binUsed + f.entry, tiles := binOne f.tiles t order }) fr rest

/-- The next batch of a bin writer: the first that it has not appended, once every one before it is appended (R167). -/
def nextBin (f : Frame) (pos : Nat) : Option (Nat × BatchRec) :=
  match (List.range f.batches.length).find? fun b => (f.batches[b]?).any fun x => !(x.binned.contains pos) with
  | some b => (f.batches[b]?).bind fun x => if x.done then some (b, x) else none
  | none => none

/-- The cluster of a frame's instance, by its position. -/
def instCluster (s : State) (f : Frame) (pos : Nat) : Nat := ((s.insts.get? (nth f.insts pos 0)).map (·.cl)).getD 0

/-- A bin writer of a ready cluster appends its next batch (R13, R167). -/
def execBinWriterAppend (frame inst : Nat) (s : State) : Host.Outcome State Fault Refusal :=
  .next (match (s.frames.get? frame).bind fun f => if f.phase = 0 ∧ clusterUp s (instCluster s f inst) then (nextBin f inst).map fun b => (f, b) else none with
    | none => s
    | some (f, (b, x)) =>
      let mine := x.out.flatMap fun p => (p.tiles.filter fun t => tileOwner f t == inst).map fun t => (t, p.order)
      match binEntries s frame mine with
      | (s1, none) => modBatch s1 frame b fun x => { x with binned := inst :: x.binned }
      | (s1, some ring) => failFrame s1 frame ring true)

end Sys2Proof.Machine
end

