-- ==== Sys2Proof/Machine/Render.lean ====
section
/-! DEFINITION. The raster phase of a frame (spec 07 R163, R168, R169, R174 to R178, R189, spec 15 R379, R380, spec 20 R475 to
R478): the frame condition and the tile signatures, coarse rasterisation, export and discard, output merge, and the
completion of the frame. -/

namespace Sys2Proof.Machine

/-! ### Start of the raster phase (R163, R174, R176, R177, R189) -/

/-- Every draw up to the one with END has been binned (R163). -/
def geometryDone (f : Frame) : Bool :=
  f.phase == 0 && f.ended && f.draws.all (fun d => d.failed || decide (drawTotal d.packet ≤ d.cut)) &&
    f.batches.all fun x => x.done && (List.range f.insts.length).all x.binned.contains

/-- The words of the frame signature (R174). -/
def frameWords (f : Frame) : List Nat := (List.range 27).map fun i => byteField f.block (40 + 8 * i) 8

/-- A primitive of a frame by its ORDER. -/
def primAt (f : Frame) (o : Nat) : Option Prim := f.batches.findSome? fun x => x.out.find? fun p => p.order == o

/-- Folds vertex records into a signature; none where a record cannot be read. -/
def foldVerts (s : State) (f : Frame) (p : SigPair) : List Nat → State × Option SigPair
  | [] => (s, some p)
  | v :: vs =>
    match devBytes s f.ctx (f.vertexAddr v) (16 * f.vrec) with
    | (s1, none) => (s1, none)
    | (s1, some l) => foldVerts s1 f (((List.range (2 * f.vrec)).map fun i => byteField l (8 * i) 8).foldl sigFold p) vs

/-- Folds the primitives of a bin list into a tile's signature (R174). -/
def foldPrims (s : State) (f : Frame) (p : SigPair) : List Nat → State × Option SigPair
  | [] => (s, some p)
  | o :: os =>
    match primAt f o with
    | none => foldPrims s f p os
    | some q =>
      let sg := ((f.draws[q.draw]?).map (·.sig)).getD 0
      match foldVerts s f ((sigWords sg).foldl sigFold p) q.slots with
      | (s1, none) => (s1, none)
      | (s1, some p1) => foldPrims s1 f p1 os

/-- The signature of a tile; none where a vertex record cannot be read. -/
def tileSig (s : State) (f : Frame) (prims : List Nat) : State × Option Nat :=
  match foldPrims s f ((sigWords (signature64 (frameWords f))).foldl sigFold sigStart) prims with
  | (s1, some p) => (s1, some (sigEnd p))
  | (s1, none) => (s1, none)

/-- The address of a tile's entry in a plane of the signature surface (R175) (DEDUCED, log 42). -/
def planeAddr (f : Frame) (plane : Bool) (t : Nat) : Nat := f.sigBase + 128 + 16 * (b2n plane * f.ntiles + t)

/-- A signature error of a frame: SIGERR and a log entry (R477). -/
def sigError (s : State) (fr ctx a : Nat) : State := logRender (s.modFrame fr fun f => { f with sigErr := true }) 0 ctx a 0

/-- The header of the signature surface agrees with the frame block, and the mode is not off (R176). -/
def headerAgrees (f : Frame) (mode : Nat) (h : List Byte) : Bool :=
  mode != 3 && bit (byteField h 64 1) 0 && byteField h 65 1 == f.wt && byteField h 66 1 == f.ht && byteField h 67 1 == f.nview - 1

/-- The frame condition (R176, R477): tags are read, and bumped, for every render target (DEDUCED, log 42). -/
def frameCondition (s : State) (fr : Nat) (f : Frame) : State × Bool × Bool :=
  match devBytes s f.ctx f.sigBase 128 with
  | (s1, none) => (s1, false, false)
  | (s1, some h) =>
    let plane := bit (byteField h 64 1) 1
    match readEach (fun st i => readTag st f.ctx (f.rtDesc i)) s1 (List.range f.nrt) with
    | (s2, none) => (sigError s2 fr f.ctx f.sigBase, false, plane)
    | (s2, some tags) =>
      (s2, headerAgrees f (memoModeOf s f.ctx) h && (List.range f.nrt).all fun i => nth tags i 0 == byteField h (8 * i) 8, plane)

/-- A draw with NOSKIP has a primitive in the list (R177). -/
def noSkip (f : Frame) (prims : List Nat) : Bool :=
  prims.any fun o => match primAt f o with
    | some q => (f.draws[q.draw]?).any fun d => bit d.packet 18
    | none => false

/-- The mark of a tile whose signature could not be formed. -/
def badSig : Nat := 2 ^ 128

/-- Whether a tile would be skipped (R177), its entry in plane PLANE read where the frame condition holds (R477). -/
def skipTest (s : State) (fr : Nat) (f : Frame) (t sg : Nat) (prims : List Nat) : State × Bool :=
  if !f.cond then (s, false) else
  match devRead s f.ctx (planeAddr f f.plane t) 16 with
  | (s1, none) => (sigError s1 fr f.ctx (planeAddr f f.plane t), false)
  | (s1, some l) => (s1, natOfBytes l == sg && !noSkip f prims)

/-- Signs the tiles of a frame in the order of R168, and decides which are skipped and which are audited: k counts the
candidates so far (R189). -/
def signTiles (s : State) (fr : Nat) (f : Frame) (audits : Bool) (k : Nat) : List Nat → State × List TileRec
  | [] => (s, [])
  | t :: ts =>
    let r := (f.tiles.find? fun x => x.tile == t).getD (TileRec.empty t)
    match tileSig s f r.prims with
    | (s1, none) =>
      let (s2, l) := signTiles (sigError s1 fr f.ctx t) fr f audits k ts
      (s2, { r with sig := badSig } :: l)
    | (s1, some sg) =>
      match skipTest s1 fr f t sg r.prims with
      | (s2, false) => let (s3, l) := signTiles s2 fr f audits k ts; (s3, { r with sig := sg } :: l)
      | (s2, true) =>
        let audit := audits && (k + 1) % auditK s f.ctx == 0
        let (s3, l) := signTiles s2 fr f audits (k + 1) ts
        (s3, { r with sig := sg, skipped := !audit, audit := audit } :: l)

/-- Start of the raster phase (R163, R176): the frame condition is evaluated once, before any tile is emitted. -/
def execRasterPhaseStart (frame : Nat) (s : State) : Host.Outcome State Fault Refusal :=
  .next (match s.frames.get? frame with
    | none => s
    | some f =>
      if !geometryDone f then s else
      let (s1, cond, plane) := frameCondition s frame f
      let s2 := s1.modFrame frame fun x => { x with phase := 1, cond := cond, plane := plane }
      match s2.frames.get? frame with
      | none => s2
      | some f2 =>
        let (s3, l) := signTiles s2 frame f2 (memoModeOf s f.ctx == 2) 0 (List.range f2.ntiles)
        s3.modFrame frame fun x => { x with tiles := l })

/-! ### Coarse rasterisation (R168, R177, R192) -/

/-- Changes a tile of a frame. -/
def modTileRec (s : State) (fr t : Nat) (f : TileRec → TileRec) : State :=
  s.modFrame fr fun x => { x with tiles := x.tiles.map fun r => if r.tile = t then f r else r }

/-- Writes a tile's signature to plane ~PLANE; a signature that could not be formed leaves its entry poisoned (R177, R477). -/
def writePlane (s : State) (f : Frame) (r : TileRec) : State × Bool :=
  let a := planeAddr f (!f.plane) r.tile
  if r.sig = badSig then
    match resolveEng s f.ctx a .store true with
    | (s1, .ok k) => (s1.setMem (poisonUnits s1.mem k 16 256), true)
    | (s1, _) => (s1, false)
  else devWrite s f.ctx a (bytesOfNat r.sig 16)

/-- A fragment work entry (Table 7-5). -/
def fragmentEntry (f : Frame) (r : TileRec) (p : Prim) (isLast : Bool) : List Byte :=
  let (v, ty, tx) := f.tilePos r.tile
  let dsb := bits (((f.draws[p.draw]?).map (·.packet)).getD 0) 319 256
  bytesOfNat tx 2 ++ bytesOfNat ty 2 ++ bytesOfNat (v % 16) 4 ++ bytesOfNat dsb 8 ++ bytesOfNat p.addr 8 ++ bytesOfNat p.order 4 ++
    bytesOfNat (b2n isLast + 2 * b2n r.audit) 4 ++ List.replicate 32 0

/-- Emits the next items of a tile while the fragment work FIFO has room. -/
def emitItems (s : State) (fr inst k : Nat) (f : Frame) (r : TileRec) : List Nat → State
  | [] => s
  | o :: os =>
    match primAt f o, (s.insts.get? inst).bind fun i => i.fifos[k]? with
    | some p, some q =>
      if q.def_.depth ≤ q.entries.length then s else
      let (id, s1) := s.fresh
      let w : WorkItem := { id := id, tile := r.tile, order := o, draw := p.draw, last := os.isEmpty, gang := none, part := [], through := [],
                            retired := false }
      let s2 := modTileRec (s1.modFrame fr fun x => { x with items := x.items ++ [w] }) fr r.tile fun x => { x with emitted := x.emitted + 1 }
      emitItems (enginePush s2 inst k (fragmentEntry f r p os.isEmpty)) fr inst k f r os
    | _, _ => s

/-- A skipped tile counts as work saved (R192). -/
def countSkip (s : State) (cl : Nat) : State :=
  s.modCluster cl fun c => { c with skipCnt := c.skipCnt + 1, savedFc := c.savedFc + wordOf (bits s.mgmt.govLive.toNat 47 32) }

/-- A tile needs no more of its coarse rasteriser. -/
def TileRec.emittedAll (r : TileRec) : Bool := r.visited && (r.skipped || r.emitted == r.prims.length)

/-- The first visit of a tile: its plane entry, and the count of a skip. -/
def visitTile (s : State) (fr cl : Nat) (f : Frame) (r : TileRec) : State :=
  match writePlane s f r with
  | (s1, false) => failFrame s1 fr true false
  | (s1, true) =>
    let s2 := modTileRec s1 fr r.tile fun x => { x with visited := true }
    if r.skipped then countSkip s2 cl else s2

/-- The coarse rasteriser of an instance, by its position, goes on with its next tile (R168), in a ready cluster (R13). -/
def execCoarseRasterTile (frame inst : Nat) (s : State) : Host.Outcome State Fault Refusal :=
  .next (match s.frames.get? frame with
    | none => s
    | some f =>
      let cl := instCluster s f inst
      if f.phase ≠ 1 ∨ !clusterUp s cl then s else
      let id := nth f.insts inst 0
      let mine := f.tiles.filter fun r => tileOwner f r.tile == inst && !r.emittedAll
      match mine, (s.insts.get? id).bind fragmentFifo with
      | [], _ => closeFixed s id fragmentFifo
      | r :: _, some k =>
        let s1 := if r.visited then s else visitTile s frame cl f r
        match s1.frames.get? frame with
        | some f1 =>
          if f1.phase ≠ 1 ∨ r.skipped then s1 else emitItems s1 frame id k f1 r (r.prims.drop r.emitted)
        | none => s1
      | _ :: _, none => s)

/-! ### export and discard (R379, R380) -/

/-- The frame and stage of a thread, when its stage belongs to a rendering pipeline. -/
def renderStage (s : State) (t : Nat) : Option (Nat × Nat) :=
  match stageOf s t with
  | some (inst, st, _) => ((s.insts.get? inst).bind (·.frame)).map fun fr => (fr, st)
  | none => none

/-- A thread runs in a fragment stage (Table 7-1). -/
def inFragment (s : State) (t : Nat) : Bool := (renderStage s t).any fun x => x.2 == 1

/-- The current item of a thread's gang, with its frame: one that has not retired. -/
def currentItem (s : State) (t : Nat) : Option (Nat × Frame × WorkItem) :=
  if !inFragment s t then none else
  match (s.gangOf t).item with
  | none => none
  | some it =>
    match s.frames.get? it.frame, itemAt s it.frame it.item with
    | some f, some w => if w.retired then none else some (it.frame, f, w)
    | _, _ => none

/-- STATE of the draw of an item. -/
def itemState (f : Frame) (w : WorkItem) : Nat := blockState (((f.draws[w.draw]?).bind (·.block)).getD [])

/-- An export to the depth target (R379). -/
def isDepth (st n : Nat) : Bool := bit st 27 && bits st 26 24 == n

/-- An export that Table 15-9 rejects for its pixel, its target or its spare bits. -/
def exportBad (f : Frame) (w : WorkItem) (n a : Nat) : Bool :=
  let (_, ty, tx) := f.tilePos w.tile
  decide (f.nrt ≤ n) || bits a 63 33 != 0 || bits a 15 0 / 8 != tx || bits a 31 16 / 8 != ty

/-- export of one thread (R379): queued for output merge (DEDUCED, log 42). -/
def exportThread (o : OpExport) (s : State) (t : Nat) : Act :=
  match currentItem s t with
  | none => .bad (cOperand, 0)
  | some (fr, f, w) =>
    let a := (s.gr t o.a.val).toNat
    if exportBad f w o.n.val a then .bad (cOperand, 0) else
    match devRead s f.ctx (f.rtDesc o.n.val) 32 with
    | (s1, some l) =>
      let fmt := bits (natOfBytes l) 103 96
      if texelBytes fmt == 0 || (isDepth (itemState f w) o.n.val && fmt != 3) then .bad (cOperand, 0) else .done (put s1 fr w a)
    | (s1, none) => .done (put s1 fr w a)
where
  /-- Queues the export. -/
  put (s : State) (fr : Nat) (w : WorkItem) (a : Nat) : State :=
    let (id, s1) := s.fresh
    let e : Export := { id := id, item := w.id, thread := t, rt := o.n.val, x := bits a 15 0, y := bits a 31 16, lo := s.gr t (o.a.val + 1),
                        hi := s.gr t (o.a.val + 2) }
    (joinItem s1 fr w.id t).modFrame fr fun f => { f with exports := f.exports ++ [e] }

/-- export of some threads: an item retires once its final export has been made by every thread that makes it in this instruction
(R169, R379). -/
def exportEff (o : OpExport) (s : State) (ths : List Nat) : Out :=
  let r := runThreads (exportThread o) s ths
  let made := ths.filter fun t => bit (s.gr t o.a.val).toNat 32 && !(r.fx.any fun x => x.thread == t)
  { r with s := made.foldl (fun st t => match currentItem s t with
      | some x => retireItem st x.1 x.2.2.id
      | none => st) r.s }

/-- `export` (R379). -/
def execExportOp (o : OpExport) (s : State) : Host.Outcome State Fault Refusal := .next (issue (.exportOp o) (exportEff o) s)

/-- discard of some threads (R380): requests drop at once, the region closes, and each ends as by exit. -/
def discardEff (s : State) (ths : List Nat) : Out :=
  let good := ths.filter (inFragment s)
  let bad := ths.filter fun t => !inFragment s t
  let s1 := good.foldl (fun st t => exitThread (leaveItem (dropRequests st t) t) t) s
  ⟨settleExits s1 (gangsOf s good), bad.map fun t => ⟨t, cOperand, 0⟩, []⟩

/-- `discard` (R380). -/
def execDiscard (s : State) : Host.Outcome State Fault Refusal := .next (issueTo .discard discardEff (fun _ _ => .next) s)

/-! ### Output merge (R169, R172, R189, R379) -/

/-- An export may be applied: every item of its tile with a lower ORDER has retired with its exports applied, and no
earlier export of its own item waits. -/
def mayMerge (f : Frame) (e : Export) : Bool :=
  match f.items.find? fun w => w.id == e.item with
  | none => true
  | some w =>
    (f.items.all fun x => x.tile != w.tile || !(decide (x.order < w.order)) || (x.retired && !(f.exports.any fun y => y.item == x.id))) &&
    !(f.exports.any fun y => y.item == e.item && decide (y.id < e.id))

/-- The comparison of a depth export (Table 15-5). -/
def depthPass (fn z stored : Nat) : Bool :=
  let a := f32 z
  let b := f32 stored
  match fn with
  | 0 => false | 1 => a.lt b | 2 => a.eqv b | 3 => a.le b | 4 => b.lt a | 5 => !(a.isNan || b.isNan) && !a.eqv b | 6 => b.le a | _ => true

/-- A blend factor (Table 15-5). -/
def blendFactor (k : Nat) (sa da : Fl) : Fl :=
  let one := Fl.ofNat 1
  match k with
  | 0 => .ofNat 0 | 1 => one | 2 => sa | 3 => one.sub .rn sa | 4 => da | _ => one.sub .rn da

/-- A component of a colour export (R379): FP32 codes of the export and of the stored texel, with their alphas. -/
def blendComp (st x y sa da : Nat) : Nat :=
  if !bit st 7 then x else
  let a := (f32 x).mul (blendFactor (bits st 10 8) (f32 sa) (f32 da))
  let b := (f32 y).mul (blendFactor (bits st 13 11) (f32 sa) (f32 da))
  code32 (match bits st 15 14 with
    | 0 => a.add .rn b
    | 1 => a.sub .rn b
    | _ => b.sub .rn a)

/-- Reads a texel for output merge. -/
def mergeRead (s : State) (ctx a fmt : Nat) : State × Option Nat :=
  match devRead s ctx (a % 2 ^ 64) (texelBytes fmt) with
  | (s1, some l) => (s1, some (natOfBytes l))
  | (s1, none) => (s1, none)

/-- Sets DIRTY of a tagged render-target descriptor (R172). -/
def mergeDirty (s : State) (ctx a r : Nat) : State :=
  if !bit r 191 then s else
  match devRead s ctx (a + 16) 8 with
  | (s1, some l) => let w := natOfBytes l; if bit w 62 then s1 else (devWrite s1 ctx (a + 16) (bytesOfNat (w + 2 ^ 62) 8)).1
  | (s1, none) => s1

/-- Writes the components of a texel that a mask enables, and DIRTY of the descriptor. -/
def mergeWrite (s : State) (f : Frame) (desc r fmt a mask : Nat) (comps : List Nat) : State :=
  let (n, z) := texelParts fmt
  let ks := (List.range n).filter (bit mask)
  if ks.isEmpty then s else
  mergeDirty (ks.foldl (fun st k => (devWrite st f.ctx ((a + z * k) % 2 ^ 64) (bytesOfNat (encodeComp fmt (nth comps k 0)) z)).1) s) f.ctx desc r

/-- Applies an export to its render target (R379). A texel that cannot be read or written is left as it was. -/
def mergeExport (s : State) (fr : Nat) (f : Frame) (w : WorkItem) (e : Export) : State :=
  match devRead s f.ctx (f.rtDesc e.rt) 32 with
  | (s1, none) => s1
  | (s1, some l) =>
    let r := natOfBytes l
    let fmt := bits r 103 96
    let st := itemState f w
    let a := texelAddr r 0 e.x e.y
    match mergeRead s1 f.ctx a fmt with
    | (s2, none) => s2
    | (s2, some old) =>
      if isDepth st e.rt then
        if depthPass (bits st 23 21) (e.lo.toNat % 2 ^ 32) old then
          if bit st 20 then mergeWrite s2 f (f.rtDesc e.rt) r fmt a 1 [e.lo.toNat % 2 ^ 32] else s2
        else s2.modFrame fr fun f => { f with dropped := (e.item, e.thread, e.x, e.y) :: f.dropped }
      else if f.dropped.contains (e.item, e.thread, e.x, e.y) then s2
      else
        let src := [e.lo.toNat % 2 ^ 32, e.lo.toNat / 2 ^ 32, e.hi.toNat % 2 ^ 32, e.hi.toNat / 2 ^ 32]
        let comps := (List.range 4).map fun k => blendComp st (nth src k 0) (texelComp fmt old k) (nth src 3 0) (texelComp fmt old 3)
        mergeWrite s2 f (f.rtDesc e.rt) r fmt a (bits st 19 16) comps

/-- The bytes of a tile's pixels in one render target; zeros where they cannot be read. -/
def targetBytes (s : State) (f : Frame) (tile rt : Nat) : List Byte :=
  match devRead s f.ctx (f.rtDesc rt) 32 with
  | (_, none) => []
  | (_, some l) =>
    let r := natOfBytes l
    let (_, ty, tx) := f.tilePos tile
    (List.range 64).flatMap fun i =>
      match mergeRead s f.ctx (texelAddr r 0 (8 * tx + i % 8) (8 * ty + i / 8)) (bits r 103 96) with
      | (_, some x) => bytesOfNat x (texelBytes (bits r 103 96))
      | (_, none) => []

/-- The render-target bytes of a tile. -/
def tileTargets (s : State) (f : Frame) (tile : Nat) : List Byte := (List.range f.nrt).flatMap (targetBytes s f tile)

/-- Keeps an audited tile's bytes before its first write (R189). -/
def keepPrior (s : State) (fr : Nat) (f : Frame) (tile : Nat) : State :=
  match f.tiles.find? fun r => r.tile == tile with
  | some r => if r.audit && r.prior.isNone then modTileRec s fr tile fun r => { r with prior := some (tileTargets s f tile) } else s
  | none => s

/-- Every item of a tile has been emitted, has retired and has no export left. -/
def tileSettled (f : Frame) (r : TileRec) : Bool :=
  r.emittedAll && f.items.all fun w => w.tile != r.tile || (w.retired && !(f.exports.any fun e => e.item == w.id))

/-- Compares an audited tile that has settled with its bytes before (R189, R478, R479) (DEDUCED, log 42). -/
def auditTile (s : State) (fr : Nat) (f : Frame) (r : TileRec) : State :=
  let cl := instCluster s f (tileOwner f r.tile)
  let s1 := modTileRec s fr r.tile fun x => { x with compared := true }
  match r.prior with
  | none => s1
  | some p =>
    if p = tileTargets s f r.tile then s1 else
    (countMismatch (modAudit s1 cl addTileMis) cl f.ctx 0xFF r.sig).modFrame fr fun f => { f with auditMis := true }

/-- Compares the audited tiles that have settled. -/
def auditTiles (s : State) (fr : Nat) : State :=
  match s.frames.get? fr with
  | none => s
  | some f => (f.tiles.filter fun r => r.audit && !r.compared && tileSettled f r).foldl (fun st r => auditTile st fr f r) s

/-- Output merge applies an export when its turn has come (R169). -/
def execOutputMergeExport (frame exp : Nat) (s : State) : Host.Outcome State Fault Refusal :=
  .next (match (s.frames.get? frame).bind fun f => (f.exports.find? fun e => e.id == exp).map fun e => (f, e) with
    | none => s
    | some (f, e) =>
      if f.phase ≠ 1 ∨ !mayMerge f e then s else
      match f.items.find? fun w => w.id == e.item with
      | none => s
      | some w =>
        let s1 := mergeExport (keepPrior s frame f w.tile) frame f w e
        auditTiles (s1.modFrame frame fun x => { x with exports := x.exports.filter fun y => y.id != exp }) frame)

/-! ### Completion (R178, R476, R478) -/

/-- Every tile is visited and emitted, every item has retired and every export is applied. -/
def rasterDone (f : Frame) : Bool := f.phase == 1 && f.exports.isEmpty && f.items.all (·.retired) && f.tiles.all (·.emittedAll)

/-- The completion record: tags, FRAMESTAT, and then VALID, PLANE and the dimensions in one release store (R178, R476, R478). -/
def frameRecord (s : State) (fr : Nat) (f : Frame) : State × Bool :=
  match readEach (fun st i => readTag st f.ctx (f.rtDesc i)) s (List.range f.nrt) with
  | (s1, none) => writeRecord (sigError s1 fr f.ctx f.sigBase) [] false
  | (s1, some tags) => writeRecord s1 tags true
where
  /-- Writes the record with the tags that were read. -/
  writeRecord (s : State) (tags : List Nat) (valid : Bool) : State × Bool :=
    let f1 := (s.frames.get? fr).getD f
    match devWriteLong s f.ctx f.sigBase (tags.flatMap fun x => bytesOfNat x 8) with
    | (s1, false) => (s1, false)
    | (s1, true) =>
      match devWrite s1 f.ctx (f.sigBase + 72) (bytesOfNat (frameStat f1) 8) with
      | (s2, false) => (s2, false)
      | (s2, true) =>
        devWrite s2 f.ctx (f.sigBase + 64)
          (bytesOfNat (b2n (valid && !f1.auditMis) + 2 * b2n (!f.plane)) 1 ++ bytesOfNat f.wt 1 ++ bytesOfNat f.ht 1 ++ bytesOfNat (f.nview - 1) 1)

/-- Completion of a frame (R163, R178): the record, and then the adds of its draws; the launch completes after it. -/
def execFrameCompletion (frame : Nat) (s : State) : Host.Outcome State Fault Refusal :=
  .next (match s.frames.get? frame with
    | none => s
    | some _ =>
      let s0 := auditTiles s frame
      match s0.frames.get? frame with
      | none => s0
      | some f =>
        if !rasterDone f then s0 else
        match frameRecord s0 frame f with
        | (s1, false) => failFrame s1 frame true false
        | (s1, true) =>
          ((endDraws s1 f 1).modFrame frame fun x => { x with phase := 2, items := [], exports := [] }).push [.pipelineInstanceStart])

end Sys2Proof.Machine
end

