-- ==== Sys2Proof/Machine/Packets.lean ====
section
/-! DEFINITION. Queues and packets (spec 06 R136 to R143, R150, spec 07 R162, R164, spec 09 R214 to R218, R221, spec 10 R242, spec 19
R461): the head packet, its checks, its dependence, its consumption, the selection of the distributor, and what takes each
kind of packet. -/

namespace Sys2Proof.Machine

/-! ### The head of a queue -/

/-- What stands at the head of a queue (R138): nothing written; a slot that could not be read; or a packet. -/
inductive Head where
  | empty
  | unread (r : Nat)
  | packet (r w : Nat)
  deriving DecidableEq, Repr

/-- The address of the slot of an index in a queue's ring (R136). -/
def Queue.slotAt (q : Queue) (r : Nat) : Nat := (q.base + 64 * (r % 2 ^ q.log2n)) % 2 ^ 64

/-- Reads the head of a queue. A descriptor whose RDIDX cannot be read leaves the queue waiting (DEDUCED, log 29). -/
def readHead (s : State) (q : Queue) : State × Head :=
  match devRead s q.ctx (q.desc + 24) 8 with
  | (s1, none) => (s1, .empty)
  | (s1, some l) =>
    match devRead s1 q.ctx (q.slotAt (natOfBytes l)) 64 with
    | (s2, none) => (s2, .unread (natOfBytes l))
    | (s2, some b) => (s2, if natOfBytes b % 2 ^ 8 = 0 then .empty else .packet (natOfBytes l) (natOfBytes b))

/-- Consumes the head packet (R138). -/
def consume (s : State) (qid r : Nat) : State :=
  match s.queues.get? qid with
  | none => s
  | some q =>
    let s1 := (devWrite s q.ctx (q.slotAt r) (bytesOfNat 0 8)).1
    let s2 := (devWrite s1 q.ctx (q.desc + 24) (bytesOfNat (r + 1) 8)).1
    s2.modQueue qid fun q => { q with seenAt := none }

/-- A head with a packet-format error is consumed without effect (R461): the add of failure at its CPLADDR, and a log entry with
the detail code. -/
def failHead (s : State) (qid r code : Nat) (w : Option Nat) : State :=
  match s.queues.get? qid with
  | none => s
  | some q =>
    let s1 := match w with
      | some w => cplAdd s q.ctx (bits w 511 448) cplFail
      | none => s
    logErr (consume s1 qid r) 3 code qid q.ctx r 0

/-! ### Pipeline descriptors (R150, R162) -/

/-- A stage entry (Table 6-6). -/
def stageDef (e : Nat) : StageDef :=
  { entry := 4 * bits e 127 78, regs := bits e 77 75, gwidth := bits e 74 72, joins := bits e 71 69, maxQ := bits e 63 56, minQ := bits e 55 48,
    initQ := bits e 47 40, occ := bits e 39 32, loc := bits e 27 16, tiles := bits e 9 0 }

/-- Gang width of a stage, and its group size (R150). -/
def StageDef.width (d : StageDef) : Nat := 8 * 2 ^ d.gwidth
def StageDef.group (d : StageDef) : Nat := max 1 (d.width / 16)

/-- A stage entry breaks Table 6-6. -/
def stageBad (e : Nat) : Bool :=
  let d := stageDef e
  bits e 68 64 != 0 || bits e 31 28 != 0 || bits e 15 10 != 0 || decide (4 ≤ d.gwidth) || d.minQ == 0 || decide (64 < d.maxQ)
    || decide (d.maxQ < d.minQ) || decide (d.initQ < d.minQ) || decide (d.maxQ < d.initQ) || d.occ == 0 || decide (64 < d.occ)
    || decide (1024 / (8 * (d.regs + 1)) < d.occ) || decide (2048 < d.loc) || decide (512 < d.tiles)
    || d.minQ % d.group != 0 || d.maxQ % d.group != 0 || d.initQ % d.group != 0

/-- A FIFO entry (Table 6-7). -/
def fifoDef (e : Nat) : FifoDef :=
  { bank := bits e 63 59, prod := bits e 55 52, cons := bits e 51 48, depth := bits e 47 32, esize := bits e 31 28, offset := bits e 17 0 }

/-- A FIFO entry breaks Table 6-7, apart from its producer and consumer. -/
def fifoEntryBad (e : Nat) : Bool :=
  let d := fifoDef e
  bits e 58 56 != 0 || bits e 27 18 != 0 || d.depth == 0 || decide (6 < d.esize) || d.offset % 16 != 0 || decide (262144 < d.offset + d.depth * d.bytes)

/-- A FIFO names a fixed unit. -/
def FifoDef.fixed (d : FifoDef) : Bool := decide (8 ≤ d.prod) || decide (8 ≤ d.cons)

/-- The FIFOs of a rendering pipeline are those of Table 7-1. -/
def renderFifos (l : List FifoDef) : Bool :=
  let has (p c e : Nat) : Bool := l.any fun d => d.prod == p && d.cons == c && d.esize == e
  l.length == 3 && has 8 0 1 && has 0 8 0 && has 9 1 2

/-- Producers and consumers of a pipeline's FIFOs are right (Tables 6-7 and 7-1). -/
def endsOk (stages : Nat) (l : List FifoDef) : Bool :=
  if l.any (·.fixed) then stages == 2 && renderFifos l else l.all fun d => decide (d.prod < stages) && decide (d.cons < stages)

/-- The stages and FIFOs of a pipeline descriptor; none where it cannot be read or is invalid. -/
def readPipeline (s : State) (ctx a : Nat) : State × Option (List StageDef × List FifoDef) :=
  if a % 64 ≠ 0 then (s, none) else
  match devBytes s ctx a 264 with
  | (s1, none) => (s1, none)
  | (s1, some b) =>
    let h := byteField b 0 8
    let st := (List.range (bits h 2 0 + 1)).map fun i => byteField b (8 + 16 * i) 16
    let ff := (List.range (bits h 7 4 + 1)).map fun i => byteField b (136 + 8 * i) 8
    if bit h 3 || bits h 63 8 != 0 || st.any stageBad || ff.any fifoEntryBad || !endsOk st.length (ff.map fifoDef) then (s1, none)
    else (s1, some (st.map stageDef, ff.map fifoDef))

/-- The frame block that a rendering pipeline launch names; none where it cannot be read or is invalid (Table 7-3). -/
def readFrameBlock (s : State) (ctx a : Nat) : State × Option (List Byte) :=
  if a % 64 ≠ 0 then (s, none) else
  match devBytes s ctx a 256 with
  | (s1, some b) => (s1, if frameBlockBad b then none else some b)
  | (s1, none) => (s1, none)

/-- A pipeline launch's descriptor, and its frame block when it is a rendering launch: none where either is invalid. -/
def pipelineParts (s : State) (ctx w : Nat) : State × Option (List StageDef × List FifoDef × Option (List Byte)) :=
  match readPipeline s ctx (4 * bits w 63 14) with
  | (s1, none) => (s1, none)
  | (s1, some (st, ff)) =>
    if ff.any (·.fixed) then
      match readFrameBlock s1 ctx (bits w 319 256) with
      | (s2, some b) => (s2, some (st, ff, some b))
      | (s2, none) => (s2, none)
    else (s1, some (st, ff, none))

/-! ### Checks made at the first examination (R139, Table 19-2) -/

/-- TYPE is one that the queue's KIND and target admit (Table 6-2, R214) (DEDUCED, log 28). -/
def typeAdmitted (q : Queue) (ty : Nat) : Bool :=
  if q.kind = 0 then decide (1 ≤ ty ∧ ty ≤ 4)
  else if q.target < 288 then decide (ty = 0x10 ∨ ty = 0x11)
  else if q.target = 0xFFF then ty == 0x12 else if q.target = 0xFFE then ty == 0x13 else false

/-- A reserved field is not zero (code 2) (DEDUCED, log 28). -/
def reservedBad (w : Nat) : Bool :=
  (bits w 11 10 == 3 && (bits w 383 348 != 0 || bits w 447 385 != 0)) ||
  match bits w 7 0 with
  | 1 => bits w 137 128 != 0 || bits w 118 117 != 0 || bits w 13 12 != 0
  | 4 => bits w 137 128 != 0 || bits w 118 117 != 0 || bits w 13 12 != 0 || bits w 95 82 != 0
  | 2 => bits w 31 24 != 0 || bit w 8
  | 3 => bits w 319 12 != 0
  | 0x10 => bits w 143 128 != 0 || bits w 36 12 != 0 || bit w 8
  | 0x11 => bits w 91 64 != 0 || bits w 36 12 != 0 || bit w 8
  | 0x12 => bits w 77 12 != 0 || bit w 8 || (bits w 95 92 != 0 && bits w 191 128 != 0)
  | _ => bits w 191 189 != 0 || bits w 162 12 != 0 || bit w 8

/-- A field is out of range (code 3) (DEDUCED, log 28). -/
def rangeBad (w : Nat) : Bool :=
  match bits w 7 0 with
  | 1 => decide (4 < bits w 124 122) || bits w 116 96 == 0 || decide (65536 < bits w 116 96) || decide (2048 < bits w 159 148)
      || decide (512 < bits w 147 138) || bits w 255 244 != 0
  | 4 => bits w 255 244 != 0
  | 2 => decide (2 ≤ bits w 15 12) || bits w 319 256 % 64 != 0
  | 0x10 => bits w 191 160 == 0
  | 0x11 => bits w 127 96 == 0 || decide (6 < bits w 95 92)
  | 0x12 => decide (2 < bits w 95 92) || decide (0xC < bits w 91 88) || decide (0xC < bits w 87 84)
  | 0x13 => bits w 177 171 == 0 || decide (64 < bits w 183 178 + bits w 177 171)
  | _ => false

/-- An engine's space or address is invalid (code 7): a space code, or a RECODE whose DST is not 256-aligned in a compressed
page (DEDUCED, log 28). -/
def spaceBad (s : State) (ctx w : Nat) : Bool :=
  match bits w 7 0 with
  | 0x10 => decide (1 < bits w 42 40) || decide (1 < bits w 39 37)
  | 0x11 => decide (1 < bits w 42 40) || bits w 39 37 != 0
  | 0x12 => bits w 95 92 == 2 && bits w 127 96 != 0 && (bits w 255 192 % 256 != 0 ||
      match leafAt s ctx (bits w 255 192) with
      | some (_, e) => bits e 59 58 == 0
      | none => false)
  | _ => false

/-- The frame that takes the draws of a queue (R164): the earliest whose geometry phase is open (DEDUCED, log 29). -/
def openFrameOf (s : State) (qid : Nat) : Option Nat := (s.frames.find? fun e => e.2.qid == qid && e.2.phase == 0 && !e.2.ended).map (·.1)

/-- The checks that look beyond the packet: a pipeline's descriptor, a draw's frame (DEDUCED, log 28). -/
def deepError (s : State) (qid : Nat) (q : Queue) (w : Nat) : State × Option Nat :=
  match bits w 7 0 with
  | 4 =>
    match pipelineParts s q.ctx w with
    | (s1, some _) => (s1, none)
    | (s1, none) => (s1, some 5)
  | 2 =>
    match (openFrameOf s qid).bind fun f => s.frames.get? f with
    | none => (s, some 6)
    | some f => (s, if f.nview ≤ bits w 23 20 then some 3 else none)
  | _ => (s, none)

/-- The detail code of the first check that a packet fails (DEDUCED, log 28). -/
def packetError (s : State) (qid : Nat) (q : Queue) (w : Nat) : State × Option Nat :=
  if !typeAdmitted q (bits w 7 0) then (s, some 1)
  else if reservedBad w then (s, some 2)
  else if rangeBad w then (s, some 3)
  else if spaceBad s q.ctx w then (s, some 7)
  else deepError s qid q w

/-! ### Dependences (R143) -/

/-- Whether a packet's dependence holds; none where the read faults. -/
def dependence (s : State) (ctx w : Nat) : State × Option Bool :=
  let a := bits w 383 320
  let v := bits w 447 384
  match bits w 11 10 with
  | 0 => (s, some true)
  | 3 =>
    match scratchKey (s.cluster (bits a 27 23)) (bits a 27 23) (bits a 22 0) with
    | none => (s, none)
    | some k => (s, if 18 ≤ bits a 27 23 ∨ a % 16 ≠ 0 ∨ (poisonAt s.mem k 16).isSome then none else some (b2n (readBobj s k).phase == v % 2))
  | kind =>
    if a % 8 ≠ 0 then (s, none) else
    match devRead s ctx a 8 with
    | (s1, none) => (s1, none)
    | (s1, some l) => (s1, some (if kind = 1 then decide (v ≤ natOfBytes l) else natOfBytes l == v))

/-- The front cycles of the fabric, on which the distributor and the engines run (R237). -/
def State.dist (s : State) : Nat := s.clk.fabric

/-- The checks of a head that is examined for the first time; one that was examined before has passed them (R461). -/
def firstError (s : State) (qid : Nat) (q : Queue) (w : Nat) : State × Option Nat :=
  if q.seenAt.isSome then (s, none) else packetError s qid q w

/-- Examines the head of a queue: a new head's TYPE becomes visible, its checks are made, and its dependence is read. -/
def examine (s : State) (qid : Nat) : State :=
  match s.queues.get? qid with
  | none => s
  | some q =>
    match readHead s q with
    | (s1, .empty) => s1.modQueue qid fun q => { q with seenAt := none }
    | (s1, .unread r) => failHead s1 qid r 8 none
    | (s1, .packet r w) =>
      match firstError s1 qid q w with
      | (s2, some code) => failHead s2 qid r code (some w)
      | (s2, none) =>
        match dependence s2 q.ctx w with
        | (s3, none) => failHead s3 qid r 4 (some w)
        | (s3, some _) => s3.modQueue qid fun q => { q with seenAt := some (q.seenAt.getD s.dist), lastEval := s.dist }

/-! ### Eligibility and selection (R142) -/

/-- A grid holds a grid entry: every grid but the management core's and those of inference batches. -/
def holdsEntry (e : Nat × Grid) : Bool := e.1 != 0 && e.2.batch.isNone

/-- A grid has a team not yet assigned (R142). -/
def Grid.pending (g : Grid) : Bool := !g.failed && (decide (g.nextIdx < g.n) || !g.returned.isEmpty)

/-- The shared limits leave room for one more launch of a queue (R142, R161). -/
def entriesFree (s : State) (q : Queue) : Bool :=
  let held := s.grids.filter holdsEntry
  if q.cls = 3 then decide (held.length < 4096) && !(held.any fun e => e.2.urgent && decide (e.2.nextIdx < e.2.firstPass))
  else decide (held.length < 4096) && decide ((held.filter fun e => !e.2.urgent).length < 4032)

/-- The head packet of a queue that is eligible: its index and words. -/
def eligible (s : State) (qid : Nat) (q : Queue) : Option (Nat × Nat) :=
  match (readHead s q).2 with
  | .packet r w =>
    let launch := bits w 7 0 == 1 || bits w 7 0 == 4
    if q.seenAt.isSome && (dependence s q.ctx w).2 == some true && (!bit w 9 || q.opened.isEmpty) && (!launch || entriesFree s q)
        && decide ((s.grids.filter fun e => e.2.qid == qid && holdsEntry e && e.2.pending).length < 16)
    then some (r, w) else none
  | _ => none

/-- An eligible head: queue, index, words. -/
structure Selected where
  (qid : Nat) (r : Nat) (w : Nat)
  deriving DecidableEq, Repr

/-- The order of R142: class, PRIO, the front cycle in which the TYPE became visible, QID. -/
def rankLt (a b : Nat × Nat × Nat × Nat) : Bool :=
  decide (b.1 < a.1) || (a.1 == b.1 && (decide (b.2.1 < a.2.1) || (a.2.1 == b.2.1 &&
    (decide (a.2.2.1 < b.2.2.1) || (a.2.2.1 == b.2.2.1 && decide (a.2.2.2 < b.2.2.2))))))

/-- The rank of a queue's head. -/
def headRank (qid : Nat) (q : Queue) : Nat × Nat × Nat × Nat := (q.cls, q.prio, q.seenAt.getD 0, qid)

/-- The head that the distributor selects among the queues of a sort. -/
def selectAmong (s : State) (p : Queue → Bool) : Option Selected :=
  let l := s.queues.filterMap fun e => if p e.2 then (eligible s e.1 e.2).map fun h => (headRank e.1 e.2, Selected.mk e.1 h.1 h.2) else none
  (leastBy (fun (a b : (Nat × Nat × Nat × Nat) × Selected) => rankLt a.1 b.1) l).map (·.2)

/-- The head that the distributor selects. -/
def selected (s : State) : Option Selected := selectAmong s fun q => q.kind == 0

/-- The selected head, when it has a type. -/
def selectedType (s : State) (ty : Nat) : Option Selected := (selected s).filter fun x => bits x.w 7 0 == ty

/-- The step that takes a selected head. -/
def takeOf (x : Selected) : List Instr :=
  match bits x.w 7 0 with
  | 1 => [.launchPacket]
  | 2 => [.drawPacket]
  | 3 => [.dependencyPacket]
  | _ => [.pipelineLaunch]

/-- Examination of the heads, and selection (R138, R139, R142, R143). -/
def execDependenceReevaluation (s : State) : Host.Outcome State Fault Refusal :=
  let s1 := s.queues.keys.foldl examine s
  .next (match selected s1 with
    | some x => s1.push (takeOf x)
    | none => s1)

/-! ### Launches (R139, R140, R442) -/

/-- The fields of a launch packet (DEDUCED, log 29). -/
def launchOf (w : Nat) : Launch :=
  { entry := 4 * bits w 63 14, n := bits w 95 64, t := bits w 116 96, joins := bits w 121 119, gwidth := bits w 124 122, regs := bits w 127 125,
    tiles := bits w 147 138, loc := bits w 159 148, privSize := bits w 175 160, privRing := bits w 191 176, privBase := bits w 255 192,
    args := wordOf (bits w 319 256), depAddr := bits w 383 320, depVal := wordOf (bits w 447 384), cpl := bits w 511 448,
    depKind := bits w 11 10, order := bit w 9, coop := bit w 8 }

/-- Registers that a launch declares for each thread, and the capacity C(d) of a core (R27). -/
def Launch.d (l : Launch) : Nat := 8 * (l.regs + 1)
def capacity (d : Nat) : Nat := 64 * min 64 (1024 / d)

/-- The placement kind of a launch's teams (Table 2-3); none where they are not placeable. -/
def Launch.kind (l : Launch) : Option Kind :=
  if l.coop then (if l.t ≤ 16 * capacity l.d then some .coop else Option.none)
  else if l.t ≤ capacity l.d then some .one
  else if l.t ≤ 2 * capacity l.d then some .pair else Option.none

/-- The width that the divergence history gives (Table 2-8). -/
def widthOf (h : Nat) : Nat := if h < 16 then 64 else if h < 48 then 32 else if h < 96 then 16 else 8

/-- The gang width of a launch (R50). -/
def launchWidth (s : State) (ctx : Nat) (l : Launch) : Nat :=
  if l.gwidth < 4 then 8 * 2 ^ l.gwidth else
  match (s.ctx ctx).div.get? (divIndex l.entry) with
  | some e => if e.entry = l.entry then widthOf e.h else 32
  | none => 32

/-- A new grid of a queue's packet. -/
def newGrid (s : State) (x : Selected) (q : Queue) (l : Launch) (n : Nat) (pipe : Bool) : Grid :=
  { Grid.none with ctx := q.ctx, qid := x.qid, slot := x.r, launch := l, width := launchWidth s q.ctx l, n := n, urgent := q.cls == 3,
                   pipeline := pipe, assignedAt := s.dist, rank := q.seenAt.getD 0 }

/-- A launch that is not placeable (R442) (DEDUCED, log 29). -/
def refuseLaunch (s : State) (x : Selected) (q : Queue) : State :=
  logErr (cplAdd (consume s x.qid x.r) q.ctx (bits x.w 511 448) cplFail) 1 0x10 0 q.ctx x.qid 0

/-- Notes that a packet has been consumed and has not completed. -/
def openPacket (s : State) (qid r : Nat) : State := s.modQueue qid fun q => { q with opened := q.opened ++ [r] }

/-- A launch packet becomes a pending grid (R138, R140, R142). -/
def takeLaunch (s : State) (x : Selected) : State :=
  match s.queues.get? x.qid with
  | none => s
  | some q =>
    let l := launchOf x.w
    if l.kind.isNone || (q.cls == 3 && l.kind != some .one) then refuseLaunch s x q else
    let (id, s1) := s.fresh
    let s2 := openPacket (consume s1 x.qid x.r) x.qid x.r
    let s3 := tryCompleteGrid (s2.setGrid id (newGrid s x q l l.n false)) id
    if q.cls = 3 then s3.push [.urgentAcceptance] else s3

/-- A launch head is selected (R142). -/
def execLaunchPacket (s : State) : Host.Outcome State Fault Refusal :=
  .next (match selectedType s 1 with
    | some x => takeLaunch s x
    | none => s)

/-! ### Pipeline launches (R150, R162) -/

/-- An instance that has not started. -/
def newInstance (grid cl : Nat) (st : List StageDef) (ff : List FifoDef) : Instance :=
  { grid := grid, cl := cl, stages := st, fifos := ff.map fun d => ⟨d, [], [], [], false⟩, groups := [], started := false,
    closed := st.map fun _ => false, startedTeams := 0, blk := st.map fun _ => 0, lastBalance := 0, frame := none, done := false }

/-- Creates the instances of a pipeline, one for each cluster of its mask: the state and their numbers (DEDUCED, log 29). -/
def makeInstances (s : State) (grid : Nat) (st : List StageDef) (ff : List FifoDef) : List Nat → State × List Nat
  | [] => (s, [])
  | cl :: cls =>
    let (id, s1) := s.fresh
    let (s2, ids) := makeInstances (s1.setInst id (newInstance grid cl st ff)) grid st ff cls
    (s2, id :: ids)

/-- A pipeline launch becomes a grid with its instances, and a rendering launch opens its frame (R150, R163). -/
def takePipeline (s : State) (x : Selected) : State :=
  match s.queues.get? x.qid with
  | none => s
  | some q =>
    if q.cls = 3 then refuseLaunch s x q else
    match pipelineParts s q.ctx x.w with
    | (s0, none) => failHead s0 x.qid x.r 5 (some x.w)
    | (s0, some (st, ff, block)) =>
      let l := { launchOf x.w with t := 0, regs := 0, gwidth := 0, joins := 0, loc := 0, tiles := 0, coop := false }
      let cls := bitList l.n 18
      let (id, s1) := s0.fresh
      let s2 := openPacket (consume s1 x.qid x.r) x.qid x.r
      let (s3, insts) := makeInstances (s2.setGrid id (newGrid s x q l cls.length true)) id st ff cls
      let s4 := match block with
        | some b => (openFrame s3 id b insts).1
        | none => s3
      s4.push [.pipelineInstanceStart]

/-- A pipeline launch head is selected. -/
def execPipelineLaunch (s : State) : Host.Outcome State Fault Refusal :=
  .next (match selectedType s 4 with
    | some x => takePipeline s x
    | none => s)

/-! ### Dependency packets and draws (R141, R164) -/

/-- A dependency packet is consumed, with its add (R141). -/
def execDependencyPacket (s : State) : Host.Outcome State Fault Refusal :=
  .next (match selectedType s 3 with
    | some x =>
      match s.queues.get? x.qid with
      | some q => cplAdd (consume s x.qid x.r) q.ctx (bits x.w 511 448) 1
      | none => s
    | none => s)

/-- A draw is accepted into the open frame of its queue (R164); END closes the frame to further draws. -/
def execDrawPacket (s : State) : Host.Outcome State Fault Refusal :=
  .next (match selectedType s 2 with
    | some x =>
      match openFrameOf s x.qid with
      | none => failHead s x.qid x.r 6 (some x.w)
      | some fr =>
        let d : Draw := { packet := x.w, qid := x.qid, slot := x.r, block := none, sig := 0, cut := 0, failed := false }
        let s1 := openPacket (consume s x.qid x.r) x.qid x.r
        s1.modFrame fr fun f => { f with draws := f.draws ++ [d], ended := f.ended || bit x.w 19 }
    | none => s)

/-! ### Engine queues (R214, R215) -/

/-- A new operation of an engine queue's packet. -/
def queueOp (s : State) (x : Selected) (q : Queue) (job : Job) : State :=
  let (id, s1) := s.fresh
  let (seq, s2) := s1.nextOrder
  let op : Op := { job := job, ctx := q.ctx, core := q.target, decs := [], issuer := none, parts := [], qid := some x.qid, slot := x.r,
                   cpl := bits x.w 511 448, reads := [], writes := [], seq := seq }
  openPacket (consume (s2.setOp id op) x.qid x.r) x.qid x.r

/-- The head of an engine queue, when it is eligible and has a type. -/
def engineHead (s : State) (qid ty : Nat) : Option (Selected × Queue) :=
  match s.queues.get? qid with
  | none => none
  | some q =>
    if q.kind != 1 then none else
    match eligible s qid q with
    | some (r, w) => if bits w 7 0 = ty then some (⟨qid, r, w⟩, q) else none
    | none => none

/-- A request engine takes a packet of one of its queues while it holds fewer than 512 operations and no COPY waits (R215). -/
def takeTransfer (s : State) (qid ty : Nat) (job : Nat → Job) : State :=
  match engineHead s qid ty with
  | some (x, q) => if engineLoad s q.target < 512 && !kicksWaiting s q.target then queueOp s x q (job x.w) else s
  | none => s

/-- A request engine takes a copy packet (R215, R219). -/
def execCopyPacket (q : Nat) (s : State) : Host.Outcome State Fault Refusal :=
  .next (takeTransfer s q 0x10 fun w => .copy w (bits w 319 256) (bits w 255 192))

/-- A request engine takes a gather packet (R215, R219). -/
def execGatherPacket (q : Nat) (s : State) : Host.Outcome State Fault Refusal :=
  .next (takeTransfer s q 0x11 fun w => .gather w (bits w 319 256) (bits w 255 192))

/-! ### Transform engines (R221) -/

/-- Transform engines that work on a packet. -/
def busyTransforms (s : State) : List Nat := s.ops.filterMap fun e => match e.2.job with
  | .transform _ eng => some eng
  | _ => none

/-- The lowest-numbered idle transform engine among those of the current start (R221, R249). -/
def idleTransform (s : State) : Option Nat :=
  (List.range 4).find? fun e => !bit s.mgmt.unitX (4 + e) && !(busyTransforms s).contains e

/-- The lowest-numbered idle engine takes the first transform packet in the order of R142, when its operation is the one given. -/
def takeTransform (s : State) (op : Nat) : State :=
  match idleTransform s, selectAmong s fun q => q.kind == 1 && q.target == 0xFFF with
  | some eng, some x =>
    match s.queues.get? x.qid with
    | some q => if bits x.w 95 92 = op then queueOp s x q (.transform x.w eng) else s
    | none => s
  | _, _ => s

/-- A transform engine takes a FILL (R221, R222). -/
def execFill (s : State) : Host.Outcome State Fault Refusal := .next (takeTransform s 0)
/-- A transform engine takes a CONVERT. -/
def execConvert (s : State) : Host.Outcome State Fault Refusal := .next (takeTransform s 1)
/-- A transform engine takes a RECODE. -/
def execRecode (s : State) : Host.Outcome State Fault Refusal := .next (takeTransform s 2)

/-! ### Slot-table edits (R242) -/

/-- The unit of a fabric node (Table 10-1): kind and number; 0 cluster, 1 slice, 2 memory-controller node, 3 geometry node,
4 host/peer, 5 Loom, 6 transform engines, 7 management core. -/
def nodeUnit (n : Nat) : Nat × Nat :=
  nth [(2, 0), (1, 0), (2, 1), (1, 1), (2, 2), (1, 2), (2, 3), (1, 3), (1, 4), (4, 0), (1, 5), (0, 0), (1, 6), (0, 1), (1, 7), (0, 2),
       (0, 3), (1, 8), (0, 4), (1, 9), (0, 5), (1, 10), (3, 0), (1, 11), (1, 12), (0, 6), (1, 13), (0, 7), (1, 14), (5, 0), (1, 15), (0, 8),
       (0, 9), (1, 16), (6, 0), (1, 17), (0, 10), (1, 18), (0, 11), (1, 19), (1, 20), (3, 1), (1, 21), (0, 12), (1, 22), (0, 13), (1, 23), (0, 14),
       (0, 15), (1, 24), (0, 16), (1, 25), (0, 17), (1, 26), (7, 0), (1, 27), (1, 28), (2, 4), (1, 29), (2, 5), (1, 30), (2, 6), (1, 31), (2, 7)] n (7, 0)

/-- A unit is excluded by the current start (R13, R249): a node of several engines or channels, when all of them are. -/
def unitExcluded (m : Mgmt) (u : Nat × Nat) : Bool :=
  match u.1 with
  | 0 => bit m.clusterX u.2
  | 1 => bit m.sliceX u.2
  | 2 => bits m.channelX (8 * u.2 + 7) (8 * u.2) == 255
  | 3 => bits m.unitX (8 + 4 * u.2 + 3) (8 + 4 * u.2) == 15
  | 5 => bits m.unitX 3 0 == 15
  | 6 => bits m.unitX 7 4 == 15
  | _ => false

/-- Nodes that an edit selects and that are not excluded (R492); a router in pass-through has no unit behind it. -/
def editNodes (m : Mgmt) (w : Nat) : List Nat :=
  (bitList (bits w 255 192) 64).filter fun n => !(unitExcluded m (nodeUnit n) || m.passThrough.contains n)

/-- Entries that an edit selects. -/
def editEntries (w : Nat) : List Nat := (List.range (bits w 177 171)).map (bits w 183 178 + ·)

/-- The queue of the slot allocator whose head is served next: ascending QID from the one served last, one packet per queue in
turn; a queue whose edit has not been applied is held back (R492) (DEDUCED, log 30). -/
def nextEditQueue (s : State) : Option Nat :=
  let l := (s.queues.filter fun e => e.2.kind == 1 && e.2.target == 0xFFE && !(s.mgmt.edits.any fun x => x.qid == e.1) && (engineHead s e.1 0x13).isSome).map (·.1)
  match l.find? fun q => decide (s.mgmt.editTurn < q) with
  | some q => some q
  | none => l.head?

/-- The slot allocator takes an edit packet (R242, R492). -/
def execSlotTableEdit (s : State) : Host.Outcome State Fault Refusal :=
  .next (match nextEditQueue s with
    | none => s
    | some qid =>
      match engineHead s qid 0x13 with
      | none => s
      | some (x, q) =>
        let s1 := openPacket (consume s x.qid x.r) x.qid x.r
        s1.modMgmt fun m => { m with edits := m.edits ++ [⟨x.w, x.qid, x.r, bits x.w 319 256, q.ctx⟩], editTurn := qid })

/-- The class code at a position of a slot-table entry (R239). -/
def slotCode (v pos : Nat) : Nat := bits v (2 * pos + 1) (2 * pos)

/-- An edit that would change a position holding the urgent code (R492). -/
def takesUrgent (m : Mgmt) (w : Nat) : Bool :=
  (editNodes m w).any fun n => (bitList (bits w 188 184) 5).any fun p => (editEntries w).any fun e =>
    let v := nth (nth m.slotTable (5 * n + p) []) e 0
    (List.range 4).any fun pos => slotCode v pos == 1 && slotCode (bits w 170 163) pos != 1

/-- An edit is refused while an urgent queue exists, when it would take an urgent position (R492) (DEDUCED, log 30). -/
def editRefused (s : State) (w : Nat) : Bool := (s.queues.any fun e => e.2.cls == 3) && takesUrgent s.mgmt w

/-- Writes an edit's VALUE into the entries of the ports and nodes it selects (DEDUCED, log 30). -/
def applyEdit (m : Mgmt) (w : Nat) : Mgmt :=
  { m with slotTable := (List.range 320).map fun i =>
      let l := nth m.slotTable i []
      if (editNodes m w).contains (i / 5) && bit w (184 + i % 5) then
        (List.range 64).map fun t => if (editEntries w).contains t then bits w 170 163 else nth l t 0
      else l }

/-- Applies one edit, or refuses it, and performs its add (R217, R242, R492). -/
def finishEdit (s : State) (e : SlotEdit) : State :=
  if editRefused s e.packet then
    let node := ((editNodes s.mgmt e.packet).head?).getD 0
    packetDone (logErr (cplAdd s e.ctx (bits e.packet 511 448) cplFail) 7 2 node e.ctx e.qid 0) e.qid e.slot
  else packetDone (cplAdd (s.modMgmt fun m => applyEdit m e.packet) e.ctx (bits e.packet 511 448) 1) e.qid e.slot

/-- The edits that are due at a 64-cycle boundary are applied in the order served (R242, R492). -/
def execSlotTableEditApply (s : State) : Host.Outcome State Fault Refusal :=
  .next (if s.clk.fabric % 64 ≠ 0 then s else
    let due := s.mgmt.edits.filter fun e => decide (e.apply ≤ s.clk.fabric)
    due.foldl finishEdit (s.modMgmt fun m => { m with edits := m.edits.filter fun e => !(decide (e.apply ≤ s.clk.fabric)) }))

end Sys2Proof.Machine
end

