-- ==== Sys2Proof/Machine/Place.lean ====
section
/-! DEFINITION. Assignment and placement of teams (spec 02 R22 to R29, spec 03 R57 to R60, spec 06 R145, R146, spec 18 R439): what is
free on a core and in a cluster, the check of Table 6-5, the building of a team, and the distributor's assignment. -/

namespace Sys2Proof.Machine

/-! ### What a core has free (Table 6-5) -/

/-- Gangs placed on a core. -/
def gangsOn (s : State) (core : Nat) : List Gang := (s.gangs.filter fun e => e.2.core == core && (s.team e.2.team).placed).map (·.2)

/-- A gang's position in a lane, when its window covers it (R23). -/
def Gang.posIn (g : Gang) (lane : Nat) : Option Nat :=
  if g.window * g.width ≤ lane ∧ lane < (g.window + 1) * g.width then some (lane - g.window * g.width) else Option.none

/-- Thread slots of a lane that gangs hold (DESIGN CHOICE, log 9). -/
def slotsIn (gs : List Gang) (lane : Nat) : List Nat := dedup (gs.filterMap fun g => (g.posIn lane).map fun p => nth g.slots p 0)

/-- Runs of register words of a lane that gangs hold. -/
def wordsIn (gs : List Gang) (lane : Nat) : List (Nat × Nat) := gs.flatMap fun g => match g.posIn lane with
  | some p => nth g.words p []
  | Option.none => []

/-- The gaps between runs, below an end, in rising order. -/
def gapsGo (cur fin : Nat) : List (Nat × Nat) → List (Nat × Nat)
  | [] => if cur < fin then [(cur, fin - cur)] else []
  | (a, n) :: rest => (if cur < a then [(cur, a - cur)] else []) ++ gapsGo (max cur (a + n)) fin rest

/-- The free runs of the 1,024 words of a lane. -/
def gapsOf (runs : List (Nat × Nat)) : List (Nat × Nat) := gapsGo 0 1024 (sortBy (fun (a b : Nat × Nat) => decide (a.1 < b.1)) runs)

/-- Words taken from gaps, in their order; from the top of each when asked for (DESIGN CHOICE, log 9). -/
def takeWords (top : Bool) : List (Nat × Nat) → Nat → List (Nat × Nat)
  | [], _ => []
  | (a, n) :: rest, d =>
    if d = 0 then [] else
    let k := min n d
    (if top then a + n - k else a, k) :: takeWords top rest (d - k)

/-- What a core has free: thread slots and words of each lane, join registers, chunks not reserved, chunks that no tile holds,
and entries of the gang table. -/
structure Occ where
  (slots : List Nat) (words : List Nat) (joins : Nat) (chunks : Nat) (free : Nat) (table : Nat)
  deriving DecidableEq, Repr

/-- The number of a team's gangs on one of its cores as the team was placed (R27). -/
def gangsAt (g n k : Nat) : Nat := ((List.range g).filter fun i => i % n == k).length

/-- Chunks reserved on a core (Table 6-3): TILES for each gang of each team there but urgent ones. -/
def reservedOn (s : State) (core : Nat) : Nat :=
  (s.teams.map fun e => if e.2.placed && !e.2.urgent && e.2.cores.contains core
    then e.2.tilesRes * gangsAt (ceilDiv e.2.t e.2.width) e.2.cores.length (e.2.cores.idxOf core) else 0).sum

/-- What a core has free, some gangs left out. -/
def occWithout (s : State) (core : Nat) (gs : List Gang) (skipped : List Nat) : Occ :=
  { slots := (List.range 64).map fun l => 64 - (slotsIn gs l).length
    words := (List.range 64).map fun l => ((gapsOf (wordsIn gs l)).map (·.2)).sum
    joins := 2048 - (dedup (gs.flatMap (·.jregs))).length
    chunks := 512 - reservedOn { s with teams := s.teams.filter fun e => !(skipped.contains e.1) } core -
      ((urgentChunks s core).filter fun c => !((s.core core).spill.contains c)).length
    free := 512 - (dedup (usedChunks s core false ++ urgentChunks s core)).length
    table := 512 - gs.length }

/-- What a core has free. -/
def occOf (s : State) (core : Nat) : Occ := occWithout s core (gangsOn s core) []

/-- A core that holds nothing. -/
def Occ.empty : Occ := ⟨List.replicate 64 64, List.replicate 64 1024, 2048, 512, 512, 512⟩

/-! ### Windows (R23) -/

/-- Lanes of a window. -/
def windowLanes (w k : Nat) : List Nat := (List.range w).map (k * w + ·)

/-- The least number of free words over a window's lanes; none where a lane lacks a slot or words. -/
def windowRoom (o : Occ) (w d k : Nat) : Option Nat :=
  let l := windowLanes w k
  if l.all fun i => decide (0 < nth o.slots i 0) && decide (d ≤ nth o.words i 0) then leastBy (fun a b => decide (a < b)) (l.map fun i => nth o.words i 0)
  else none

/-- Takes the slots and words of a window. -/
def takeWindow (o : Occ) (w d k : Nat) : Occ :=
  { o with slots := (windowLanes w k).foldl (fun l i => modNth l i (· - 1)) o.slots
           words := (windowLanes w k).foldl (fun l i => modNth l i (· - d)) o.words }

/-- The window of the next gang: the one whose fullest lane has the most free registers, the lowest of equal ones. -/
def pickWindow (o : Occ) (w d : Nat) (among : List Nat) : Option Nat :=
  let l := among.filterMap fun k => (windowRoom o w d k).map fun r => (r, k)
  (leastBy (fun (a b : Nat × Nat) => decide (b.1 < a.1)) l).map (·.2)

/-- What one gang asks for: its number, join registers and chunks. -/
abbrev Ask := Nat × Nat × Nat

/-- Windows for gangs, in order. -/
def pickWindows (w d : Nat) (among : List Nat) (o : Occ) : List Ask → Option (Occ × List (Nat × Nat))
  | [] => some (o, [])
  | a :: as =>
    match pickWindow o w d among with
    | none => none
    | some k => (pickWindows w d among (takeWindow o w d k) as).map fun r => (r.1, (a.1, k) :: r.2)

/-- The check of Table 6-5 on one core: what is left and each gang's window. -/
def fitCore (o : Occ) (w d : Nat) (among : List Nat) (resumed : Bool) (asks : List Ask) : Option (Occ × List (Nat × Nat)) :=
  let joins := (asks.map (·.2.1)).sum
  let chunks := (asks.map (·.2.2)).sum
  if o.joins < joins ∨ (if resumed then o.free else o.chunks) < chunks ∨ o.table < asks.length then none else
  (pickWindows w d among o asks).map fun r =>
    ({ r.1 with joins := o.joins - joins, chunks := o.chunks - chunks, free := o.free - if resumed then chunks else 0, table := o.table - asks.length }, r.2)

/-- All windows of a width. -/
def allWindows (w : Nat) : List Nat := List.range (64 / w)

/-! ### What a team asks for -/

/-- A team to place: its cores, gang width, registers, gangs, local bytes, and whether it comes from a save slot. -/
structure Wants where
  (cores : List Nat) (w : Nat) (d : Nat) (asks : List Ask) (loc : Nat) (resumed : Bool)
  deriving DecidableEq, Repr

/-- The asks of a team's gangs on one of its cores (R27). -/
def Wants.on (x : Wants) (core : Nat) : List Ask := x.asks.filter fun a => nth x.cores (a.1 % x.cores.length) 0 == core

/-- Chunks that a saved gang needs: those of every tile charged to it and of every tile in an offer to it (R55). -/
def savedChunks (s : State) (gid : Nat) : Nat :=
  ((s.tiles.filter fun e => tileGang s e.1 e.2 == some gid || (s.gang gid).offers.any fun o => o.tile == e.1).map fun e => e.2.chunks.length).sum

/-- What a new team of a launch wants. -/
def wantsNew (l : Launch) (w : Nat) (cores : List Nat) : Wants :=
  { cores := cores, w := w, d := l.d, asks := (List.range (ceilDiv l.t w)).map fun i => (i, l.joins + 1, l.tiles), loc := 4096 * l.loc, resumed := false }

/-- What a saved team wants (R55). -/
def wantsSaved (s : State) (team : Nat) (cores : List Nat) : Wants :=
  let t := s.team team
  { cores := cores, w := t.width, d := t.d, asks := t.gangs.map fun g => ((s.gang g).num, (s.gang g).jcount, savedChunks s g), loc := t.localSize, resumed := true }

/-- What a record's team wants (DEDUCED, log 31). -/
def recordWants (s : State) (r : Record) : Wants :=
  match r.resume with
  | some t => wantsSaved s t r.cores
  | none => wantsNew (s.grid r.grid).launch (s.grid r.grid).width r.cores

/-! ### Local memory (R57, R58) -/

/-- Bytes of a cluster's scratchpad space. -/
def scratchSize (s : State) (cl : Nat) : Nat := 2 ^ 18 * (scratchBanks (s.cluster cl)).length

/-- Local ranges that placed teams of a cluster hold: start and bytes. -/
def localUsed (s : State) (cl : Nat) : List (Nat × Nat) :=
  (s.teams.filter fun e => e.1 != 0 && e.2.placed && e.2.localSize != 0 && e.2.cores.head?.any fun c => c / 16 == cl).map
    fun e => (e.2.localBase, e.2.localSize)

/-- Ranges that urgent queues reserve in a cluster (R158). -/
def footprints (s : State) (cl : Nat) : List (Nat × Nat) :=
  (s.queues.filter fun e => e.2.cls == 3 && e.2.spSize != 0 && e.2.coreMask.any fun c => c / 16 == cl).map fun e => (e.2.spBase, e.2.spSize)

/-- Banks whose change into or out of scratchpad mode has begun: its end shifts the offsets of the banks above (R520). -/
def shiftingBanks (c : Cluster) : List Nat :=
  (List.range 32).filter fun b => let x := nth c.banks b ⟨0, none⟩; x.target.any fun t => (x.mode == 1) != (t == 1)

/-- Scratchpad banks in which no range is placed: those with a mode change pending (R58), and those above a bank whose change will
shift their offsets, since the offsets of a placed range never change (R520). -/
def changingBanks (s : State) (cl : Nat) : List (Nat × Nat) :=
  let c := s.cluster cl
  let l := scratchBanks c
  let moving := shiftingBanks c
  ((List.range l.length).filter fun i =>
    let b := nth l i 0
    wantedMode c b != 1 || (nth c.banks b ⟨0, none⟩).target.isSome || moving.any fun k => decide (k < b)).map fun i => (i * 2 ^ 18, 2 ^ 18)

/-- Two ranges meet. -/
def overlap (a b : Nat × Nat) : Bool := decide (a.1 < b.1 + b.2 ∧ b.1 < a.1 + a.2)

/-- The lowest start of n free bytes between two bounds. -/
def freeRange (used : List (Nat × Nat)) (lo hi n : Nat) : Option Nat :=
  leastBy (fun a b => decide (a < b)) ((lo :: used.map fun r => r.1 + r.2).filter fun b =>
    decide (lo ≤ b ∧ b + n ≤ hi) && used.all fun r => !overlap (b, n) r)

/-- The start of a new local range of a cluster, beside the ranges in use. -/
def localStart (s : State) (cl n : Nat) (used : List (Nat × Nat)) : Option Nat :=
  if n = 0 then some 0 else freeRange (used ++ footprints s cl ++ changingBanks s cl) 0 (scratchSize s cl) n

/-- The start of an urgent team's local range, inside its queue's reserved range (R158). -/
def urgentStart (s : State) (cl n : Nat) (q : Queue) : Option Nat :=
  if n = 0 then some 0 else freeRange (localUsed s cl ++ changingBanks s cl) q.spBase (min (q.spBase + q.spSize) (scratchSize s cl)) n

/-! ### Private rings (R59) -/

/-- R59 holds back a team: the team a ring depth before it is resident, Suspended, or assigned and not yet placed. -/
def ringHeld (s : State) (gid idx : Nat) : Bool :=
  let k := (s.grid gid).launch.privRing + 1
  decide (k ≤ idx) && ((s.teams.any fun e => e.2.grid == gid && e.2.idx == idx - k) || (gridRecords s gid).any fun r => r.idx == idx - k)

/-! ### The distributor's view (R145) -/

/-- Records that use a core, in the order of their buffers. -/
def recordsUsing (s : State) (core : Nat) : List Record := s.cores.flatMap fun e => e.2.records.filter fun r => r.cores.contains core

/-- A record is an urgent team's. -/
def isUrgentRecord (s : State) (r : Record) : Bool := (s.grid r.grid).urgent

/-- A core's free capacity less what records will take; none where one of them does not fit now, so that no further team goes there
until it does (DESIGN CHOICE, log 59). -/
def viewGo (s : State) (core : Nat) (o : Occ) : List Record → Option Occ
  | [] => some o
  | r :: rs =>
    let x := recordWants s r
    match fitCore o x.w x.d (allWindows x.w) x.resumed (x.on core) with
    | some (o1, _) => viewGo s core o1 rs
    | none => none

/-- The distributor's view of a core: its free capacity less what the records in its buffer will take. -/
def viewOf (s : State) (core : Nat) : Option Occ := viewGo s core (occOf s core) (recordsUsing s core)

/-- Local ranges of a cluster with those that records will take; none where one does not fit now. -/
def viewLocal (s : State) (cl : Nat) (used : List (Nat × Nat)) : List Record → Option (List (Nat × Nat))
  | [] => some used
  | r :: rs =>
    let n := (recordWants s r).loc
    match localStart s cl n used with
    | some b => viewLocal s cl (if n = 0 then used else (b, n) :: used) rs
    | none => none

/-- Records of a cluster whose teams take local memory outside the reserved ranges: not urgent teams' (R158). -/
def clusterRecords (s : State) (cl : Nat) : List Record :=
  s.cores.flatMap fun e => e.2.records.filter fun r => !isUrgentRecord s r && r.cores.head?.any fun c => c / 16 == cl

/-- A team passes the check in the distributor's view (Table 6-5). -/
def passesView (s : State) (x : Wants) : Bool :=
  let cl := x.cores.headD 0 / 16
  let used := dedup ((x.asks.map fun a => nth x.cores (a.1 % x.cores.length) 0))
  used.all (fun c => coreReady s c && decide ((s.core c).records.length < 4) && match viewOf s c with
    | some o => (fitCore o x.w x.d (allWindows x.w) x.resumed (x.on c)).isSome
    | none => false) &&
  match viewLocal s cl (localUsed s cl) (clusterRecords s cl) with
  | some l => (localStart s cl x.loc l).isSome
  | none => false

/-- Candidates of a placement kind, from the round-robin pointer on (R145). -/
def candidates (p : Nat) : Kind → List (List Nat)
  | .one => (List.range 288).map fun i => [(p + i) % 288]
  | .pair => (List.range 144).map fun i => let m := (p / 2 + i) % 144; [2 * m, 2 * m + 1]
  | .coop => (List.range 18).map fun i => (List.range 16).map (16 * ((p / 16 + i) % 18) + ·)

/-- The cores of a candidate that some gang uses. -/
def usedCores (cores : List Nat) (g : Nat) : List Nat := cores.take (max 1 (min g cores.length))

/-- The first candidate that passes. -/
def findCandidate (s : State) (kind : Kind) (wants : List Nat → Wants) : Option Wants :=
  (candidates s.mgmt.pointer kind).findSome? fun l =>
    let x := wants l
    let x1 := if kind = .coop ∧ !x.resumed then { x with cores := usedCores l x.asks.length } else x
    if passesView s x1 then some x1 else none

/-- Puts a record into the buffer of its first core, and moves the pointer (R145, R146). A resumed team's record goes before
those of its queue (R54). -/
def bufferRecord (s : State) (r : Record) : State :=
  let qid := (s.grid r.grid).qid
  let core := r.cores.headD 0
  let l := (s.core core).records
  let before := if r.resume.isSome then l.takeWhile fun x => (s.grid x.grid).qid != qid else l
  let s1 := setRecords s core (before ++ { r with since := s.nowAt core } :: l.drop before.length)
  s1.modMgmt fun m => { m with pointer := (r.cores.foldl max 0 + 1) % 288 }

/-! ### Assignment (R145, R57, R157) -/

/-- A head that a drain was started for still waits: none of its grid's teams has been assigned (R157). -/
def headWaits (s : State) (g : Nat) : Bool := (s.grids.get? g).any fun x => x.nextIdx == 0 && x.pending

/-- No team of a context is assigned: by a commanded drain until it ends, by any other while a waiting head is not assigned
(R157). -/
def ctxHeld (s : State) (ctx : Nat) : Bool :=
  match (s.ctx ctx).drain with
  | none => false
  | some d => d.byCommand || d.heads.any (headWaits s)

/-- The rank of a grid among pending grids (R142). -/
def gridRank (s : State) (g : Grid) : Nat × Nat × Nat × Nat :=
  match s.queues.get? g.qid with
  | some q => (q.cls, q.prio, g.rank, g.qid)
  | none => (0, 0, g.rank, g.qid)

/-- The next team index that a grid has to assign: a returned one first (R149). -/
def nextIndex (g : Grid) : Option Nat :=
  if g.failed then none else
  match leastBy (fun a b => decide (a < b)) g.returned with
  | some i => some i
  | none => if g.nextIdx < g.n then some g.nextIdx else none

/-- A grid once a team index of it is assigned at some cycle. -/
def takeIndex (i now : Nat) (g : Grid) : Grid :=
  { g with returned := g.returned.filter (fun j => j != i), nextIdx := if i = g.nextIdx then i + 1 else g.nextIdx, assignedAt := now }

/-- Grids whose teams the distributor assigns: not urgent, no pipeline, no batch. -/
def assignable (s : State) (e : Nat × Grid) : Bool := holdsEntry e && !e.2.urgent && !e.2.pipeline && !ctxHeld s e.2.ctx

/-- What may be assigned next: a saved team of a grid, or its next team. -/
inductive Due where
  | saved (gid team : Nat)
  | next (gid : Nat)
  deriving DecidableEq, Repr

/-- The saved teams and pending grids in order; a saved team stands at its queue's highest rank, ahead of the queue's grids
(R54). -/
def dueList (s : State) : List Due :=
  let gs := s.grids.filter (assignable s)
  let pend := gs.filter fun e => (nextIndex e.2).isSome
  let best (g : Grid) : Nat × Nat × Nat × Nat :=
    let r := gridRank s g
    (pend.filter fun e => e.2.qid == g.qid).foldl (fun a e => if rankLt (gridRank s e.2) a then gridRank s e.2 else a) r
  let saved := gs.flatMap fun e => e.2.resumed.map fun t => (best e.2, 0, Due.saved e.1 t)
  let next := pend.map fun e => (gridRank s e.2, 1, Due.next e.1)
  (sortBy (fun (a b : (Nat × Nat × Nat × Nat) × Nat × Due) => rankLt a.1 b.1 || (a.1 == b.1 && decide (a.2.1 < b.2.1))) (saved ++ next)).map (·.2.2)

/-- The largest scratchpad space that a team of a grid could be given: of the ready clusters, for an urgent grid those of its
queue's mask (R57, R158). -/
def largestScratch (s : State) (gid : Nat) : Nat :=
  let g := s.grid gid
  let may (c : Nat) : Bool := clusterUp s c && (!g.urgent || (s.queues.get? g.qid).any fun q => q.coreMask.any fun k => k / 16 == c)
  (((List.range 18).filter may).map (scratchSize s)).foldl max 0

/-- Assigns a saved team, or the next team of a grid; none where no candidate passes. -/
def assignDue (s : State) : Due → Option State
  | .saved gid team =>
    (findCandidate s (s.team team).kind fun l => wantsSaved s team (l.take (s.team team).cores.length)).map fun x =>
      (bufferRecord s { grid := gid, idx := (s.team team).idx, cores := x.cores, since := s.dist, assigned := s.dist, resume := some team }).modGrid gid
        fun g => { g with resumed := g.resumed.filter fun t => t != team, assignedAt := s.dist }
  | .next gid =>
    let g := s.grid gid
    match nextIndex g, g.launch.kind with
    | some i, some kind =>
      if ringHeld s gid i then none else
      (findCandidate s kind (wantsNew g.launch g.width)).map fun x =>
        (bufferRecord s { grid := gid, idx := i, cores := x.cores, since := s.dist, assigned := s.dist, resume := none }).modGrid gid (takeIndex i s.dist)
    | _, _ => none

/-- The first of a list that can be assigned; a grid that cannot is passed over (R145, R57). -/
def assignFirst (s : State) : List Due → State
  | [] => s
  | d :: ds =>
    match assignDue s d with
    | some s1 => s1
    | none => assignFirst s ds

/-- The distributor assigns one team (R145). -/
def execTeamAssignment (s : State) : Host.Outcome State Fault Refusal := .next (assignFirst s (dueList s))

/-! ### Building a team (R22 to R25, R58, R60, R140, R439) -/

/-- Runs of keys of a range of the scratchpad space, bank by bank. -/
def scratchRuns (c : Cluster) (cl base n : Nat) : List (Nat × Nat) :=
  if n = 0 then [] else
  (List.range ((base + n - 1) / 2 ^ 18 + 1 - base / 2 ^ 18)).filterMap fun i =>
    let b := base / 2 ^ 18 + i
    let lo := max base (b * 2 ^ 18)
    let hi := min (base + n) ((b + 1) * 2 ^ 18)
    (scratchKey c cl lo).map fun k => (k, hi - lo)

/-- A key lies in one of some runs. -/
def inRuns (l : List (Nat × Nat)) (k : Nat) : Bool := l.any fun r => decide (r.1 ≤ k ∧ k < r.1 + r.2)

/-- Pages of 4 KiB that runs touch. -/
def pagesOf (l : List (Nat × Nat)) : List Nat := l.flatMap fun r => (List.range ((r.1 + r.2 - 1) / 4096 + 1 - r.1 / 4096)).map (r.1 / 4096 + ·)

/-- A local range at a first placement (R60): every full/empty bit empty, zeroed after a team of another context. -/
def firstLocal (s : State) (cl base n ctx : Nat) : State :=
  let runs := scratchRuns (s.cluster cl) cl base n
  let pages := pagesOf runs
  let other := pages.any fun p => (s.mem.pageHolder.get? p).any fun h => h != ctx
  let m := s.mem
  s.setMem { m with cells := if other then m.cells.filter fun c => !inRuns runs c.1 else m.cells
                    poison := if other then m.poison.filter fun p => !inRuns runs p.1 else m.poison
                    full := m.full.filter fun k => !inRuns runs k
                    pageHolder := pages.foldl (fun t p => t.set p ctx) m.pageHolder }

/-- A team to build: what Table 6-3 gives it. -/
structure Plan where
  (grid : Nat) (idx : Nat) (kind : Kind) (role : Role) (urgent : Bool) (t : Nat) (tiles : Nat) (args : Word) (entry : Nat) (chunks : List Nat)
  deriving DecidableEq, Repr

/-- A thread at its start (R22). -/
def newThread (gang pos tid entry now : Nat) : Thread :=
  { Thread.none with gang := gang, pos := pos, tid := tid, pc := entry, run := .ready, since := now }

/-- Join registers for a gang: the lowest free ones; for an urgent team the highest, passing over those of joins with recorded
signatures (R158, R438) (DESIGN CHOICE, log 9). -/
def pickJoins (s : State) (core n : Nat) (urgent : Bool) : List Nat :=
  let gs := gangsOn s core
  if urgent then
    let mine := gs.filter fun g => (s.team g.team).urgent
    let signed := gs.flatMap fun g => ((List.range g.jregs.length).filter fun j => !(nth g.joins j .idle).sigs.isEmpty).map fun j => nth g.jregs j 0
    let bad := mine.flatMap (·.jregs) ++ signed
    ((List.range 2048).reverse.filter fun j => !(bad.contains j)).take n
  else
    let used := gs.flatMap (·.jregs)
    ((List.range 2048).filter fun j => !(used.contains j)).take n

/-- The gangs of a core that a new gang's slots and words keep clear of: for an urgent team only its own (R158). -/
def gangsBeside (s : State) (core : Nat) (urgent : Bool) : List Gang := (gangsOn s core).filter fun g => !urgent || (s.team g.team).urgent

/-- The thread slot of a position: the lowest free one, or the highest for an urgent team (DESIGN CHOICE, log 9). -/
def pickSlot (gs : List Gang) (lane : Nat) (urgent : Bool) : Nat :=
  let used := slotsIn gs lane
  let all := if urgent then (List.range 64).reverse else List.range 64
  (all.find? fun n => !(used.contains n)).getD 0

/-- The register words of a position: the lowest free ones, or the highest for an urgent team. -/
def pickWords (gs : List Gang) (lane d : Nat) (urgent : Bool) : List (Nat × Nat) :=
  let gaps := gapsOf (wordsIn gs lane)
  takeWords urgent (if urgent then gaps.reverse else gaps) d

/-- Where a gang goes on a core: window, slots, words, join registers and gang-table index. -/
def seat (s : State) (g : Gang) (core k : Nat) (urgent : Bool) : Gang :=
  let gs := gangsBeside s core urgent
  { g with core := core, window := k, slots := (windowLanes g.width k).map fun l => pickSlot gs l urgent,
           words := (windowLanes g.width k).map fun l => pickWords gs l g.d urgent, jregs := pickJoins s core g.jcount urgent,
           index := (firstFree ((gangsOn s core).map (·.index)) 0 512).getD 0 }

/-- A new gang with its threads (R22, R24, R25). -/
def addGang (s : State) (p : Plan) (team : Nat) (x : Wants) (now : Nat) (num core k joins : Nat) : State :=
  let (gid, s1) := s.fresh
  let base := s1.sched.nextId
  let pos := List.range x.w
  let g : Gang := { Gang.none with
    team := team, num := num, width := x.w, d := x.d, jcount := joins, at_ := pos.map fun i => if num * x.w + i < p.t then some (base + i) else Option.none,
    w := vset (Vector.replicate 32 0) 0 p.args, joins := List.replicate joins .idle }
  let ths := (pos.filter fun i => decide (num * x.w + i < p.t)).map fun i => (base + i, newThread gid i (num * x.w + i) p.entry now)
  let s2 := { s1 with threads := s1.threads ++ ths, sched := { s1.sched with nextId := base + x.w } }
  (s2.setGang gid (seat s g core k p.urgent)).modTeam team fun t => { t with gangs := t.gangs ++ [gid] }

/-- Each gang's window, core by core; none where the check of Table 6-5 fails on one. -/
def windowsFor (x : Wants) (occ : Nat → Occ) (among : List Nat) : List Nat → Option (List (Nat × Nat × Nat))
  | [] => some []
  | c :: cs =>
    match fitCore (occ c) x.w x.d among x.resumed (x.on c), windowsFor x occ among cs with
    | some (_, l), some r => some (l.map (fun a => (a.1, c, a.2)) ++ r)
    | _, _ => none

/-- Windows of a team's gangs, in gang-number order. -/
def seatsFor (x : Wants) (occ : Nat → Occ) (among : List Nat) : Option (List (Nat × Nat × Nat)) :=
  (windowsFor x occ among (dedup x.cores)).map fun l => sortBy (fun (a b : Nat × Nat × Nat) => decide (a.1 < b.1)) l

/-- Builds a team on its windows: the record of the team, its local range, its gangs and threads. Its start is an acquire for each
of its clusters: what the launch waited for and what its packet's poster did happen before it (R92, R143, R147). -/
def buildTeam (s : State) (p : Plan) (x : Wants) (base : Nat) (seats : List (Nat × Nat × Nat)) : State :=
  let (id, s1) := s.fresh
  let cl := x.cores.headD 0 / 16
  let now := s.nowAt (x.cores.headD 0)
  let ctx := (s.grid p.grid).ctx
  let joins := ((x.asks.head?).map (·.2.1)).getD 1
  let t : Team := { Team.none with grid := p.grid, idx := p.idx, kind := p.kind, cores := x.cores, localBase := base, localSize := x.loc, role := p.role,
                                   urgent := p.urgent, width := x.w, d := x.d, t := p.t, entry := p.entry, tilesRes := p.tiles, chunks := p.chunks }
  let s2 := firstLocal (s1.setTeam id t) cl base x.loc ctx
  let s3 := (dedup (x.cores.map (· / 16))).foldl acquire s2
  seats.foldl (fun st a => addGang st p id x now a.1 a.2.1 a.2.2 joins) s3

/-- The plan of a grid's team. -/
def planOf (s : State) (gid idx : Nat) (chunks : List Nat) : Plan :=
  let g := s.grid gid
  let l := g.launch
  { grid := gid, idx := idx, kind := l.kind.getD .one, role := match g.batch with
      | some (cl, b) => .batch cl b
      | none => .plain
    urgent := g.urgent, t := l.t, tiles := l.tiles, args := if g.batch.isSome then wordOf l.t else l.args, entry := l.entry, chunks := chunks }

/-- Places a new team that is not urgent, when the actual check passes (R146). -/
def placeNew (s : State) (gid idx : Nat) (cores : List Nat) : Option State :=
  let g := s.grid gid
  let x := wantsNew g.launch g.width cores
  let cl := cores.headD 0 / 16
  if cores.any fun c => !coreReady s c then none else
  match seatsFor x (occOf s) (allWindows x.w), localStart s cl x.loc (localUsed s cl) with
  | some seats, some base =>
    let s1 := buildTeam s (planOf s gid idx []) x base seats
    some (match g.batch with
      | some (c, b) => batchInputs s1 c b base
      | none => s1)
  | _, _ => none

/-! ### Forage requests (R148, R149) -/

/-- The fabric node of a cluster (Table 10-1). -/
def clusterNode (cl : Nat) : Nat := nth [11, 13, 15, 16, 18, 20, 25, 27, 31, 32, 36, 38, 43, 45, 47, 48, 50, 52] cl 0

/-- Mesh distance of two nodes (R236). -/
def meshDist (a b : Nat) : Nat := (max (a % 8) (b % 8) - min (a % 8) (b % 8)) + (max (a / 8) (b / 8) - min (a / 8) (b / 8))

/-- The clusters that a cluster asks, in order (R148). -/
def forageOrder (cl : Nat) : List Nat :=
  sortBy (fun a b => decide (meshDist (clusterNode cl) (clusterNode a) < meshDist (clusterNode cl) (clusterNode b))) ((List.range 18).filter fun c => c != cl)

/-- Cores of a cluster. -/
def coresOf (cl : Nat) : List Nat := (List.range 16).map (16 * cl + ·)

/-- A cluster may send a request: its buffers are empty, and some core of it has no resident thread (R148)
(DEDUCED, log 31). -/
def mayForage (s : State) (cl : Nat) : Bool :=
  let c := s.cluster cl
  clusterUp s cl && c.forage.isNone && c.forageWait.isNone && (coresOf cl).all (fun k => (s.core k).records.isEmpty)
    && (coresOf cl).any fun k => coreReady s k && (gangsOn s k).isEmpty

/-- Clusters that may forage send a request to the next cluster in their order. -/
def execForageRequest (s : State) : Host.Outcome State Fault Refusal :=
  .next ((List.range 18).foldl (fun st cl =>
    if mayForage st cl then st.modCluster cl fun c => { c with forage := some (nth (forageOrder cl) c.empties 0) } else st) s)

/-- The placement kind of a record's team (Table 2-3). -/
def recordKind (s : State) (r : Record) : Kind :=
  match r.resume with
  | some t => (s.team t).kind
  | none => (s.grid r.grid).launch.kind.getD .one

/-- The head record of a core's buffer is stalled and may be shipped: of the one-core kind, neither urgent nor an inference
batch's (R149) (DEDUCED, log 31). -/
def stalledOf (s : State) (core : Nat) : Option Record :=
  match (s.core core).records with
  | r :: _ => if decide (r.since + 2048 ≤ s.nowAt core) && recordKind s r == .one && !isUrgentRecord s r && (s.grid r.grid).batch.isNone then some r else none
  | [] => none

/-- Takes the head record off a core's buffer; the next one comes to the head. -/
def popRecord (s : State) (core : Nat) : State := setRecords s core ((s.core core).records.drop 1)

/-- A record goes back to the distributor: its team is assigned before any index not yet assigned (R149, R157). -/
def returnRecord (s : State) (r : Record) : State :=
  s.modGrid r.grid fun g => match r.resume with
    | some t => { g with resumed := g.resumed ++ [t] }
    | none => { g with returned := g.returned ++ [r.idx] }

/-- The wait after 17 empty replies ends (R148). -/
def execForageRetry (s : State) : Host.Outcome State Fault Refusal :=
  .next ((List.range 18).foldl (fun st cl =>
    match (st.cluster cl).forageWait with
    | some t => if t ≤ st.nowAt (16 * cl) then st.modCluster cl fun c => { c with forageWait := none, empties := 0 } else st
    | none => st) s)

end Sys2Proof.Machine
end

