-- ==== Sys2Proof/Machine/Mesh.lean ====
section
/-! DEFINITION. The nodes of the Mostoax mesh and the injection of packets (spec 10 R236 to R239). -/

namespace Sys2Proof.Machine

/-- The node of a unit (Table 10-1). -/
def nodeOf (u : Nat × Nat) : Nat := ((List.range 64).find? fun n => nodeUnit n == u).getD 54

/-- The node of a slice. -/
def sliceNode (slice : Nat) : Nat := nodeOf (1, slice)
/-- The node of the slice of a device address, under the current map. -/
def homeNode (s : State) (k : Nat) : Nat := sliceNode (sliceOf s.mgmt (k % 2 ^ 48))
/-- Flits that carry some bytes. -/
def flitsOf (n : Nat) : Nat := max 1 (ceilDiv n 64)

/-- A packet is injected at a node for some destinations, with a class code and a number of flits (R237 to R239): its sequence
number is that of the packets of its source, in rising order (R240). -/
def inject (s : State) (src : Nat) (dst : List Nat) (vc flits : Nat) : State :=
  if dst.isEmpty then s else
  let (id, s1) := s.fresh
  let f : Flit :=
    { node := src, src := src, seq := id, dst := dst, stamp := s.clk.fabric % 2 ^ 32, vc := vc, flits := flits, left := flits, turn := none,
      turned := false, served := s.clk.fabric, stale := false }
  s1.modMgmt fun m => { m with pkts := m.pkts.set id f }

/-- The class code of urgent traffic (R239). -/
def urgentClass : Nat := 1

/-- Bytes that a core spills go to one slice as urgent traffic (R160, R239), the one of the core's number (DESIGN CHOICE, log 18). -/
def sendSpill (s : State) (core n : Nat) : State :=
  if n = 0 then s else inject s (clusterNode (core / 16)) [sliceNode (nth s.mgmt.sliceMap (core % 32) 0)] urgentClass (flitsOf n)

/-- An urgent team's core fetches the entry clause as urgent traffic (R239). -/
def sendEntryFetch (s : State) (ctx core entry : Nat) : State :=
  match leafAt s ctx entry with
  | some (lv, e) => inject s (clusterNode (core / 16)) [homeNode s (leafKey (s.ctx ctx) lv e entry)] urgentClass 1
  | none => s

end Sys2Proof.Machine
end

