-- ==== Sys2Proof/Machine/Preempt.lean ====
section
/-! DEFINITION. Yield, save and resume (spec 02 R54, R55, spec 18 R436, R437, R447, R523), drains at team boundaries (spec 06 R157,
spec 18 R443), urgent pre-emption (spec 06 R158 to R161, spec 18 R438 to R440), the placement of records (R146) and forage replies
(R149). -/

namespace Sys2Proof.Machine

/-! ### Stopping and waking a team -/

/-- Threads of a gang that wait for a barrier wave (R156). -/
def waveWaiters (s : State) (t : Team) : List Nat :=
  (t.waves.flatMap (·.2)).flatMap fun g => (threadsOf (s.gang g)).filter fun th => (s.thread th).atBar

/-- Stops a team's gangs at their instruction boundaries: undo logs roll back, and gangs that wait for a wave go on (R54, R156, R159). -/
def stopGangs (s : State) (team : Nat) (res : Residence) : State :=
  let t := s.team team
  let s1 := (waveWaiters s t).foldl resume s
  let s2 := t.gangs.foldl rollback s1
  s2.modTeam team fun t => { t with res := res, waves := [] }

/-- What a Blocked thread tests when its team is resident again (R55). -/
def wakeThread (s : State) (t : Nat) : State :=
  match (s.thread t).run with
  | .blocked (.granule _ _ _ _ _) => s.modThread t fun x => { x with run := .ready, since := s.nowOf t }
  | .blocked (.waitaPhase _ _ _) | .blocked (.waitaGe _ _ _) | .blocked (.waitaEq _ _ _) | .blocked (.post _ _ _ _ _) => s.push [.waitaRetest t]
  | _ => s

/-- A team is resident again: an acquire for each of its clusters, and every condition is tested afresh (R55, R103, R447). -/
def wakeTeam (s : State) (team : Nat) : State :=
  let s1 := s.modTeam team fun t => { t with res := .resident }
  let s2 := (dedup ((s1.team team).cores.map (· / 16))).foldl acquire s1
  let s3 := (teamThreads s2 team).foldl wakeThread s2
  let s4 := (s3.team team).gangs.foldl (fun st g => settleTraps (settleTaccs (retestGang (settleJoins st g) g) g) g) s3
  tryCompleteTeam (notifyCarder (tryOpenBar s4 team) team) team

/-! ### The save record (Tables 18-6, 18-7, R523) -/

/-- Extends bytes with zeroes to a length. -/
def padTo (l : List Byte) (n : Nat) : List Byte := l ++ List.replicate (n - l.length) 0

/-- The next multiple of 256. -/
def pad256 (l : List Byte) : List Byte := padTo l (ceilDiv l.length 256 * 256)

/-- The code of a join state (Table 18-7). -/
def JState.code : JState → Nat
  | .idle => 0 | .opened => 1 | .complete => 2 | .abandoned => 3

/-- A join record (Table 18-7). -/
def joinRecord (j : Join) (gang : Nat) : Nat := j.expected + j.arrived * 2 ^ 64 + j.st.code * 2 ^ 128 + gang % 2 ^ 16 * 2 ^ 144

/-- A trap entry as Table 18-2 lays it out; an entry not yet delivered has SUP by its cause. -/
def Entry.toNat (e : Entry) : Nat :=
  e.cause % 2 ^ 8 + b2n (causeIsSup e.cause) * 2 ^ 8 + b2n e.more * 2 ^ 9 + e.pc % 2 ^ 52 * 2 ^ 64 + e.mask % 2 ^ 64 * 2 ^ 128 + e.info.toNat * 2 ^ 192

/-- Tiles of a team in the order of its handle and offer records (R523) (DEDUCED, log 32). -/
def teamTiles (s : State) (team : Nat) : List Nat :=
  dedup ((s.team team).gangs.flatMap fun g => gangTiles (s.gang g))

/-- The index of a tile's first chunk in the Tiles section. -/
def firstChunk (s : State) (tiles : List Nat) (id : Nat) : Nat :=
  ((tiles.takeWhile fun t => t != id).map fun t => ((s.tiles.get? t).map (·.chunks.length)).getD 0).sum

/-- A handle record (R523). -/
def handleRecord (s : State) (tiles : List Nat) (h : Option Nat) : Nat :=
  match h.bind fun id => (s.tiles.get? id).map fun t => (id, t) with
  | none => 0
  | some (id, t) =>
    t.bitmap % 2 ^ 64 + t.key % 2 ^ 32 * 2 ^ 64
      + (t.chunks.length + 2 ^ 10 + b2n t.int * 2 ^ 11 + firstChunk s tiles id % 2 ^ 19 * 2 ^ 13) * 2 ^ 96

/-- Words as bytes. -/
def wordBytes (l : List Word) : List Byte := l.flatMap fun w => bytesOfNat w.toNat 8

/-- A gang's 4 KiB (DEDUCED, log 32). -/
def gangRecord (s : State) (tiles : List Nat) (g : Gang) : List Byte :=
  let joins := (List.range 8).flatMap fun n => if n < g.joins.length then bytesOfNat (joinRecord (nth g.joins n .idle) g.num) 32 else List.replicate 32 0
  let hs := g.h.toList.flatMap fun h => bytesOfNat (handleRecord s tiles h) 16
  let offs := (List.range 4).flatMap fun i => match g.offers[i]? with
    | some o => bytesOfNat (handleRecord s tiles (some o.tile) + o.sender % 2 ^ 16 * 2 ^ 128) 32
    | Option.none => List.replicate 32 0
  let head := padTo (wordBytes g.w.toList ++ wordBytes g.frameK.toList ++ wordBytes g.frameS.toList ++ joins ++ hs ++ offs) 1024
  let queue := padTo (head ++ g.queue.flatMap fun e => bytesOfNat e.toNat 32) 3072
  let at_ (sup : Bool) : Bool := (g.delivery.any fun d => d.sup == sup) || g.nested.any fun d => d.sup == sup
  padTo (queue ++ [BitVec.ofNat 8 g.queue.length, BitVec.ofNat 8 (b2n (at_ false) + 2 * b2n (at_ true))]) 4096

/-- The recorded signatures of a team: 144 bytes each. -/
def sigRecords (s : State) (team : Nat) : List Byte :=
  (s.team team).gangs.flatMap fun gid =>
    let g := s.gang gid
    (List.range g.joins.length).flatMap fun n => (nth g.joins n .idle).sigs.flatMap fun x =>
      padTo (bytesOfNat (n + x.pos * 2 ^ 8 + g.num % 2 ^ 16 * 2 ^ 16 + x.major * 2 ^ 32 + x.fmt * 2 ^ 40 + x.ta * 2 ^ 48 + x.td * 2 ^ 56) 16
        ++ wordBytes x.b) 144

/-- The thread of a team with a logical index. -/
def threadNumbered (s : State) (team tid : Nat) : Option Nat := (teamThreads s team).find? fun t => (s.thread t).tid == tid

/-- The code of a handler level (R523). -/
def levelCode (l : Level) : Nat :=
  match l with
  | .user => 0 | .kernel => 1 | .sup => 2

/-- A thread's 512 bytes; bytes 32 on are in a form of the device's own (DESIGN CHOICE, log 8) (DEDUCED, log 32). -/
def threadRecord (s : State) (t own : Nat) : List Byte :=
  let x := s.thread t
  let p := x.p.toNat % 2 ^ 15 + 2 ^ 15
  padTo (bytesOfNat x.pc 8 ++ bytesOfNat p 2 ++ [BitVec.ofNat 8 (levelCode (s.levelOf t)), 0] ++ x.f.toList.map (BitVec.ofNat 8 ·)
    ++ bytesOfNat (s.gangOf t).num 2 ++ [BitVec.ofNat 8 x.pos]) 32 ++ bytesOfNat (Config.free own) 480

/-- The bytes of some runs of keys. -/
def runBytes (s : State) (l : List (Nat × Nat)) : List Byte := l.flatMap fun r => readCells s.mem.cells r.1 r.2

/-- The local section: the team's local memory, then its full/empty bits (Table 18-6). -/
def localSection (s : State) (team : Nat) : List Byte :=
  let t := s.team team
  let cl := t.cores.headD 0 / 16
  let runs := scratchRuns (s.cluster cl) cl t.localBase t.localSize
  let grans := runs.flatMap fun r => (List.range (r.2 / 16)).map fun i => r.1 + 16 * i
  runBytes s runs ++ (List.range (t.localSize / 128)).map fun i =>
    BitVec.ofNat 8 (maskOf ((List.range 8).filter fun j => s.mem.full.contains (nth grans (8 * i + j) 0)))

/-- The sections of a team's record after its header, in order; `own` numbers the device's own bytes (DESIGN CHOICE, log 8). -/
def recordSections (s : State) (team own : Nat) : List (List Byte) :=
  let t := s.team team
  let tiles := teamTiles s team
  let gangs := sortBy (fun (a b : Gang) => decide (a.num < b.num)) (t.gangs.map s.gang)
  [ gangs.flatMap (gangRecord s tiles),
    sigRecords s team,
    (List.range t.t).flatMap (fun i => match threadNumbered s team i with
      | some th => threadRecord s th (own + 1 + i)
      | none => List.replicate 512 0),
    (List.range t.t).flatMap (fun i => match threadNumbered s team i with
      | some th => padTo (wordBytes ((s.thread th).g.toList.take t.d)) (8 * t.d)
      | none => List.replicate (8 * t.d) 0),
    tiles.flatMap (fun id => match s.tiles.get? id with
      | some x => x.chunks.flatMap fun c => readCells s.mem.cells (tileKey x.core c 0) 512
      | none => []),
    localSection s team ]

/-- Offsets of sections, each at a 256-byte boundary, and the end of the last. -/
def sectionOffsets : Nat → List Nat → List Nat × Nat
  | o, [] => ([], o)
  | o, n :: ns =>
    let a := ceilDiv o 256 * 256
    let r := sectionOffsets (a + n) ns
    (a :: r.1, r.2)

/-- Bytes of the sections of a record. -/
def sectionSizes (s : State) (team : Nat) : List Nat :=
  let t := s.team team
  let sigs := (t.gangs.map fun g => ((s.gang g).joins.map fun j => j.sigs.length).sum).sum
  let chunks := ((teamTiles s team).map fun id => ((s.tiles.get? id).map (·.chunks.length)).getD 0).sum
  [4096 * t.gangs.length, 144 * sigs, 512 * t.t, 8 * t.d * t.t, 512 * chunks, t.localSize + t.localSize / 128]

/-- The code of a placement kind (R523). -/
def kindCode (k : Kind) : Nat :=
  match k with
  | .one => 0 | .pair => 1 | .coop => 2

/-- A team's whole record. -/
def recordBytes (s : State) (team own : Nat) : List Byte :=
  let t := s.team team
  let secs := recordSections s team own
  let sizes := sectionSizes s team
  let offs := (sectionOffsets 256 sizes).1
  let words := [t.idx, Config.free own % 2 ^ 64, kindCode t.kind, t.gangs.length, t.t, t.d, t.width, nth sizes 4 0 / 512, t.localSize, nth sizes 1 0 / 144] ++ offs
  secs.foldl (fun acc x => pad256 acc ++ x) (padTo (words.flatMap fun w => bytesOfNat w 8) 256)

/-- The address of a save slot (R436). -/
def slotOf (s : State) (ctx slot size : Nat) : Nat := (s.ctx ctx).saveArea + 4096 + slot * size

/-- SLOTSIZE, NSLOTS and SLOTBUSY of a context; none where it has no save area that can be read (DEDUCED, log 32). -/
def saveHeader (s : State) (ctx : Nat) : State × Option (Nat × Nat × Nat) :=
  if (s.ctx ctx).saveArea = 0 then (s, none) else
  match devRead s ctx (s.ctx ctx).saveArea 64 with
  | (s1, some l) => (s1, some (byteField l 8 8, byteField l 16 8, byteField l 32 8))
  | (s1, none) => (s1, none)

/-- Writes SLOTBUSY (R436). -/
def setBusy (s : State) (ctx v : Nat) : State := (devWrite s ctx ((s.ctx ctx).saveArea + 32) (bytesOfNat v 8)).1

/-! ### Yield (R54, R333, R436) -/

/-- A YIELD without effect: YIELDFAIL rises. -/
def yieldFails (s : State) (ctx : Nat) : State := if (s.ctx ctx).saveArea = 0 then s else saveAreaAdd s ctx 44 4

/-- Suspends a team by YIELD: it takes the lowest free slot, its gangs stop, and its record is to be written. -/
def yieldTeam (s : State) (team : Nat) : State :=
  match s.teams.get? team with
  | none => s
  | some t =>
    if t.res ≠ .resident then s else
    let ctx := (s.grid t.grid).ctx
    match saveHeader s ctx with
    | (s1, none) => yieldFails s1 ctx
    | (s1, some (size, n, busy)) =>
      match (List.range (min n 64)).find? fun i => !bit busy i with
      | none => yieldFails s1 ctx
      | some i =>
        if size < (sectionOffsets 256 (sectionSizes s1 team)).2 then yieldFails s1 ctx
        else (stopGangs (setBusy s1 ctx (busy + 2 ^ i)) team (.yielding i)).push [.yieldSaveComplete]

/-- A thread's yield suspends its team: not in an urgent, stage or batch team, and not in a handler (R333). -/
def yields (s : State) (t : Nat) : Bool :=
  let x := s.teamOf t
  !x.urgent && x.role == .plain && (s.thread t).entered.isEmpty && s.teamIdOf t != 0

/-- `yield` (R333). -/
def execYield (s : State) : Host.Outcome State Fault Refusal :=
  let ths := s.active.filter fun t => !encodingBad (startIssue .yield s) .yield t
  let teams := teamsOf s (ths.filter (yields s))
  .next (teams.foldl yieldTeam (issue .yield (fun st _ => Out.ok st) s))

/-- Every store of a team's threads to peer memory has been acknowledged, as the release of a suspension needs (R103, R110). -/
def teamAcked (s : State) (team : Nat) : Bool :=
  let ths := teamThreads s team
  !(s.mgmt.peerStores.any fun e => ths.contains e.2.thread)

/-- A team's tiles are settled: no operation and no permit is left on them (R437). -/
def tilesSettled (s : State) (team : Nat) : Bool :=
  (teamTiles s team).all fun id => (opsOnTile s id).isEmpty && ((s.tiles.get? id).map (·.permits.isEmpty)).getD true

/-- Writes a yielding team's record, and gives up its place (R437, R58): it waits ahead of its queue's teams (R54). -/
def saveTeam (s : State) (team slot : Nat) : State :=
  let t := s.team team
  let ctx := (s.grid t.grid).ctx
  match saveHeader s ctx with
  | (s1, h) =>
    let size := (h.map (·.1)).getD 0
    let own := s1.sched.draws
    let s2 := { s1 with sched := { s1.sched with draws := own + 1 + t.t } }
    let s3 := (devWriteLong s2 ctx (slotOf s2 ctx slot size) (recordBytes s2 team own)).1
    let holders := (teamTiles s3 team).foldl (fun m id => match s3.tiles.get? id with
      | some x => x.chunks.foldl (fun m c => Tab.set (512 * x.core + c) ctx m) m
      | none => m) s3.mem.chunkHolder
    let s4 := (s3.setMem { s3.mem with chunkHolder := holders }).modTeam team fun t => { t with res := .saved slot }
    (s4.mapThreads (teamThreads s4 team) fun _ x => { x with savedPc := x.pc }).modGrid t.grid fun g => { g with resumed := g.resumed ++ [team] }

/-- Completion of the save of every yielding team whose tiles are settled (R437) and whose release is performed (R103). -/
def execYieldSaveComplete (s : State) : Host.Outcome State Fault Refusal :=
  .next (s.teams.foldl (fun st e => match e.2.res with
    | .yielding slot => if tilesSettled st e.1 && teamAcked st e.1 then saveTeam st e.1 slot else st
    | _ => st) s)

/-! ### Resume (R54, R55, R60, R523) -/

/-- The core number of a gang that has no seat. -/
def noCore : Nat := 512

/-- Words from a record. -/
def wordsAt (l : List Byte) (off n : Nat) : List Word := (List.range n).map fun i => wordOf (byteField l (off + 8 * i) 8)

/-- A gang takes its uniform registers and trap frames from its record. -/
def gangFrom (l : List Byte) (off : Nat) (g : Gang) : Gang :=
  { g with w := Vector.ofFn fun i => wordOf (byteField l (off + 8 * i) 8), frameK := Vector.ofFn fun i => wordOf (byteField l (off + 256 + 8 * i) 8),
           frameS := Vector.ofFn fun i => wordOf (byteField l (off + 288 + 8 * i) 8) }

/-- A thread takes its program counter, predicates and registers from its record; one that software has sent elsewhere reads a
header there (DESIGN CHOICE, log 8). -/
def threadFrom (l : List Byte) (off regs : Nat) (d : Nat) (x : Thread) : Thread :=
  let pc := byteField l off 8
  let y := { x with p := BitVec.ofNat 16 (byteField l (off + 8) 2), g := Vector.ofFn fun i => if i < d then wordOf (byteField l (regs + 8 * i) 8) else 0 }
  if pc = x.savedPc then y else { y with pc := pc, after := pc, clause := Option.none }

/-- Gives a team's tiles chunks of its new cores, with the bytes of the record (R55). -/
def seatTiles (s : State) (l : List Byte) (off : Nat) : List Nat → State
  | [] => s
  | id :: ids =>
    match s.tiles.get? id with
    | none => seatTiles s l off ids
    | some t =>
      let gid := (tileGang s id t).getD 0
      let core := (s.gang gid).core
      let n := t.chunks.length
      let s0 := s.setTile id { t with core := core, chunks := [] }
      let cs := (takeChunks s0 gid n).getD []
      let s1 := s0.setTile id { t with core := core, chunks := cs }
      let s2 := (List.range cs.length).foldl (fun st i =>
        let k := tileKey core (nth cs i 0) 0
        st.setMem (clearPoisonSmall { st.mem with cells := writeCells st.mem.cells k ((l.drop (off + 512 * i)).take 512) } k 512)) s1
      seatTiles s2 l (off + 512 * n) ids

/-- Restores a local range: its bytes and its full/empty bits (R60). -/
def restoreLocal (s : State) (cl base n ctx : Nat) (l : List Byte) : State :=
  let runs := scratchRuns (s.cluster cl) cl base n
  let grans := runs.flatMap fun r => (List.range (r.2 / 16)).map fun i => r.1 + 16 * i
  let full := (List.range grans.length).filterMap fun i => if bit (byteField l (n + i / 8) 1) (i % 8) then grans[i]? else none
  let cells := (runs.foldl (fun (a : List Host.Cell × List Byte) r => (writeCells a.1 r.1 (a.2.take r.2), a.2.drop r.2)) (s.mem.cells, l.take n)).1
  let m := s.mem
  s.setMem { m with cells := cells
                    poison := m.poison.filter fun p => !inRuns runs p.1
                    full := full.foldl (fun f k => insertBy (fun a b => decide (a < b)) k f) (m.full.filter fun k => !inRuns runs k)
                    pageHolder := (pagesOf runs).foldl (fun t p => t.set p ctx) m.pageHolder }

/-- Seats a saved team's gangs on new cores. -/
def reseat (s : State) (team : Nat) (cores : List Nat) (base : Nat) (seats : List (Nat × Nat × Nat)) : State :=
  let gids := (s.team team).gangs
  let s1 := gids.foldl (fun st g => st.modGang g fun x => { x with core := noCore }) s
  let s2 := s1.modTeam team fun t => { t with res := .resident, cores := cores, localBase := base }
  gids.foldl (fun st g => match seats.find? fun a => a.1 == (st.gang g).num with
    | some a => st.setGang g (seat st (st.gang g) a.2.1 a.2.2 false)
    | none => st) s2

/-- Ready times count from the resume. -/
def readyFrom (s : State) (ths : List Nat) (now : Nat) : State :=
  ths.foldl (fun st t => st.modThread t fun x => { x with since := now }) s

/-- What the resumed team takes from its record. -/
def restoreTeam (s : State) (team : Nat) (l : List Byte) (offs : List Nat) (tiles : List Nat) : State :=
  let t := s.team team
  let ctx := (s.grid t.grid).ctx
  let gids := sortBy (fun (a b : Nat) => decide ((s.gang a).num < (s.gang b).num)) t.gangs
  let s1 := ((List.range gids.length).zip gids).foldl (fun st p => st.modGang p.2 (gangFrom l (nth offs 0 0 + 4096 * p.1))) s
  let s2 := (teamThreads s1 team).foldl (fun st th => st.modThread th fun x =>
    threadFrom l (nth offs 2 0 + 512 * x.tid) (nth offs 3 0 + 8 * t.d * x.tid) t.d x) s1
  let s3 := tiles.foldl (fun st id => st.modTile id fun x => { x with core := noCore }) s2
  let s4 := seatTiles s3 l (nth offs 4 0) tiles
  let s5 := restoreLocal s4 (t.cores.headD 0 / 16) t.localBase t.localSize ctx (l.drop (nth offs 5 0))
  readyFrom s5 (teamThreads s5 team) (s5.nowAt (t.cores.headD 0))

/-- Clears one bit of a mask of 64. -/
def clearBits64 (m b : Nat) : Nat := if bit m b then m - 2 ^ b else m

/-- Resumes a saved team on cores where it passes the check; a record that cannot be read resets the context with code 3, and
the team is dropped (R523). -/
def placeSaved (s : State) (team : Nat) (cores : List Nat) : Option State :=
  let t := s.team team
  let ctx := (s.grid t.grid).ctx
  let x := wantsSaved s team cores
  let cl := cores.headD 0 / 16
  if cores.any fun c => !coreReady s c then none else
  match t.res, seatsFor x (occOf s) (allWindows x.w), localStart s cl x.loc (localUsed s cl) with
  | .saved slot, some seats, some base =>
    let (s1, h) := saveHeader s ctx
    let so := sectionOffsets 256 (sectionSizes s1 team)
    match h with
    | none => some (forcedReset (s1.modTeam team fun t => { t with res := .resident }) ctx 3 t.idx)
    | some (size, _, busy) =>
      match devBytes s1 ctx (slotOf s1 ctx slot size) so.2 with
      | (s2, none) => some (forcedReset (setBusy (s2.modTeam team fun t => { t with res := .resident }) ctx (clearBits64 busy slot)) ctx 3 t.idx)
      | (s2, some l) =>
        let tiles := teamTiles s2 team
        let s3 := restoreTeam (reseat s2 team cores base seats) team l so.1 tiles
        some (wakeTeam (setBusy s3 ctx (clearBits64 busy slot)) team)
  | _, _, _ => none

/-! ### Drains at team boundaries (R157, R443) -/

/-- Teams of a context that are resident, or Suspended in place. -/
def residentTeams (s : State) (ctx : Nat) : List Nat := ctxTeams s ctx fun t => t.res == .resident || t.res == .inPlace

/-- A context's unplaced records return to the distributor (R157); a batch's goes back to its cluster's inference queue, which has
it entered again (R190). -/
def returnRecords (s : State) (ctx : Nat) : State :=
  let mine (r : Record) : Bool := (s.grid r.grid).ctx == ctx
  let all := s.cores.flatMap fun e => e.2.records.filter mine
  all.foldl returnRecord (keepRecords s fun r => !mine r)

/-- Starts a drain of a context, for a command or for a waiting head; one in progress serves them too. -/
def startDrain (s : State) (ctx : Nat) (byCommand : Bool) (head : Option Nat) : State :=
  (returnRecords s ctx).modCtx ctx fun c => { c with drain := some (match c.drain with
    | some d => { d with heads := d.heads ++ head.toList, byCommand := d.byCommand || byCommand }
    | none => ⟨s.dist + c.drainLimit, head.toList, byCommand⟩) }

/-- Ends a drain whose context has no resident team, though no team of the context is assigned while a head still waits; and
escalates one whose deadline has passed (R157, R441). -/
def checkDrain (s : State) (ctx : Nat) : State :=
  match (s.ctx ctx).drain with
  | none => s
  | some d =>
    let heads := d.heads.filter (headWaits s)
    match residentTeams s ctx with
    | [] => s.modCtx ctx fun c => { c with drain := if heads.isEmpty then none else some { d with heads := heads, byCommand := false } }
    | t :: _ => if d.deadline ≤ s.dist then forcedReset s ctx 1 (s.team t).idx else s

/-- The expiry of DRAINLIMIT, and the end of drains that have ended (R157) (DEDUCED, log 33). -/
def execDrainLimitExpiry (s : State) : Host.Outcome State Fault Refusal := .next (s.ctxs.keys.foldl checkDrain s)

/-- Class and priority of a team's queue. -/
def teamClass (s : State) (t : Team) : Nat × Nat :=
  match s.queues.get? (s.grid t.grid).qid with
  | some q => (q.cls, q.prio)
  | none => (0, 0)

/-- Resident teams of a class lower than a given one. -/
def lowerTeams (s : State) (cls : Nat) : List Nat :=
  (s.teams.filter fun e => e.1 != 0 && e.2.res == .resident && !e.2.urgent && decide ((teamClass s e.2).1 < cls)).map (·.1)

/-- A grid's first team would pass on a candidate with the resources of some teams free (R157). -/
def passesWithout (s : State) (gid : Nat) (low : List Nat) : Bool :=
  let g := s.grid gid
  match g.launch.kind with
  | none => false
  | some kind => (candidates s.mgmt.pointer kind).any fun l =>
    let x := wantsNew g.launch g.width (if kind = .coop then usedCores l (ceilDiv g.launch.t g.width) else l)
    let cl := x.cores.headD 0 / 16
    let used := ((s.teams.filter fun e => e.1 != 0 && e.2.placed && !(low.contains e.1) && e.2.localSize != 0 && e.2.cores.head?.any fun c => c / 16 == cl).map
      fun e => (e.2.localBase, e.2.localSize))
    let core (c : Nat) : Bool :=
      coreReady s c && decide ((s.core c).records.length < 4) &&
        ((viewGo s c (occWithout s c ((gangsOn s c).filter fun g => !(low.contains g.team)) low) (recordsUsing s c)).bind fun o =>
          fitCore o x.w x.d (allWindows x.w) false (x.on c)).isSome
    x.cores.all core && ((viewLocal s cl used (clusterRecords s cl)).bind fun l => localStart s cl x.loc l).isSome

/-- The first team of a grid is unassignable for lack of resources held by teams of lower class (R157). The footprint of an
urgent queue is left out, since urgent pre-emption reclaims it. -/
def starved (s : State) (gid cls : Nat) : Bool :=
  let g := s.grid gid
  match g.launch.kind with
  | none => false
  | some kind => !(ringHeld s gid 0) && (findCandidate s kind (wantsNew g.launch g.width)).isNone && passesWithout s gid (lowerTeams s cls)

/-- The grid of a queue whose first team waits (DEDUCED, log 33). -/
def waitingGrid (s : State) (qid : Nat) : Option Nat :=
  (s.grids.find? fun e => e.2.qid == qid && assignable s e && e.2.pending && e.2.nextIdx == 0).map (·.1)

/-- The victim of a drain: the context whose resident teams have the lowest class, then the lowest priority, then the most
recently assigned grid. -/
def drainVictim (s : State) (cls : Nat) : Option Nat :=
  let key (t : Nat) : Nat × Nat × Nat := ((teamClass s (s.team t)).1, (teamClass s (s.team t)).2, (s.grid (s.team t).grid).assignedAt)
  (leastBy (fun a b => let x := key a; let y := key b
    decide (x.1 < y.1) || (x.1 == y.1 && (decide (x.2.1 < y.2.1) || (x.2.1 == y.2.1 && decide (y.2.2 < x.2.2))))) (lowerTeams s cls)).map
    fun t => (s.grid (s.team t).grid).ctx

/-- Keeps count of how long a queue of interactive or urgent class has waited, and starts a drain after 65,536 front cycles. -/
def checkStarved (s : State) (qid : Nat) : State :=
  match s.queues.get? qid with
  | none => s
  | some q =>
    match (if 2 ≤ q.cls then waitingGrid s qid else none).filter fun g => starved s g q.cls with
    | none => s.modQueue qid fun q => { q with waitFrom := none }
    | some g =>
      let from_ := q.waitFrom.getD s.dist
      if s.dist < from_ + 65536 then s.modQueue qid fun q => { q with waitFrom := some from_ }
      else match drainVictim s q.cls with
        | some c => (startDrain s c false (some g)).modQueue qid fun q => { q with waitFrom := none }
        | none => s

/-- Pre-emption at team boundaries for a starved head (R157). -/
def execPreemptionWaitExpiry (s : State) : Host.Outcome State Fault Refusal := .next (s.queues.keys.foldl checkStarved s)

/-! ### Urgent pre-emption (R158 to R161, R438, R439) -/

/-- Where the spill region of a core lies; the spec does not give its place in memory (DESIGN CHOICE, log 18). -/
def spillKey (core off : Nat) : Nat := 2 ^ 68 + core * 2 ^ 24 + off

/-- What an urgent team takes of a core: the count of gangs in each lane, join registers and chunks. -/
structure Claim where
  (lanes : List Nat) (d : Nat) (joins : List Nat) (chunks : List Nat)
  deriving DecidableEq, Repr

/-- The claim of an urgent grid's team on a core, chosen as though the core were empty (R158); none where no core could hold it. -/
def claimOf (s : State) (gid core : Nat) : Option Claim :=
  let g := s.grid gid
  let x := wantsNew g.launch g.width [core]
  let joins := pickJoins s core ((x.asks.map (·.2.1)).sum) true
  let landing := (s.tiles.filter fun e => e.2.core == core && !e.2.permits.isEmpty).flatMap fun e => e.2.chunks
  let n := (x.asks.map (·.2.2)).sum
  let chunks := ((List.range 512).reverse.filter fun c => !(landing.contains c)).take n
  match pickWindows x.w x.d (allWindows x.w) Occ.empty x.asks with
  | none => none
  | some (_, ks) =>
    if joins.length < (x.asks.map (·.2.1)).sum ∨ chunks.length < n then none else
    some ⟨(List.range 64).map fun l => (ks.filter fun k => decide (k.2 * x.w ≤ l ∧ l < (k.2 + 1) * x.w)).length, x.d, joins, chunks.reverse⟩

/-- Register words of a lane that a claim takes: from 1,023 downward. -/
def Claim.low (c : Claim) (lane : Nat) : Nat := 1024 - nth c.lanes lane 0 * c.d

/-- A gang holds a thread slot, a register word or a join register of a claim. -/
def Claim.hits (c : Claim) (g : Gang) : Bool :=
  g.jregs.any c.joins.contains || (windowLanes g.width g.window).any fun l =>
    let p := l - g.window * g.width
    nth c.lanes l 0 != 0 && (decide (64 - nth c.lanes l 0 ≤ nth g.slots p 0) || (nth g.words p []).any fun r => decide (c.low l < r.1 + r.2))

/-- Tiles of a core that hold chunks of a claim. -/
def claimedTiles (s : State) (core : Nat) (c : Claim) : List (Nat × Tile) :=
  s.tiles.filter fun e => e.2.core == core && e.2.chunks.any c.chunks.contains && tilePlaced s e.1 e.2

/-- Non-urgent teams that hold a resource of a claim (R159). -/
def victimsOf (s : State) (core : Nat) (c : Claim) : List Nat :=
  let byGang := ((gangsOn s core).filter c.hits).map (·.team)
  let byTile := (claimedTiles s core c).filterMap fun e => (tileGang s e.1 e.2).map fun g => (s.gang g).team
  (dedup (byGang ++ byTile)).filter fun t => !(s.team t).urgent

/-- Stops the victims of an urgent team on a core; a team that is yielding is saved whole instead (R159, R161). -/
def stopVictims (s : State) (gid core : Nat) : State :=
  match claimOf s gid core with
  | none => s
  | some c =>
    let vs := victimsOf s core c
    let s1 := vs.foldl (fun st t => if (st.team t).res = .resident then stopGangs st t .inPlace else st) s
    s1.modCore core fun k => { k with victims := dedup (k.victims ++ vs.filter fun t => (s1.team t).res == .inPlace) }

/-- A core holds an urgent team or one of its records. -/
def holdsUrgent (s : State) (core : Nat) : Bool :=
  (s.teams.any fun e => e.2.urgent && e.2.cores.contains core) || (s.core core).records.any (isUrgentRecord s)

/-- Ready cores of a queue's mask that hold no urgent team, in ascending number. -/
def freeMaskCores (s : State) (qid : Nat) : List Nat :=
  match s.queues.get? qid with
  | none => []
  | some q => (sortBy (fun a b => decide (a < b)) q.coreMask).filter fun c => coreReady s c && !holdsUrgent s c

/-- Assigns the next team of an urgent grid to a core, and stops the victims there. Its record goes to the front of the core's
buffer, ahead of the records that wait there, which its team pre-empts as it does teams (R158, R160) (DESIGN CHOICE, log 59). -/
def assignUrgent (s : State) (gid core : Nat) : State :=
  match nextIndex (s.grid gid) with
  | none => s
  | some i =>
    let s1 := setRecords s core (⟨gid, i, [core], s.nowAt core, s.dist, none⟩ :: (s.core core).records)
    stopVictims (s1.modGrid gid (takeIndex i s.dist)) gid core

/-- Teams of a grid that are still to be assigned. -/
def leftOf (g : Grid) : Nat := g.n - g.nextIdx + g.returned.length

/-- Acceptance of an urgent grid (R158, R159): its first pass goes to the free cores of its mask. -/
def acceptUrgent (s : State) (gid : Nat) : State :=
  let g := s.grid gid
  let cores := (freeMaskCores s g.qid).take (leftOf g)
  cores.foldl (fun st c => assignUrgent st gid c) (s.modGrid gid fun g => { g with firstPass := cores.length })

/-- Acceptance of the urgent packets that have just been selected (R159). -/
def execUrgentAcceptance (s : State) : Host.Outcome State Fault Refusal :=
  .next ((s.grids.filter fun e => e.2.urgent && e.2.pending && e.2.nextIdx == 0).foldl (fun st e => acceptUrgent st e.1) s)

/-- Assigns later teams of urgent grids to mask cores that hold no urgent team, the lowest-numbered first (R158). -/
def assignLater (s : State) (gid : Nat) : State :=
  let g := s.grid gid
  ((freeMaskCores s g.qid).take (leftOf g)).foldl (fun st c => assignUrgent st gid c) s

/-- Assignment of later urgent teams (R158). -/
def execUrgentTeamAssignment (s : State) : Host.Outcome State Fault Refusal :=
  .next ((sortBy (fun (a b : Nat × Grid) => rankLt (gridRank s a.2) (gridRank s b.2)) (s.grids.filter fun e => e.2.urgent && e.2.pending && !ctxHeld s e.2.ctx)).foldl
    (fun st e => assignLater st e.1) s)

/-- The word of a gang that lies at a word of a lane: its register of the thread there, or zero for a vacant position. -/
def wordAt (s : State) (g : Gang) (p r : Nat) : Option Nat :=
  let rec go (base : Nat) : List (Nat × Nat) → Option Nat
    | [] => none
    | (a, n) :: rest => if a ≤ r ∧ r < a + n then some (base + (r - a)) else go (base + n) rest
  (go 0 (nth g.words p [])).map fun i => match nth g.at_ p none with
    | some t => (s.gr t i).toNat
    | none => 0

/-- The victims' word at a word of a lane. -/
def victimWord (s : State) (vs : List Gang) (lane r : Nat) : Option Nat :=
  vs.findSome? fun g => (g.posIn lane).bind fun p => wordAt s g p r

/-- Gangs of the victims on a core. -/
def victimGangs (s : State) (core : Nat) : List Gang := (gangsOn s core).filter fun g => (s.core core).victims.contains g.team

/-- Words of a lane to spill: from 1,023 down to the lowest that the claim takes and a victim held (Table 18-8). -/
def spillWords (s : State) (vs : List Gang) (c : Claim) (lane : Nat) : List Nat :=
  let span := (List.range (1024 - c.low lane)).map fun m => victimWord s vs lane (1023 - m)
  let n := ((List.range span.length).filter fun m => (nth span m none).isSome).foldl (fun a m => max a (m + 1)) 0
  (span.take n).map fun v => v.getD 0

/-- Join registers of the victims that the claim takes, in descending number: register, join and owner. -/
def spillJoins (vs : List Gang) (c : Claim) : List (Nat × Join × Nat) :=
  let all := vs.flatMap fun g => ((List.range g.jregs.length).map fun i => (nth g.jregs i 0, nth g.joins i Join.idle, g.index)).filter fun x => c.joins.contains x.1
  sortBy (fun (a b : Nat × Join × Nat) => decide (b.1 < a.1)) all

/-- Chunks of the victims' tiles that the claim takes, in descending number. -/
def spillChunks (s : State) (core : Nat) (c : Claim) : List Nat :=
  let held := (claimedTiles s core c).flatMap fun e => e.2.chunks
  sortBy (fun a b => decide (b < a)) (c.chunks.filter held.contains)

/-- The header of a spill region (Table 18-8). -/
def spillHeader (nv qid : Nat) (lanes : List (List Nat)) (chunks : List Nat) (nj : Nat) : List Byte :=
  let ks := chunks.map (511 - ·)
  padTo (bytesOfNat nv 2 ++ bytesOfNat qid 2 ++ List.replicate 4 0
    ++ bytesOfNat (maskOf ((List.range 64).filter fun l => !(nth lanes l []).isEmpty)) 8
    ++ lanes.flatMap (fun l => bytesOfNat l.length 2)
    ++ (List.range 16).map (fun i => BitVec.ofNat 8 (maskOf ((List.range 8).filter fun j => ks.contains (8 * i + j))))
    ++ bytesOfNat nj 2) 4096

/-- Moves a chunk to the spill region, or back: bytes and poison. -/
def moveChunk (m : MemSys) (src dst : Nat) : MemSys :=
  let p := (poisonAt m src 512).isSome
  let m1 := clearPoison { m with cells := copyCells m.cells src dst 512 } src 512
  if p then setPoison m1 dst 512 else m1

/-- Spills what an urgent team displaces on a core (R159 step 4, R438, R439). -/
def spill (s : State) (core qid : Nat) (c : Claim) : State :=
  let vs := victimGangs s core
  let lanes := (List.range 64).map (spillWords s vs c)
  let joins := spillJoins vs c
  let chunks := spillChunks s core c
  let put (st : State) (off : Nat) (bs : List Byte) : State := st.setMem { st.mem with cells := writeCells st.mem.cells (spillKey core off) bs }
  let s1 := put s 0 (spillHeader (s.core core).victims.length qid lanes chunks joins.length)
  let s2 := ((List.range joins.length).zip joins).foldl (fun st p => put st (0x1000 + 32 * p.1) (bytesOfNat (joinRecord p.2.2.1 p.2.2.2) 32)) s1
  let s3 := ((List.range 64).zip lanes).foldl (fun st p => put st (0x11000 + 4096 * p.1) (p.2.flatMap fun w => bytesOfNat w 8)) s2
  let holders := (claimedTiles s core c).foldl (fun m e => e.2.chunks.foldl (fun m k => Tab.set (512 * core + k) e.2.ctx m) m) s3.mem.chunkHolder
  let m := chunks.foldl (fun m k => moveChunk m (tileKey core k 0) (spillKey core (0x51000 + 512 * (511 - k)))) { s3.mem with chunkHolder := holders }
  let s4 := (s3.setMem m).modCore core fun k => { k with spill := chunks, joinSpill := joins.map fun x => (x.1, x.2.2) }
  sendSpill s4 core (8 * (lanes.map (·.length)).sum + 32 * joins.length + 512 * chunks.length)

/-- Places an urgent team, once nothing is in flight on the chunks it takes, no yielding team holds what it needs, and the release
of every victim's suspension is performed (R103); its local range and private ring are as the check has them (R159, R160). -/
def placeUrgent (s0 : State) (gid idx core : Nat) : Option State :=
  let s := stopVictims s0 gid core
  let g := s.grid gid
  match claimOf s gid core, s.queues.get? g.qid with
  | some c, some q =>
    let x := wantsNew g.launch g.width [core]
    let busy := (claimedTiles s core c).any fun e => !(opsOnTile s e.1).isEmpty || e.2.charge.isNone
    let yielding := (victimsOf s core c).any fun t => match (s.team t).res with
      | .yielding _ => true
      | _ => !(teamAcked s t)
    if busy || yielding || ringHeld s gid idx then none else
    match seatsFor x (fun _ => Occ.empty) (allWindows x.w), urgentStart s (core / 16) x.loc q with
    | some seats, some base =>
      let s1 := sendEntryFetch (spill s core g.qid c) g.ctx core g.launch.entry
      some (buildTeam s1 (planOf s gid idx c.chunks) x base seats)
    | _, _ => none
  | _, _ => none

/-! ### Restore (R440) -/

/-- Ranges of a core's spill region that hold a team's state. -/
def spilledOf (s : State) (core team : Nat) : List (Nat × Nat) :=
  let k := s.core core
  let gs := (gangsOn s core).filter fun g => g.team == team
  let joins := ((List.range k.joinSpill.length).filter fun i => gs.any fun g => g.index == (nth k.joinSpill i (0, 0)).2).map fun i => (spillKey core (0x1000 + 32 * i), 32)
  let words := gs.flatMap fun g => (windowLanes g.width g.window).flatMap fun l =>
    let n := readNat s.mem.cells (spillKey core (16 + 2 * l)) 2
    (nth g.words (l - g.window * g.width) []).filterMap fun r =>
      if 1024 - n < r.1 + r.2 then some (spillKey core (0x11000 + 8 * (512 * l + 1024 - (r.1 + r.2))), 8 * (r.1 + r.2 - max r.1 (1024 - n))) else none
  let chunks := (s.tiles.filter fun e => e.2.core == core && ((tileGang s e.1 e.2).map fun g => (s.gang g).team) == some team).flatMap fun e =>
    (e.2.chunks.filter k.spill.contains).map fun c => (spillKey core (0x51000 + 512 * (511 - c)), 512)
  joins ++ words ++ chunks

/-- A victim's restore met poison on a core: it is logged, and its context is reset with code 3 (DEDUCED, log 33). -/
def restoreFails (s : State) (core team : Nat) : Option State :=
  match (spilledOf s core team).findSome? fun r => poisonAt s.mem r.1 r.2 with
  | none => none
  | some p =>
    let ctx := (s.grid (s.team team).grid).ctx
    some (forcedReset (logErr s 2 cPoison 0 ctx p.1 3) ctx 3 (s.team team).idx)

/-- Copies displaced chunks back, and lets go of what a core holds for its victims. -/
def restoreCore (s : State) (core : Nat) : State :=
  let k := s.core core
  let vs := k.victims
  let s1 := vs.foldl (fun st t => if (st.teams.get? t).isSome then (restoreFails st core t).getD st else st) s
  let kept := (s1.tiles.filter fun e => e.2.core == core && ((tileGang s1 e.1 e.2).any fun g => vs.contains (s1.gang g).team)).flatMap fun e => e.2.chunks
  let m := (k.spill.filter kept.contains).foldl (fun m c => moveChunk m (spillKey core (0x51000 + 512 * (511 - c))) (tileKey core c 0)) s1.mem
  let s2 := (s1.setMem m).modCore core fun k => { k with spill := [], joinSpill := [], victims := [] }
  vs.foldl (fun st t =>
    if (st.team t).res = .inPlace ∧ !(st.cores.any fun e => e.2.victims.contains t) then wakeTeam st t else st) s2

/-- A core's victims can be restored: no urgent team is left on it, and the chunks of its released tiles have returned
(DEDUCED, log 33). -/
def mayRestore (s : State) (core : Nat) : Bool :=
  !(s.core core).victims.isEmpty && !(s.teams.any fun e => e.2.urgent && e.2.cores.contains core)
    && !(s.tiles.any fun e => e.2.core == core && e.2.freed && e.2.charge.isNone && e.2.chunks.any (s.core core).spill.contains)
    && !((s.core core).records.any (isUrgentRecord s))

/-- Restore of every core whose urgent teams have ended (R440). -/
def execUrgentRestore (s : State) : Host.Outcome State Fault Refusal :=
  .next (s.cores.keys.foldl (fun st c => if mayRestore st c then restoreCore st c else st) s)

/-! ### Placement (R146) -/

/-- Takes a record off a buffer once its team has a place (DEDUCED, log 32). -/
def dropRecord (s : State) (core : Nat) (r : Record) : State :=
  if (s.core core).records.head? = some r then popRecord s core
  else setRecords s core ((s.core core).records.filter fun x => x != r)

/-- Places a record's team; none where it must wait. -/
def placeRecord (s : State) (core : Nat) (r : Record) : Option State :=
  let s1 := dropRecord s core r
  if isUrgentRecord s r then placeUrgent s1 r.grid r.idx core
  else match r.resume with
    | some t => placeSaved s1 t r.cores
    | none => if ringHeld s1 r.grid r.idx then none else placeNew s1 r.grid r.idx r.cores

/-- The head record of a core's buffer is placed when the actual check passes (R146). -/
def execPlacement (core : Nat) (s : State) : Host.Outcome State Fault Refusal :=
  .next (match (s.core core).records with
    | r :: _ => (placeRecord s core r).getD s
    | [] => s)

/-! ### Forage replies (R149) -/

/-- Places a shipped record on the requester's first core that passes; else it returns to the distributor. -/
def placeShipped (s : State) (cl : Nat) (r : Record) : State :=
  let one (c : Nat) : Option State := match r.resume with
    | some t => placeSaved s t [c]
    | none => if ringHeld s r.grid r.idx then none else placeNew s r.grid r.idx [c]
  ((coresOf cl).findSome? one).getD (returnRecord s r)

/-- The reply to one requester: up to four stalled records, oldest assignment first, or an empty reply. -/
def forageReply (s : State) (cl : Nat) : State :=
  match (s.cluster cl).forage with
  | none => s
  | some v =>
    let stalled := (coresOf v).filterMap fun c => (stalledOf s c).map fun r => (c, r)
    let ship := (sortBy (fun (a b : Nat × Record) => decide (a.2.assigned < b.2.assigned)) stalled).take 4
    if ship.isEmpty then
      s.modCluster cl fun c => { c with forage := none, empties := c.empties + 1,
                                        forageWait := if c.empties + 1 = 17 then some (s.nowAt (16 * cl) + 4096) else none }
    else
      let s1 := ship.foldl (fun st p => popRecord st p.1) (s.modCluster cl fun c => { c with forage := none, empties := 0 })
      ship.foldl (fun st p => placeShipped st cl p.2) s1

/-- Replies to the outstanding forage requests (R149). -/
def execForageReply (s : State) : Host.Outcome State Fault Refusal := .next ((List.range 18).foldl forageReply s)

end Sys2Proof.Machine
end

