-- ==== Sys2Proof/Machine/Pipes.lean ====
section
/-! DEFINITION. The instances of declared pipelines (spec 06 R150 to R152, spec 07 R163, spec 18 R446): their start, their stage
teams, the closing of stages, the stage balancer, and the completion of instances and launches. -/

namespace Sys2Proof.Machine

/-! ### Quarters (R150) -/

/-- Quarters of a core that the instances of its cluster hold. -/
def heldQuarters (s : State) (core : Nat) : List Nat :=
  s.insts.flatMap fun e => (e.2.groups.filter fun h => h.core == core).flatMap fun h =>
    (List.range ((e.2.stages[h.stage]?).map (·.group) |>.getD 1)).map (h.quarter + ·)

/-- Aligned groups of g quarters of a cluster that no stage holds, lowest core and lowest quarter first (DEDUCED, log 34). -/
def freeGroups (s : State) (cl g : Nat) : List (Nat × Nat) :=
  ((coresOf cl).filter (coreReady s)).flatMap fun c =>
    let used := heldQuarters s c
    ((List.range (4 / g)).map (g * ·)).filterMap fun q => if (List.range g).all (fun i => !(used.contains (q + i))) then some (c, q) else none

/-- Quarters that a stage holds. -/
def heldBy (i : Instance) (st g : Nat) : Nat := g * (i.groups.filter fun h => h.stage == st).length

/-- Takes n groups for a stage; none where the cluster has fewer. -/
def takeGroups (s : State) (inst st n : Nat) : Option State :=
  (s.insts.get? inst).bind fun i => (i.stages[st]?).bind fun d =>
    let l := (freeGroups s i.cl d.group).take n
    if l.length < n then none
    else some (s.modInst inst fun i => { i with groups := i.groups ++ l.map fun p => ⟨st, p.1, p.2, none, false, none⟩ })

/-! ### Start of an instance (R151) -/

/-- Bytes of a FIFO's bank. -/
def FifoDef.range (d : FifoDef) : Nat × Nat := (d.bank * 2 ^ 18 + d.offset, d.depth * d.bytes)

/-- Ranges of a cluster's banks that the FIFOs of started instances take. -/
def fifoRanges (s : State) (cl : Nat) : List (Nat × Nat) :=
  (s.insts.filter fun e => e.2.cl == cl && e.2.started && !e.2.done).flatMap fun e => e.2.fifos.map fun q => q.def_.range

/-- The banks of an instance's FIFOs can be provided: each is in FIFO mode with no change wanted, and no other instance has its
range. -/
def banksOk (s : State) (i : Instance) : Bool :=
  let c := s.cluster i.cl
  let used := fifoRanges s i.cl
  i.fifos.all fun q =>
    let b := nth c.banks q.def_.bank ⟨0, none⟩
    b.mode == 2 && b.target.isNone && wantedMode c q.def_.bank == 2 && !(used.any (overlap q.def_.range))

/-- Takes INITQ quarters for each stage in turn. -/
def takeInitial (s : State) (inst : Nat) (stages : List StageDef) : List Nat → Option State
  | [] => some s
  | st :: sts =>
    match (stages[st]?).bind fun d => takeGroups s inst st (d.initQ / d.group) with
    | some s1 => takeInitial s1 inst stages sts
    | none => none

/-- Starts an instance when its quarters and banks can be provided (R151). -/
def startInst (s : State) (inst : Nat) : State :=
  match s.insts.get? inst with
  | none => s
  | some i =>
    if i.started || !banksOk s i || ctxHeld s (s.grid i.grid).ctx then s else
    match takeInitial s inst i.stages (List.range i.stages.length) with
    | some s1 => (s1.modInst inst fun i => { i with started := true, lastBalance := s.nowAt (16 * i.cl) }).modGrid i.grid fun g =>
        { g with nextIdx := g.nextIdx + 1 }
    | none => s

/-! ### Stage teams (R151) -/

/-- Threads of a stage team (R151). -/
def StageDef.threads (d : StageDef) : Nat := d.occ * (16 * d.group)

/-- What a stage team asks of its core. -/
def wantsStage (d : StageDef) (core : Nat) : Wants :=
  { cores := [core], w := d.width, d := 8 * (d.regs + 1), asks := (List.range (d.threads / d.width)).map fun i => (i, d.joins + 1, d.tiles),
    loc := 4096 * d.loc, resumed := false }

/-- Windows of a group for the gangs of its team, in turn: every lane of the group holds OCC threads (Table 6-6). -/
def stageSeats (o : Occ) (d : StageDef) (quarter : Nat) : List Ask → Option (List (Nat × Nat))
  | [] => some []
  | a :: as =>
    let n := 16 * d.group / d.width
    let k := 16 * quarter / d.width + a.1 % n
    match windowRoom o d.width (8 * (d.regs + 1)) k with
    | none => none
    | some _ => (stageSeats (takeWindow o d.width (8 * (d.regs + 1)) k) d quarter as).map ((a.1, k) :: ·)

/-- The team index of a grid's next stage team: stage teams are numbered as they start. -/
def stageIndex (s : State) (gid : Nat) : Nat := ((s.insts.filter fun e => e.2.grid == gid).map fun e => e.2.startedTeams).sum

/-- The group starts a stage team, when the core has room for it (Table 6-5). -/
def startStageTeam (s : State) (inst : Nat) (i : Instance) (d : StageDef) (h : Held) : State :=
  let x := wantsStage d h.core
  let o := occOf s h.core
  let idx := stageIndex s i.grid
  if o.joins < (x.asks.map (·.2.1)).sum ∨ o.chunks < (x.asks.map (·.2.2)).sum ∨ o.table < x.asks.length ∨ ringHeld s i.grid idx then s else
  match stageSeats o d h.quarter x.asks, localStart s i.cl x.loc (localUsed s i.cl) with
  | some ks, some base =>
    let p : Plan := { grid := i.grid, idx := idx, kind := .one, role := .stage inst h.stage (64 * h.core + h.quarter), urgent := false, t := d.threads,
                      tiles := d.tiles, args := (s.grid i.grid).launch.args, entry := d.entry, chunks := [] }
    let id := s.fresh.1
    (buildTeam s p x base (ks.map fun k => (k.1, h.core, k.2))).modInst inst fun i =>
      { i with startedTeams := i.startedTeams + 1
               groups := i.groups.map fun g => if g.stage = h.stage ∧ g.core = h.core ∧ g.quarter = h.quarter then { g with team := some id, ran := true } else g }
  | _, _ => s

/-- A group is due to start a team: it has none, its stage is open, it does not drain, and stage 0 starts one only (R151)
(DEDUCED, log 34). -/
def mayStart (i : Instance) (h : Held) : Bool :=
  h.team.isNone && !(nth i.closed h.stage false) && h.draining.isNone && !(h.stage == 0 && h.ran)

/-- Starts the stage teams of an instance that are due; none while its context drains (R157). -/
def startTeams (s : State) (inst : Nat) : State :=
  match s.insts.get? inst with
  | none => s
  | some i =>
    if !i.started || ctxHeld s (s.grid i.grid).ctx then s else
    (i.groups.filter (mayStart i)).foldl (fun st h =>
      match i.stages[h.stage]? with
      | some d => startStageTeam st inst i d h
      | none => st) s

/-! ### Closing (R151, R163) -/

/-- A stage closes now (R151) (DEDUCED, log 34). -/
def stageEnds (i : Instance) (st : Nat) : Bool :=
  let mine := i.groups.filter fun h => h.stage == st
  let idle := mine.all fun h => h.team.isNone
  let ins := i.fifos.filter fun q => q.def_.cons == st
  !(nth i.closed st false) && idle &&
    if st = 0 then mine.all (·.ran)
    else if ins.isEmpty then mine.any (·.ran)
    else ins.all fun q => producerClosed i q && q.entries.isEmpty

/-- Closes a stage: it releases its groups, and its consumers test again. -/
def closeStage (s : State) (inst st : Nat) : State :=
  settleFifos (s.modInst inst fun i => { i with closed := i.closed.set st true, groups := i.groups.filter fun h => h.stage != st }) inst

/-- Closes the stages of an instance that end, in order. -/
def closeStages (s : State) (inst : Nat) : State :=
  (List.range (((s.insts.get? inst).map fun i => i.stages.length).getD 0)).foldl (fun st k =>
    match st.insts.get? inst with
    | some i => if i.started && stageEnds i k then closeStage st inst k else st
    | none => st) s

/-! ### Draining groups (R152, R446) -/

/-- Gives a stage groups from the free pool, up to some quarters and MAXQ. -/
def fillStage (s : State) (inst st : Nat) : Nat → State
  | 0 => s
  | fuel + 1 =>
    match (s.insts.get? inst).bind fun i => (i.stages[st]?).map fun d => (i, d) with
    | none => s
    | some (i, d) =>
      if nth i.closed st false || decide (d.maxQ < heldBy i st d.group + d.group) then s else
      match takeGroups s inst st 1 with
      | some s1 => fillStage s1 inst st fuel
      | none => s

/-- A drained group joins the free pool, and the recipient takes groups from it. -/
def releaseDrained (s : State) (inst : Nat) : State :=
  match (s.insts.get? inst).bind fun i => (i.groups.find? fun h => h.draining.isSome && h.team.isNone).map fun h => (i, h) with
  | none => s
  | some (i, h) =>
    let s1 := s.modInst inst fun i => { i with groups := i.groups.filter fun x => x != h }
    let size (st : Nat) : Nat := ((i.stages[st]?).map (·.group)).getD 1
    let rcp := h.draining.getD 0
    fillStage s1 inst rcp (max 1 (size h.stage / size rcp))

/-! ### The stage balancer (R152) -/

/-- IN of a stage. -/
def stageIn (i : Instance) (st : Nat) : Nat :=
  match i.fifos.filter fun q => q.def_.cons == st with
  | [] => 128
  | l => (l.map fun q => min 255 (q.entries.length * 256 / q.def_.depth)).foldl max 0

/-- The recipient: the greatest IN, the lower stage of equal ones. -/
def recipient (i : Instance) : Option Nat :=
  leastBy (fun a b => decide (stageIn i b < stageIn i a)) ((List.range i.stages.length).filter fun st =>
    match i.stages[st]? with
    | some d => !(nth i.closed st false) && decide (192 ≤ stageIn i st) && nth i.blk st 0 == 0 && decide (heldBy i st d.group + d.group ≤ d.maxQ)
    | none => false)

/-- The donor for a recipient: the greatest BLK, then the least IN, then the higher stage. -/
def donor (i : Instance) (rcp : Nat) : Option Nat :=
  leastBy (fun a b => decide (nth i.blk b 0 < nth i.blk a 0) || (nth i.blk a 0 == nth i.blk b 0 &&
      (decide (stageIn i a < stageIn i b) || (stageIn i a == stageIn i b && decide (b < a))))) ((List.range i.stages.length).filter fun st =>
    match i.stages[st]? with
    | some d => st != rcp && decide (d.minQ + d.group ≤ heldBy i st d.group) && (decide (256 ≤ nth i.blk st 0) || decide (stageIn i st ≤ 32))
    | none => false)

/-- The group of a stage on the highest core, in the highest quarter. -/
def topGroup (i : Instance) (st : Nat) : Option Held :=
  leastBy (fun (a b : Held) => decide (64 * b.core + b.quarter < 64 * a.core + a.quarter)) (i.groups.filter fun h => h.stage == st)

/-- One decision of an instance's balancer, at the end of an interval (DEDUCED, log 34). -/
def balance (s : State) (inst : Nat) (i : Instance) : State :=
  let s1 := s.modInst inst fun x => { x with lastBalance := i.lastBalance + 1024, blk := i.stages.map fun _ => 0 }
  if i.groups.any fun h => h.draining.isSome then s1 else
  match recipient i with
  | none => s1
  | some r =>
    match (donor i r).bind (topGroup i) with
    | none => s1
    | some h => releaseDrained (settleFifos (s1.modInst inst fun x =>
        { x with groups := x.groups.map fun y => if y = h then { y with draining := some r } else y }) inst) inst

/-- The end of a balancer interval of 1,024 front cycles (R152). -/
def execBalancerInterval (s : State) : Host.Outcome State Fault Refusal :=
  .next (s.insts.foldl (fun st e =>
    if e.2.started && !e.2.done && decide (e.2.lastBalance + 1024 ≤ s.nowAt (16 * e.2.cl)) then balance st e.1 e.2 else st) s)

/-! ### Waits for local memory (R57) -/

/-- Teams that a scratchpad space has to reach, with their grid, index and local size and the largest space that they could be given:
the next team of each grid, saved teams, those of records that no core has placed, and stage teams that are due. -/
def localNeeds (s : State) : List (Nat × Nat × Nat × Nat) :=
  let most (g : Nat) := largestScratch s g
  (s.grids.flatMap fun e =>
    (if holdsEntry e && !e.2.pipeline then (nextIndex e.2).toList.map fun i => (e.1, i, 4096 * e.2.launch.loc, most e.1) else [])
      ++ e.2.resumed.map fun t => (e.1, (s.team t).idx, (s.team t).localSize, most e.1))
    ++ (s.cores.flatMap fun e => e.2.records.map fun r => (r.grid, r.idx, (recordWants s r).loc, most r.grid))
    ++ s.insts.flatMap fun e => if e.2.started && !e.2.done then
        ((e.2.groups.filter (mayStart e.2)).take 1).filterMap fun h => (e.2.stages[h.stage]?).map fun d =>
          (e.2.grid, stageIndex s e.2.grid, 4096 * d.loc, scratchSize s e.2.cl)
      else []

/-- The waits of the teams whose local size no space reaches now. -/
def waitsNow (s : State) : List LocalWait :=
  ((localNeeds s).filter fun x => decide (x.2.2.2 < x.2.2.1)).map fun x =>
    (s.mgmt.localWaits.find? fun w => w.grid == x.1 && w.idx == x.2.1).getD ⟨x.1, x.2.1, s.dist, false⟩

/-- A wait of 2^24 front cycles is logged once, and goes on (R57). -/
def logWait (s : State) (w : LocalWait) : State × LocalWait :=
  if w.logged || decide (s.dist < w.since + 2 ^ 24) then (s, w)
  else let g := s.grid w.grid; (logErr s 1 0x11 w.idx g.ctx g.qid 0, { w with logged := true })

/-- The waits for local memory go on, or expire (R57). -/
def execLocalSizeWaitExpiry (s : State) : Host.Outcome State Fault Refusal :=
  .next (let r := (waitsNow s).foldl (fun (a : State × List LocalWait) w => let x := logWait a.1 w; (x.1, a.2 ++ [x.2])) (s, [])
         r.1.modMgmt fun m => { m with localWaits := r.2 })

/-! ### Completion (R151, R163, R140) -/

/-- The instances of a grid. -/
def instsOf (s : State) (gid : Nat) : List (Nat × Instance) := s.insts.filter fun e => e.2.grid == gid

/-- The frame of a grid, if it has one. -/
def frameOf (s : State) (gid : Nat) : Option (Nat × Frame) := s.frames.find? fun e => e.2.grid == gid

/-- Marks an instance done when every stage of it is closed (R151). -/
def endInst (s : State) (inst : Nat) : State :=
  s.modInst inst fun i => if i.started && i.closed.all id then { i with done := true } else i

/-- Completes a pipeline launch when every instance has completed, and its frame (R151, R163); the governor reads its counters at
the completion of a rendering launch (R193). -/
def endPipeline (s : State) (gid : Nat) : State :=
  if gridAcked s gid && (instsOf s gid).all (fun e => e.2.done) && (frameOf s gid).all (fun e => e.2.phase == 2) then
    let s1 := completeGrid s gid
    let s2 := if (frameOf s gid).isSome then governLaunch s1 (s.grid gid).ctx else s1
    { s2 with insts := s2.insts.filter (fun e => e.2.grid != gid), frames := s2.frames.filter fun e => e.2.grid != gid }
  else s

/-- The end of a frame whose launch a forced reset has stopped: its draws complete without an add. -/
def dropFrames (s : State) : State :=
  let gone := s.frames.filter fun e => (s.grids.get? e.2.grid).isNone
  let s1 := gone.foldl (fun st e => e.2.draws.foldl (fun st d => if d.failed then st else packetDone st d.qid d.slot) st) s
  { s1 with frames := s1.frames.filter fun e => (s.grids.get? e.2.grid).isSome }

/-- One instance goes on: it starts, drained groups are released, stages close, and stage teams start. -/
def runInst (s : State) (inst : Nat) : State :=
  endInst (startTeams (closeStages (releaseDrained (startInst s inst) inst) inst) inst) inst

/-- The work of the instances: starts, stage teams, closings, completions (R151). -/
def execPipelineInstanceStart (s : State) : Host.Outcome State Fault Refusal :=
  .next (
    let s1 := dropFrames s
    let s2 := (Tab.keys (s1.insts.filter fun e => !e.2.done)).foldl runInst s1
    (Tab.keys (s2.grids.filter fun e => e.2.pipeline)).foldl endPipeline s2)

end Sys2Proof.Machine
end

