-- ==== Sys2Proof/Machine/Banks.lean ====
section
/-! DEFINITION. Transitions of the banks of a cluster's SRAM (spec 03 R62, R63, R520). -/

namespace Sys2Proof.Machine

/-- The mode of a bank. -/
def Cluster.bank (c : Cluster) (b : Nat) : Bank := nth c.banks b ⟨0, none⟩

/-- Bytes of a cluster's scratchpad space that something is bound to (R520): local ranges of placed teams, the reserved
ranges of urgent queues, the barrier objects of enabled sensor windows. -/
def boundRanges (s : State) (cl : Nat) : List (Nat × Nat) :=
  let windows := (List.range 16).filterMap fun n => let w := window s n; if w.en && w.cl == cl then some (w.obj, 16) else none
  localUsed s cl ++ footprints s cl ++ windows

/-- Something bound lies in a scratchpad bank numbered above a bank (R520). -/
def boundAbove (s : State) (cl bank : Nat) : Bool :=
  let l := scratchBanks (s.cluster cl)
  (List.range l.length).any fun i => decide (bank < nth l i 0) && (boundRanges s cl).any (overlap (i * 2 ^ 18, 2 ^ 18))

/-- A byte of a team's local range lies in the bank (Table 3-4). -/
def localIn (s : State) (cl bank : Nat) : Bool :=
  let l := scratchBanks (s.cluster cl)
  (List.range l.length).any fun i => nth l i 0 == bank && (localUsed s cl).any (overlap (i * 2 ^ 18, 2 ^ 18))

/-- A stage queue is bound to the bank (Table 3-4). -/
def queueIn (s : State) (cl bank : Nat) : Bool :=
  s.insts.any fun e => e.2.cl == cl && e.2.started && !e.2.done && e.2.fifos.any fun q => q.def_.bank == bank

/-- A transition of a bank to a mode is held (Table 3-4, R520). -/
def bankHeld (s : State) (cl bank new : Nat) : Bool :=
  let old := ((s.cluster cl).bank bank).mode
  (old == 1 && localIn s cl bank) || (old == 2 && queueIn s cl bank) || ((old == 1 || new == 1) && boundAbove s cl bank)

/-- Lines that a cluster holds, owned or copied. -/
def heldLines (s : State) (cl : Nat) : List Nat :=
  dedup ((s.mem.registry.filter fun e => e.2.any fun o => o.1 == cl).map (·.1) ++ (s.cluster cl).lines
    ++ (s.cluster cl).copies.map fun e => physOf e.1 / 128)

/-- The lines of a cache bank are written back and invalidated: of the lines that the cluster holds, those that lay in the
bank, which the schedule says; all of them when no other bank caches. -/
def releaseCache (s : State) (cl : Nat) : State :=
  let last := !(hasWays (s.cluster cl))
  (heldLines s cl).foldl (fun st l =>
    let (k, st1) := if last then (1, st) else st.choose 2
    if k = 1 then releaseLine st1 cl l else st1) s

/-- The release of a bank that leaves a mode (Table 3-4). -/
def releaseBank (s : State) (cl bank mode : Nat) : State :=
  if mode = 0 then releaseCache s cl
  else if mode = memoBank then
    s.modCluster cl fun c => { c with memo := c.memo.filter fun e => entryBank (nth c.memoTable e.table 0) e.slot != bank }
  else s

/-- Sets the record of a bank. -/
def setBank (s : State) (cl bank : Nat) (b : Bank) : State := s.modCluster cl fun c => { c with banks := c.banks.set bank b }

/-- A bank's transition: a release in progress ends in its mode; else the release towards the mode that is wanted begins
once it is not held (R62). -/
def moveBank (s : State) (cl bank : Nat) : State :=
  let b := (s.cluster cl).bank bank
  match b.target with
  | some t => setBank s cl bank ⟨t, none⟩
  | none =>
    let new := wantedMode (s.cluster cl) bank
    if b.mode = new ∨ bankHeld s cl bank new then s else releaseBank (setBank s cl bank ⟨b.mode, some new⟩) cl bank b.mode

/-- A transition of a bank of a cluster (R62) (DESIGN CHOICE, log 23). -/
def execBankTransition (cl bank : Nat) (s : State) : Host.Outcome State Fault Refusal :=
  if 18 ≤ cl ∨ 32 ≤ bank then .fault .noSuchUnit else .next (moveBank s cl bank)

end Sys2Proof.Machine
end

