-- ==== Sys2Proof/Machine/Fabric.lean ====
section
/-! DEFINITION. The Mostoax mesh (spec 10 R236 to R241, spec 21 R490, R491): packets, their way, slot tables and age
arbitration, turn buffers; and the request limits of the system-cache slices (spec 03 R86). What a packet carries takes its
effect in the steps of the units; here is how it travels (DESIGN CHOICE, log 5). -/

namespace Sys2Proof.Machine

/-! ### Places and ways (R236, R238) -/

/-- A site with a full router. -/
def fullSite (n : Nat) : Bool := (n % 8 + n / 8) % 2 == 0

/-- The turn point of a packet that travels along x first. -/
def turnPoint (src dst : Nat) : Nat := 8 * (src / 8) + dst % 8

/-- A packet whose turn point is a router set to pass-through, which only passes straight on (R249), travels along y first; the
spec gives it no way (DESIGN CHOICE, log 58). -/
def alongY (passed : List Nat) (src dst : Nat) : Bool := src % 8 != dst % 8 && src / 8 != dst / 8 && passed.contains (turnPoint src dst)

/-- A packet at a node would turn there, at a half-router site. -/
def turnsAt (y : Bool) (n dst : Nat) (turned : Bool) (src : Nat) : Bool :=
  !turned && !(fullSite n) && if y then n / 8 == dst / 8 && n % 8 != dst % 8 && src / 8 != dst / 8
    else n % 8 == dst % 8 && n / 8 != dst / 8 && src % 8 != dst % 8

/-- The port along x or along y. -/
def portX (n dst : Nat) : Nat := if n % 8 < dst % 8 then 0 else 2
def portY (n dst : Nat) : Nat := if n / 8 < dst / 8 then 1 else 3

/-- The output port towards a destination (Table 10-2): first along x, then along y; local at the destination, and at a
half-router site where the packet would turn. -/
def portTo (passed : List Nat) (n dst : Nat) (turned : Bool) (src : Nat) : Nat :=
  let y := alongY passed src dst
  if n = dst ∨ turnsAt y n dst turned src then 4
  else if y then (if n / 8 != dst / 8 then portY n dst else portX n dst)
  else if n % 8 != dst % 8 then portX n dst else portY n dst

/-- The node beyond a port. -/
def neighbour (n port : Nat) : Nat := match port with
  | 0 => n + 1
  | 1 => n + 8
  | 2 => n - 1
  | 3 => n - 8
  | _ => n

/-! ### Age (R237, R240, R491) -/

/-- Timestamp a is older than b. -/
def olderStamp (a b : Nat) : Bool := let d := (b + 2 ^ 32 - a % 2 ^ 32) % 2 ^ 32; decide (1 ≤ d ∧ d < 2 ^ 31)

/-- A timestamp is more than 2^30 older than the count. -/
def isStale (now stamp : Nat) : Bool := let d := (now + 2 ^ 32 - stamp % 2 ^ 32) % 2 ^ 32; decide (2 ^ 30 < d ∧ d < 2 ^ 31)

/-- The order of arbitration between two packets: stale ones first, then age, source node, sequence number. -/
def goesFirst (a b : Nat × Flit) : Bool :=
  (a.2.stale && !b.2.stale) || (a.2.stale == b.2.stale && (olderStamp a.2.stamp b.2.stamp ||
    (a.2.stamp == b.2.stamp && (decide (a.2.src < b.2.src) || (a.2.src == b.2.src && decide (a.2.seq < b.2.seq))))))

/-! ### One cycle of a port (R239, R240) -/

/-- The port that a packet waits for, by its first destination; it has been split so that all go the same way. -/
def Flit.port (passed : List Nat) (f : Flit) : Nat := portTo passed f.node (f.dst.headD f.node) f.turned f.src

/-- The way of a packet to one destination at its node: the port, and whether it is delivered there. -/
def Flit.way (passed : List Nat) (f : Flit) (d : Nat) : Nat × Bool := (portTo passed f.node d f.turned f.src, d == f.node)

/-- Splits a packet at a router into one for each way; the parts keep its sequence number (R238, R240, R490). -/
def splitPacket (s : State) (id : Nat) : State :=
  match s.mgmt.pkts.get? id with
  | none => s
  | some f =>
    let passed := s.mgmt.passThrough
    let ways := dedup (f.dst.map (f.way passed))
    let along (w : Nat × Bool) := f.dst.filter fun d => f.way passed d == w
    match ways with
    | [] => s.modMgmt fun m => { m with pkts := m.pkts.del id }
    | w :: rest =>
      rest.foldl (fun st w => let (n, st1) := st.fresh; st1.modMgmt fun m => { m with pkts := m.pkts.set n { f with dst := along w } })
        (s.modMgmt fun m => { m with pkts := m.pkts.set id { f with dst := along w } })

/-- Flits in the turn buffer of a half-router site. -/
def turnLoad (m : Mgmt) (n : Nat) : Nat := ((m.pkts.filter fun e => e.2.node == n && e.2.turn.isSome).map fun e => e.2.flits).sum

/-- A packet may take a position: the turn buffer it goes to has room for it. -/
def roomFor (m : Mgmt) (f : Flit) : Bool :=
  !(f.port m.passThrough == 4 && f.dst.head? != some f.node) || decide (turnLoad m f.node + f.flits ≤ 16)

/-- Packets that wait for a port of a router and have not been served in the cycle. -/
def waitingAt (m : Mgmt) (n port now : Nat) : Tab Flit :=
  m.pkts.filter fun e => e.2.node == n && e.2.turn.isNone && e.2.port m.passThrough == port && decide (e.2.served < now) && roomFor m e.2

/-- Grants one flit position: the oldest waiting packet of its class, else of any class. -/
def grantPos (code : Nat) (l : Tab Flit) : Tab Flit :=
  let open_ := l.filter fun e => decide (0 < e.2.left)
  let mine := open_.filter fun e => code != 0 && e.2.vc == code
  match leastBy goesFirst (if mine.isEmpty then open_ else mine) with
  | some e => l.set e.1 { e.2 with left := e.2.left - 1 }
  | none => l

/-- What a packet whose flits have all been granted does: it is delivered, enters a turn buffer, or reaches the next router. -/
def movePacket (s : State) (id : Nat) (f : Flit) : State :=
  let port := f.port s.mgmt.passThrough
  if port = 4 then
    if f.dst.head? = some f.node then
      let s1 := s.modMgmt fun m => { m with pkts := m.pkts.del id }
      match nodeUnit f.node with
      | (1, slice) => if fullSite f.src then s1.push [.sliceRequest slice f.src f.stamp] else s1
      | _ => s1
    else s.modMgmt fun m => { m with pkts := m.pkts.set id { f with left := f.flits, turn := some (s.clk.fabric + 2) } }
  else splitPacket (s.modMgmt fun m => { m with pkts := m.pkts.set id { f with node := neighbour f.node port, left := f.flits } }) id

/-- Notes and logs the packets that have become stale (R491). -/
def noteStale (s : State) (e : Nat × Flit) : State :=
  if !e.2.stale && isStale s.clk.fabric e.2.stamp then
    (logErr s 7 1 e.2.node 0 e.2.stamp 0).modMgmt fun m => { m with pkts := m.pkts.mod e.1 fun f => { f with stale := true } }
  else s

/-- One fabric front cycle of the port that a packet waits for. -/
def servePort (s : State) (n port : Nat) : State :=
  let now := s.clk.fabric
  let s1 := (waitingAt s.mgmt n port now).foldl noteStale s
  let entry := nth (nth s1.mgmt.slotTable (5 * n + port) []) (now % 64) 0
  let l := (waitingAt s1.mgmt n port now).map fun e => (e.1, { e.2 with served := now })
  let l1 := [3, 2, 1, 0].foldl (fun l pos => grantPos (slotCode entry pos) l) l
  let s2 := s1.modMgmt fun m => { m with pkts := l1.foldl (fun t e => t.set e.1 e.2) m.pkts }
  (l1.filter fun e => e.2.left == 0).foldl (fun st e => movePacket st e.1 e.2) s2

/-- A packet's port is served in the cycle (R238 to R240); at its first router it is split first (DESIGN CHOICE, log 5). -/
def execFabricHop (pkt : Nat) (s : State) : Host.Outcome State Fault Refusal :=
  .next (match s.mgmt.pkts.get? pkt with
    | none => s
    | some f0 =>
      if f0.turn.isSome || decide (s.clk.fabric ≤ f0.served) then s else
      let s1 := if f0.node = f0.src ∧ !f0.turned then splitPacket s pkt else s
      match s1.mgmt.pkts.get? pkt with
      | some f => servePort s1 f.node (f.port s1.mgmt.passThrough)
      | none => s1)

/-- A packet leaves its turn buffer when its cycle has come. -/
def Flit.reinjected (f : Flit) (now : Nat) : Flit :=
  match f.turn with
  | some d => if d ≤ now then { f with turn := none, turned := true } else f
  | none => f

/-- Turn buffers inject again the packets that entered them two fabric front cycles ago; a multicast packet branches there
(R238). -/
def execTurnBufferReinject (s : State) : Host.Outcome State Fault Refusal :=
  let due := (s.mgmt.pkts.filter fun e => e.2.turn.any fun d => decide (d ≤ s.clk.fabric)).map (·.1)
  .next (due.foldl splitPacket (s.modMgmt fun m => { m with pkts := m.pkts.map fun e => (e.1, e.2.reinjected s.clk.fabric) }))

/-! ### Slices (R86) -/

/-- Requests that a slice holds at once. -/
def sliceLimit : Nat := 256

/-- A slice that holds nothing. -/
def Slice.empty : Slice := ⟨[], none, []⟩

/-- A request as old as the oldest rejected one, or older: timestamps first, then fabric node. -/
def sliceTakes (sl : Slice) (node stamp : Nat) : Bool :=
  match sl.oldest with
  | none => true
  | some (st, n) => olderStamp stamp st || (stamp == st && decide (node ≤ n))

/-- The oldest of the requests that have been rejected and not accepted. -/
def oldestOf_ (l : List (Nat × Nat × Nat)) : Option (Nat × Nat) :=
  (leastBy (fun (a b : Nat × Nat × Nat) => olderStamp a.2.1 b.2.1 || (a.2.1 == b.2.1 && decide (a.1 < b.1))) l).map fun r => (r.2.1, r.1)

/-- A request arrives at a slice: it is accepted, or rejected and retried 32 fabric front cycles later. -/
def arriveAt (s : State) (slice node stamp : Nat) : State :=
  let sl := s.mgmt.slices.getD slice .empty
  let sl1 := if sl.held.length < sliceLimit ∧ sliceTakes sl node stamp then { sl with held := sl.held ++ [(node, stamp)], oldest := oldestOf_ sl.retry }
    else
      let retry := sl.retry ++ [(node, stamp, s.clk.fabric + 32)]
      { sl with retry := retry, oldest := oldestOf_ retry }
  s.modMgmt fun m => { m with slices := m.slices.set slice sl1 }

/-- A request at a slice (R86). -/
def execSliceRequest (slice node stamp : Nat) (s : State) : Host.Outcome State Fault Refusal :=
  .next (if slice < 32 then arriveAt s slice node stamp else s)

/-- Retries the rejected requests of a slice that are due. -/
def retrySlice (s : State) (slice : Nat) : State :=
  let due := (s.mgmt.slices.getD slice .empty).retry.filter fun r => decide (r.2.2 ≤ s.clk.fabric)
  due.foldl (fun st r =>
    arriveAt (st.modMgmt fun m => { m with slices := m.slices.mod slice fun sl => { sl with retry := sl.retry.erase r } }) slice r.1 r.2.1) s

/-- Rejected requests are retried (R86). -/
def execSliceRetry (s : State) : Host.Outcome State Fault Refusal := .next (s.mgmt.slices.keys.foldl retrySlice s)

/-- A slice completes its oldest request (DESIGN CHOICE, log 5). -/
def serveSlices (s : State) : State :=
  s.modMgmt fun m => { m with slices := (m.slices.map fun e => (e.1, { e.2 with held := e.2.held.drop 1 })).filter fun e => e.2 != Slice.empty }

end Sys2Proof.Machine
end

