-- ==== Sys2Proof/Machine/Carder.lean ====
section
/-! DEFINITION. card and the carder (spec 02 R43 to R49, spec 15 R388, spec 18 R445). -/

namespace Sys2Proof.Machine

/-- card of one thread (R388): Blocked at CARD with key A[31:0]; in a handler it may not (R445). -/
def cardThread (o : Op1) (s : State) (t : Nat) : Act :=
  if !(s.thread t).entered.isEmpty then .bad (cOperand, 0) else .done (block s t (.card ((s.gr t o.a.val).toNat % 2 ^ 32)))

/-- `card` (R388). -/
def execCard (o : Op1) (s : State) : Host.Outcome State Fault Refusal :=
  .next (issue (.card o) (fun s ths =>
    let r := runThreads (cardThread o) s ths
    { r with s := (teamsOf s ths).foldl notifyCarder r.s }) s)

/-! ### The repack -/

/-- The key of a participant. -/
def cardKey (x : Thread) : Option Nat :=
  match x.run with
  | .blocked (.card k) => some k
  | _ => none

/-- A thread is Blocked by Table 2-5; one that waits at a qpost or a tfree is Waiting. -/
def Thread.isBlocked (x : Thread) : Bool :=
  match x.run with
  | .blocked (.post _ _ _ _ _) => false
  | .blocked (.tfree _) => false
  | .blocked _ => true
  | _ => false

/-- Gangs of a team on one core, in ascending number. -/
def gangsThere (s : State) (team core : Nat) : List Nat :=
  sortBy (fun a b => decide ((s.gang a).num < (s.gang b).num)) ((s.team team).gangs.filter fun g => (s.gang g).core == core)

/-- The carder may repack (R43, R44, R445, R364). -/
def mayRepack (s : State) (gs : List Nat) : Bool :=
  let ths := gs.flatMap fun g => threadsOf (s.gang g)
  let live := ths.filter fun t => !((s.thread t).run == .exited)
  let parts := ths.filter fun t => (cardKey (s.thread t)).isSome
  !parts.isEmpty && live.all (fun t => (s.thread t).isBlocked) && parts.all (fun t => (s.accsOf t).isEmpty)
    && gs.all fun g => (s.gang g).delivery.isNone && (s.gang g).nested.isNone && (s.gang g).joins.all fun j => j.sigs.isEmpty

/-- The slots of R44, step 1: gang and position of a participant or an Exited thread. R49 lets a later repack refill a gang that holds
no thread, and no such slot of it is in this list: it stays empty (DESIGN CHOICE, log 59). -/
def cardSlots (s : State) (gs : List Nat) : List (Nat × Nat) :=
  gs.flatMap fun g => (List.range (s.gang g).width).filterMap fun p => match nth (s.gang g).at_ p none with
    | some t => if (s.thread t).run == .exited || (cardKey (s.thread t)).isSome then some (g, p) else none
    | none => none

/-- The participants in the order of R44, step 2. -/
def cardOrder (s : State) (gs : List Nat) : List Nat :=
  let ths := (gs.flatMap fun g => threadsOf (s.gang g)).filter fun t => (cardKey (s.thread t)).isSome
  let key (t : Nat) : Nat := (cardKey (s.thread t)).getD 0
  sortBy (fun a b => decide (key a < key b) || (key a == key b && decide ((s.thread a).tid < (s.thread b).tid))) ths

/-- Puts a participant, or nothing, into a slot. -/
def fillSlot (s : State) (slot : Nat × Nat) (who : Option Nat) : State :=
  let s1 := s.modGang slot.1 fun g => { g with at_ := g.at_.set slot.2 who }
  match who with
  | some t => s1.modThread t fun x => { x with gang := slot.1, pos := slot.2 }
  | none => s1

/-- A bit that a thread had in a mask of a join of its gang before the repack. -/
def oldBit (s : State) (n t : Nat) (f : Join → Nat) : Bool := bit (f (joinOf s (s.thread t).gang n)) (s.thread t).pos

/-- Participants of a gang before the repack. -/
def partsIn (s : State) (g : Nat) : Nat := ((threadsOf (s.gang g)).filter fun t => (cardKey (s.thread t)).isSome).length

/-- A join register of a gang after a repack, rebuilt from the state before it (R46) (DEDUCED, log 35). -/
def rebuilt (s0 s : State) (donor g n : Nat) : Join :=
  let held := (List.range (s.gang g).width).filterMap fun p => (nth (s.gang g).at_ p none).map fun t => (p, t)
  let e := maskOf ((held.filter fun h => oldBit s0 n h.2 (·.expected)).map (·.1))
  let a := maskOf ((held.filter fun h => oldBit s0 n h.2 (·.arrived)).map (·.1))
  let old := joinOf s0 g n
  let gained := held.any fun h => (s0.thread h.2).gang != g
  let open_ := (bitList e 64).any fun p => !bit a p
  { old with st := if old.expected == 0 && !gained then old.st else if open_ then .opened else (joinOf s0 donor n).st, expected := e, arrived := a }

/-- Rebuilds a join; threads that wait at one that is no longer Open go on with its status (Table 2-7). -/
def rebuildJoin (s0 : State) (donor g : Nat) (s : State) (n : Nat) : State :=
  let j := rebuilt s0 s donor g n
  let s1 := setJoin s g n j
  if j.st = .opened then s1 else releaseJoin s1 g n (j.st != .abandoned)

/-- A gang with no thread, no tile handle and an empty trap queue is dissolved (R49) (DEDUCED, log 35). -/
def dissolve (s : State) (g : Nat) : State :=
  let x := s.gang g
  if (threadsOf x).isEmpty && x.h.toList.all Option.isNone && x.queue.isEmpty && x.raised.isEmpty then
    (removeGang s g).modTeam x.team fun t => { t with gangs := t.gangs.filter fun k => k != g }
  else s

/-- The repack of a team on one core (R44 to R49). -/
def repackOn (s : State) (gs : List Nat) : State :=
  let slots := cardSlots s gs
  let order := cardOrder s gs
  let out := (gs.flatMap fun g => threadsOf (s.gang g)).filter fun t => (s.thread t).run == .exited
  let donor := (leastBy (fun a b => decide (partsIn s b < partsIn s a)) gs).getD 0
  let s1 := ((List.range slots.length).zip slots).foldl (fun st p => fillSlot st p.2 (order[p.1]?)) s
  let s2 := { s1 with threads := s1.threads.filter fun e => !(out.contains e.1) }
  let s3 := gs.foldl (fun st g => (List.range (s.gang g).jcount).foldl (rebuildJoin s donor g) st) s2
  let s4 := order.foldl resume s3
  let s5 := gs.foldl (fun st g => settleTaccs (retestGang (settleJoins (retestItem st g) g) g) g) s4
  gs.foldl dissolve s5

/-- Repacks a team on each of its cores where the carder may. -/
def repackTeam (s : State) (team : Nat) : State :=
  if (s.team team).res ≠ .resident then s else
  (dedup (s.team team).cores).foldl (fun st c => let gs := gangsThere st team c; if mayRepack st gs then repackOn st gs else st) s

/-- The carder repacks the teams that are ready for it (R43). -/
def execRepack (s : State) : Host.Outcome State Fault Refusal :=
  .next ((s.teams.keys.filter (hasCards s)).foldl repackTeam s)

end Sys2Proof.Machine
end

