-- ==== Sys2Proof/Machine/Events.lean ====
section
/-! DEFINITION. What happens to accesses and traps between instructions: unperformed accesses are performed or fault (spec 03 R79,
R85, spec 04 R95, R96, spec 19 R452, R453), entries enter a gang's queue and are delivered (spec 18 R426 to R430), and
asynchronous causes are named (spec 19 R449). -/

namespace Sys2Proof.Machine

/-! ### Unperformed accesses -/

/-- An unperformed access may go on: it waits for no page and no miss entry, and its cause is not yet known. -/
def Access.free (a : Access) : Bool := a.page.isNone && !a.rejected && !a.faulted && a.kind != .hold

/-- An unperformed access may be performed before the thread's older ones (Table 4-2, R94). -/
def accessMayPass (s : State) (a : Access) : Bool :=
  match a.kind, keyNow s a.thread a.space a.addr a.kind.size with
  | .ldrl _ _, _ => (s.accsOf a.thread).all fun e => decide (a.seq ≤ e.2.seq)
  | _, some k => mayPass s a.thread a.seq k a.kind.size a.kind.isStore
  | _, none => true

/-- Retires the undo entries of a gang that wait for no unperformed access any more (R434). -/
def retireUndo (s : State) (gid : Nat) : State :=
  s.modGang gid fun g => { g with undo := g.undo.filter fun u => u.waits.any fun w => (s.accs.get? w).isSome }

/-- An access has been performed: its undo entries retire, and entries that waited for it may enter the queue. -/
def accessDone (s : State) (id : Nat) (a : Access) : State :=
  let gid := (s.thread a.thread).gang
  settleTraps (retireUndo { s with accs := s.accs.del id } gid) gid

/-- An unperformed access raises a cause (R426, R435): a thread in a handler is rolled back to it at once (R433). -/
def accessFault (s : State) (id : Nat) (a : Access) (f : Flt) : State :=
  let gid := (s.thread a.thread).gang
  let s1 := { s with accs := s.accs.mod id fun x => { x with faulted := true } }
  let s2 := if s.levelOf a.thread = .user ∧ !(s.isMgmt a.thread) then s1
    else if hasLogged (s.gang gid) a.thread then rollback s1 gid else rollbackThread s1 gid a.thread
  takeExceptions s2 [⟨a.thread, f.1, f.2⟩] a.pc a.pc a.seq

/-- An access meets a backed page: it waits, and the page is in transfer (R79). -/
def accessPaged (s : State) (id : Nat) (a : Access) (va : Nat) : State :=
  { s with accs := s.accs.mod id fun x => { x with page := some va } }.modCtx (s.ctxOf a.thread) fun c =>
    { c with transfer := if c.transfer.contains va then c.transfer else c.transfer ++ [va] }

/-- The halves of an access of 16 bytes, each single-copy atomic: what is performed now, and what is left for later with its
address (R93). -/
def halves (a : Access) (high : Bool) : Option ((Nat × AccKind) × Nat × AccKind) :=
  let two (lo hi : AccKind) := if high then ((a.addr + 8, hi), a.addr, lo) else ((a.addr, lo), a.addr + 8, hi)
  match a.kind with
  | .ldq d => some (two (.load 8 false d) (.load 8 false (d + 1)))
  | .store 16 v v2 => some (two (.store 8 v 0) (.store 8 v2 0))
  | _ => none

/-- What of an access is performed now: all of it, or one half of 16 bytes first, as the schedule says (R93)
(DESIGN CHOICE, log 4). -/
def partOf (s : State) (id : Nat) (a : Access) : State × Access × Bool :=
  match halves a false with
  | none => (s, a, false)
  | some _ =>
    let (c, s1) := s.choose 3
    match if c = 0 then none else halves a (c == 2) with
    | none => (s1, a, false)
    | some ((va, k), vb, k2) =>
      ({ s1 with accs := s1.accs.mod id fun x => { x with addr := vb, kind := k2 } }, { a with addr := va, kind := k }, true)

/-- The first half of an access has been performed; the other one is left. -/
def halfDone (s : State) (id : Nat) (a : Access) (half : Bool) : State := if half then s else accessDone s id a

/-- Performs an access, as far as its translation lets it (DESIGN CHOICE, log 4). One whose page-in failed takes the translation
cause (R453). -/
def performAccess (s0 : State) (id : Nat) (a0 : Access) : State :=
  if a0.failed then accessFault s0 id a0 (cTransl, pagedInfo a0.addr) else
  let (s, a, half) := partOf s0 id a0
  match a.kind with
  | .ldrl _ _ =>
    match performNow s a.thread a.space a.addr a.kind with
    | (s1, none) => accessDone s1 id a
    | (s1, some f) => accessFault s1 id a f
  | _ =>
    match resolve s a.thread a.space a.addr a.kind.size (if a.kind.isStore then .store else .load) with
    | (s1, .page va) => accessPaged { s1 with accs := s1.accs.mod id fun x => { x with addr := a0.addr, kind := a0.kind } } id a va
    | (s1, .bad f) => accessFault s1 id a f
    | (s1, .ok k) =>
      match performAt s1 a.thread a.kind k (globalVa s1 a.thread a.space a.addr) with
      | (s2, none) => halfDone s2 id a half
      | (s2, some f) => accessFault s2 id a f

/-- An unperformed access is performed (R95). -/
def execMemoryAccessPerformed (acc : Nat) (s : State) : Host.Outcome State Fault Refusal :=
  .next (match s.accs.get? acc with
    | none => s
    | some a => if a.free && teamRuns s a.thread && accessMayPass s a then performAccess s acc a else s)

/-- A walk for an unperformed access ends (R452): the core holds its translation, or the access faults or waits for its page. -/
def execWalkCompletion (acc : Nat) (s : State) : Host.Outcome State Fault Refusal :=
  .next (match s.accs.get? acc with
    | none => s
    | some a =>
      if !a.free || !teamRuns s a.thread then s else
      match resolve s a.thread a.space a.addr a.kind.size (if a.kind.isStore then .store else .load) with
      | (s1, .ok _) => s1
      | (s1, .page va) => accessPaged s1 acc a va
      | (s1, .bad f) => accessFault s1 acc a f)

/-- The accesses of a context that wait for a page. -/
def pageWaiters (s : State) (ctx va : Nat) : Tab Access := s.accs.filter fun e => e.2.page == some va && s.ctxOf e.2.thread == ctx

/-- The end of a page-in (R79, R453): the accesses that wait for it try their translation again, or take the translation
cause. -/
def execPageIn (ctx va : Nat) (readOk writeOk : Bool) (s : State) : Host.Outcome State Fault Refusal :=
  .next (if !(s.ctx ctx).transfer.contains va then s else
    let mine := pageWaiters s ctx va
    let (s1, ok) := pageInAt s ctx va readOk writeOk
    let s2 := endTransfer s1 ctx va ok
    if ok then s2 else mine.foldl (fun st e => accessFault st e.1 { e.2 with page := none } (cTransl, pagedInfo e.2.addr)) s2)

/-- Rejected accesses of a cluster are admitted in order while miss entries are free (R85). -/
def admitMisses (s : State) (cl : Nat) : Nat → State
  | 0 => s
  | fuel + 1 =>
    match (s.cluster cl).rejected with
    | [] => s
    | id :: rest =>
      if (s.accs.get? id).isNone then admitMisses (s.modCluster cl fun c => { c with rejected := rest }) cl fuel
      else if 512 ≤ missEntries s cl then s
      else admitMisses ({ s with accs := s.accs.mod id fun a => { a with rejected := false } }.modCluster cl fun c => { c with rejected := rest }) cl fuel

/-- Miss entries have been freed (R85). -/
def execMissEntryRetry (s : State) : Host.Outcome State Fault Refusal :=
  .next (s.clusters.keys.foldl (fun st cl => admitMisses st cl (st.cluster cl).rejected.length) s)

/-! ### The trap queue (R426, R427, R430) -/

/-- Entries of a gang enter its queue (R426). -/
def execTrapEntryQueue (gang : Nat) (s : State) : Host.Outcome State Fault Refusal := .next (queueRaised s gang)

/-- The head entry of a gang is delivered (R427, R430, R433) (DESIGN CHOICE, log 23). -/
def execTrapDelivery (gang : Nat) (s : State) : Host.Outcome State Fault Refusal := .next (deliverNested (deliverNext s gang) gang)

/-! ### Asynchronous causes (R449) -/

/-- A thread stands at an instruction boundary: it is in no group, waits for no wave of an open barrier, and has no post or tile
release under way (DEDUCED, log 35). -/
def atBoundary (s : State) (t : Nat) : Bool :=
  !(s.grp.threads.contains t) && !((s.grp2.map (·.threads)).getD []).contains t && match (s.thread t).run with
    | .blocked (.post _ _ _ _ _) => false
    | .blocked (.tfree _) => false
    | .blocked (.bar _) => !((s.teamOf t).waves.any fun w => w.2.contains (s.thread t).gang)
    | .exited => false
    | _ => true

/-- A thread can be named in an asynchronous entry now: no earlier entry names it (R425). -/
def mayName (s : State) (t : Nat) : Bool := !(s.thread t).held.isEmpty && !isNamed s t && atBoundary s t

/-- The held entry of a thread for a failure. -/
def heldFor (s : State) (t fail : Nat) : Option HeldAsync := (s.thread t).held.find? fun h => h.fail == fail

/-- The entries of one failure in a gang: one for each distinct address, in ascending order of their lowest position
(DEDUCED, log 35). -/
def asyncEntries (s : State) (h : HeldAsync) (ths : List Nat) : List Entry :=
  let pcs := dedup ((sortBy (fun a b => decide ((s.thread a).pos < (s.thread b).pos)) ths).map fun t => (s.thread t).pc)
  pcs.map fun pc =>
    let at_ := ths.filter fun t => (s.thread t).pc == pc
    { info := h.info, mask := maskOf (at_.map fun t => (s.thread t).pos), pc := pc, more := at_.any fun t => (heldFor s t h.fail).any (·.more),
      cause := h.cause, after := pc }

/-- Names the threads of a gang that one failure concerns, with rollback as R435 gives it. -/
def nameAsync (s : State) (gid : Nat) (h : HeldAsync) (ths : List Nat) : State :=
  let s1 := if ths.any (hasLogged (s.gang gid)) then rollback s gid else ths.foldl (fun st t => rollbackThread st gid t) s
  let s2 := match h.back with
    | some (pc, c) => s1.mapThreads ths fun _ x => { x with pc := pc, clause := c }
    | none => s1
  let es := asyncEntries s2 h ths
  let decs := ths.flatMap fun t => ((heldFor s2 t h.fail).map (·.decs)).getD []
  let s3 := s2.mapThreads ths fun _ x => { x with run := .blocked .trap, held := x.held.filter fun y => y.fail != h.fail }
  decFlags (s3.modGang gid fun g => { g with queue := g.queue ++ es }) decs

/-- An asynchronous cause of the management core (R522). -/
def mgmtAsync (s : State) (th : Nat) (h : HeldAsync) : State :=
  mgmtTrap (decFlags (s.modThread th fun x => { x with held := [] }) h.decs) ⟨th, h.cause, h.info⟩ (s.thread th).pc

/-- A held asynchronous entry of a thread enters the queue, for every thread of its gang that the same failure names (R449). -/
def execAsyncTrapEntry (th : Nat) (s : State) : Host.Outcome State Fault Refusal :=
  .next (match (s.thread th).held with
    | [] => s
    | h :: _ =>
      if (s.thread th).run = .exited then decFlags (s.modThread th fun x => { x with held := [] }) ((s.thread th).held.flatMap (·.decs))
      else if s.isMgmt th then mgmtAsync s th h
      else if !mayName s th then s
      else
        let gid := (s.thread th).gang
        let ths := (threadsOf (s.gang gid)).filter fun t => mayName s t && (heldFor s t h.fail).isSome
        settleTraps (nameAsync s gid h ths) gid)

end Sys2Proof.Machine
end

