-- ==== Sys2Proof/Machine/Fetch.lean ====
section
/-! DEFINITION. Fetching the code of an issue group (spec 11 R253 to R255, R257, R519): the clause header, prefixes and
instruction words, with the causes that a fetch raises. -/

namespace Sys2Proof.Machine

/-- A fetch of n bytes by one thread; a backed leaf is paged in first (R519, R79, R453). -/
def fetchFor (s : State) (t a n : Nat) : State × Except Flt Nat :=
  let read (s1 : State) (k : Nat) : State × Except Flt Nat :=
    match spoiledAt s1 k n with
    | some p => (s1, .error (cPoison, poisonInfo p.1))
    | none => (s1, .ok (readNat s1.mem.cells k n))
  match resolveNow s t .gl a n .fetch with
  | (s1, .ok k) => read s1 k
  | (s1, .error f) => (s1, .error f)

/-- What a fetch by several threads gave: the state, the faults, the threads that go on, and the value. -/
structure Fetched where
  (s : State) (fx : List Fx) (ok : List Nat) (val : Nat)

/-- A fetch of a halfword by every thread of the group. -/
def fetchAll (s : State) (a : Nat) : List Nat → Fetched
  | [] => ⟨s, [], [], 0⟩
  | t :: ts =>
    match fetchFor s t a 2 with
    | (s1, .ok v) => let r := fetchAll s1 a ts; { r with ok := t :: r.ok, val := v }
    | (s1, .error f) => let r := fetchAll s1 a ts; { r with fx := ⟨t, f.1, f.2⟩ :: r.fx }

/-- A cause of the whole group at the group's pc; nobody goes on. -/
def groupCause (s : State) (ths : List Nat) : State :=
  let s1 := { s with grp := Group.empty, sched := { s.sched with order := s.sched.order + 1 } }
  takeExceptions s1 (ths.map fun t => ⟨t, cEncoding, encodingInfo s t s.grp.pc⟩) s.grp.pc s.grp.pc s.sched.order

/-- Raises what the fetch of some threads met, and keeps the others in the group. -/
def keepFetched (r : Fetched) : State :=
  let s1 := { r.s with grp := if r.ok.isEmpty then Group.empty else { r.s.grp with threads := r.ok } }
  if r.fx.isEmpty then s1 else
  takeExceptions { s1 with sched := { s1.sched with order := s1.sched.order + 1 } } r.fx r.s.grp.pc r.s.grp.pc s1.sched.order

/-- A thread of the group whose fetch meets a backed leaf, and the page. -/
def pagedFetch (s : State) (a : Nat) : Option (Nat × Nat) :=
  s.grp.threads.findSome? fun t => match (resolve s t .gl a 2 .fetch).2 with
    | .page va => some (t, va)
    | _ => none

/-- A fetch that meets a backed leaf has the page brought in, and its group issues again; or its threads take the cause
(R79, R453, R519). -/
def fetchPage (s : State) (t va a : Nat) : State :=
  match pageThen s (s.ctxOf t) va a fun s3 => resolve s3 t .gl a 2 .fetch with
  | (s1, .ok _) => { s1 with grp := Group.empty }
  | (s1, .error f) => keepFetched ⟨s1, s.grp.threads.map fun x => ⟨x, f.1, f.2⟩, [], 0⟩

/-- A fetch of a halfword by the group: its value, or none when nobody goes on. -/
def groupHalf (s : State) (a : Nat) : State × Option Nat :=
  match pagedFetch s a with
  | some (t, va) => (fetchPage s t va a, none)
  | none =>
    let r := fetchAll s a s.grp.threads
    (keepFetched r, if r.ok.isEmpty then none else some r.val)

/-- A header breaks Table 11-1. -/
def headerBad (w : Nat) : Bool := bits w 31 29 != 0 || bits w 6 1 == 0 || !bit w 0

/-- The clause that a header at an address opens (Table 11-1). -/
def clauseOf (a w : Nat) : Clause := ⟨a, a + 4 + 2 * bits w 6 1, bits w 22 19, bits w 26 23, bits w 28 27, []⟩

/-- Opens a clause for the threads of the group, with its first instruction (R254); a wait for flags is an acquire (Table 4-3). -/
def openClause (s0 : State) (w : Nat) : State :=
  let s := if bits w 18 7 = 0 then s0 else acquire s0 (s0.grp.core / 16)
  let g := s.grp
  let s1 := s.mapThreads g.threads fun _ x => { x with clause := some (clauseOf g.pc w), pc := g.pc + 4 }
  { s1 with grp := { g with pc := g.pc + 4, cursor := g.pc + 4 } }

/-- The clause in force for the group. -/
def groupClause (s : State) : Option Clause :=
  match s.grp.threads with
  | t :: _ => (s.thread t).clause
  | [] => none

/-- The header stage: a group whose threads have no clause reads a header at its pc (R254). -/
def headerStage (s : State) : State :=
  match s.grp.threads, groupClause s with
  | [], _ => s
  | _, some _ => s
  | _, none =>
    match groupHalf s s.grp.pc with
    | (s1, none) => s1
    | (s1, some lo) =>
      match groupHalf s1 (s1.grp.pc + 2) with
      | (s2, none) => s2
      | (s2, some hi) =>
        let w := lo + 65536 * hi
        if headerBad w then groupCause s2 s2.grp.threads else openClause s2 w

/-- The word stage: reads the instruction at the cursor, as far as the clause's body reaches (R253, R255). -/
def wordStage (s : State) : State × Option Instr :=
  match s.grp.threads, groupClause s with
  | _ :: _, some c =>
    if c.fin < s.grp.cursor + 2 then (groupCause s s.grp.threads, none) else
    match groupHalf s s.grp.cursor with
    | (s1, none) => (s1, none)
    | (s1, some lo) =>
      if lengthOf lo = 2 then
        match decode16 lo with
        | some i => (s1, some i)
        | none => (groupCause s1 s1.grp.threads, none)
      else if c.fin < s1.grp.cursor + 4 then (groupCause s1 s1.grp.threads, none)
      else
        match groupHalf s1 (s1.grp.cursor + 2) with
        | (s2, none) => (s2, none)
        | (s2, some hi) =>
          match decode32 (lo + 65536 * hi) with
          | some i => (s2, some i)
          | none => (groupCause s2 s2.grp.threads, none)
  | _, _ => ({ s with grp := Group.empty }, none)

/-- Threads of a gang that have not Exited. -/
def liveThreads (s : State) (gid : Nat) : List Nat := (threadsOf (s.gang gid)).filter fun t => !((s.thread t).run == .exited)

/-- Counts a group for the divergence measure of its teams (R51). -/
def countGroup (s : State) : State :=
  let gs := gangsOf s s.grp.threads
  let teams := dedup (gs.map fun g => (s.gang g).team)
  teams.foldl (fun st tm =>
    let part := gs.any fun g => (s.gang g).team == tm && decide ((inGang s g s.grp.threads).length < (liveThreads s g).length)
    st.modTeam tm fun t => { t with groups := t.groups + 1, partialGroups := t.partialGroups + b2n part }) s

/-- The fetch of the group's next instruction: the state with the group ready to carry it, or without one. -/
def fetchNext (s : State) : State × Option Instr :=
  let s0 := if s.grp.started then s else countGroup { s with grp := { s.grp with started := true } }
  wordStage (headerStage s0)

end Sys2Proof.Machine
end

