-- ==== Sys2Proof/Machine/Prefix.lean ====
section
/-! DEFINITION. The prefixes of spec 11 R257: each is a halfword that the group reads before its instruction. -/

namespace Sys2Proof.Machine

/-- A prefix must be followed by something within the clause's body (R257). -/
def prefixFits (s : State) : Bool :=
  match groupClause s with
  | some c => decide (s.grp.cursor + 2 < c.fin)
  | none => true

/-- The guard prefix: names the predicate that guards the instruction (R257, R258). -/
def execGuardPrefix (neg : Bool) (p : Pred) (s : State) : Host.Outcome State Fault Refusal :=
  if s.grp.guard.isSome || !prefixFits s then .next (groupCause s s.grp.threads)
  else .next { s with grp := { s.grp with guard := some (neg, p), cursor := s.grp.cursor + 2 } }

/-- The mode prefix: the rounding mode and `.ftz` of the instruction (R257). -/
def execModePrefix (ftz : Bool) (m : RMode) (s : State) : Host.Outcome State Fault Refusal :=
  if s.grp.mode.isSome || !prefixFits s then .next (groupCause s s.grp.threads)
  else .next { s with grp := { s.grp with mode := some (ftz, m), cursor := s.grp.cursor + 2 } }

end Sys2Proof.Machine
end

