-- ==== Sys2Proof/Machine/Issue.lean ====
section
/-! DEFINITION. Issue selection (spec 02 R33 to R37, R26, spec 06 R153 to R155, R518, spec 10 R244): which threads are Ready, the key
that a core chooses, the groups of a slot, and their conflicts. -/

namespace Sys2Proof

/-- A release (Table 4-1, R107): it is performed only after the thread's stores to peer memory are acknowledged (R110). -/
def Instr.isRelease (i : Instr) : Bool :=
  i.counted.isSome || match i with
  | .stB8 o | .stB16 o | .stB32 o | .stB64 o => o.q != .plain
  | .stq o => o.q != .plain
  | .atom o | .ared o => o.ord == .rel || o.ord == .ar
  | .push _ | .thand _ | .mrd _ | .mwr _
  | .fenceRel | .fenceAr | .barG | .bobjArrive _ | .bobjExpect _ | .qpost _ | .permit _ | .rqend | .gunpin _ | .yield => true
  | _ => false

end Sys2Proof

namespace Sys2Proof.Machine

/-! ### What a thread would issue next -/

/-- What stands at a thread's program counter: the clause in force, with the flags to wait for at its header, and the
instruction with its guard; none of it where the fetch or the encoding raises a cause. -/
structure Peek where
  (clause : Clause) (wait : Nat) (guard : Bool) (len : Nat) (instr : Option Instr)
  deriving DecidableEq, Repr

/-- The instruction at an address behind its prefixes, with its guard and the bytes up to its end. -/
def peekInstr (s : State) (t a : Nat) (guard : Bool) (len : Nat) : Nat → Bool × Nat × Option Instr
  | 0 => (guard, len, none)
  | fuel + 1 =>
    let lo := peekHalf s t (a + len)
    if lengthOf lo = 2 then
      match decode16 lo with
      | some (.guardPrefix neg p) => peekInstr s t a (xor neg (s.pr t p.val)) (len + 2) fuel
      | some (.modePrefix _ _) => peekInstr s t a guard (len + 2) fuel
      | some i => (guard, len + 2, some i)
      | none => (guard, len + 2, none)
    else (guard, len + 4, decode32 (lo + 65536 * peekHalf s t (a + len + 2)))

/-- What a thread would issue next. -/
def peek (s : State) (t : Nat) : Peek :=
  let x := s.thread t
  match x.clause with
  | some c => let r := peekInstr s t x.pc true 0 3; ⟨c, 0, r.1, r.2.1, r.2.2⟩
  | none =>
    let w := peekHalf s t x.pc + 65536 * peekHalf s t (x.pc + 2)
    let r := peekInstr s t (x.pc + 4) true 0 3
    ⟨clauseOf x.pc w, if headerBad w then 0 else bits w 18 7, r.1, r.2.1, if headerBad w then none else r.2.2⟩

/-! ### Ready and Waiting (Table 2-5) -/

/-- Registers that the unperformed loads of a thread will write. -/
def pendingRegs (s : State) (t : Nat) : List Nat :=
  (s.accsOf t).flatMap fun e => match e.2.kind with
    | .load _ _ d => [d]
    | .ldq d => [d, d + 1]
    | .ldrl d _ => (List.range 4).map (d + ·)
    | .store _ _ _ | .hold => []

/-- Registers that an instruction reads. -/
def readRegs (u : Uses) : List Nat := u.rd.flatMap fun r => (List.range r.2.2).map (r.2.1 + ·)

/-- The operands of an instruction are available: no unperformed load will write a register that it reads or writes. -/
def operandsReady (s : State) (t : Nat) (i : Instr) : Bool :=
  let p := pendingRegs s t
  !((readRegs i.uses ++ written i.uses).any p.contains)

/-- The flag count of a counted instruction stays at 63 or below (R256). -/
def flagRoom (s : State) (t : Nat) (k : Peek) (i : Instr) : Bool :=
  match i.counted with
  | some b =>
    let f := if b then k.clause.setB else k.clause.setA
    !k.guard || decide (12 ≤ f) || decide (vget (s.thread t).f f 0 < 63)
  | none => true

/-- The undo entries that an instruction takes for a thread (R434). -/
def undoNeed (s : State) (t : Nat) (k : Peek) (i : Instr) : Nat :=
  let x := s.thread t
  let g : Group := { Group.empty with cursor := x.pc + (if x.clause.isSome then 0 else 4) + k.len - i.len }
  (changedRegs g i true (s.thread t).clause).length + i.uses.pw.length + i.uses.uw.length

/-- The undo log has room for what the hints of an access poison, when the access is left unperformed (R262, R434). -/
def hintRoom (s : State) (t : Nat) (k : Peek) (i : Instr) : Bool :=
  let x := s.thread t
  let g : Group := { Group.empty with cursor := x.pc + (if x.clause.isSome then 0 else 4) + k.len - i.len }
  i.port != some .memory || i.stops || decide ((s.gangOf t).undo.length + (hintedRegs g i true x.clause).length ≤ 16)

/-- Run-ahead lets a thread issue (R434): nothing is unperformed for it but an access that issues again with the entry kept for it
(R85), or the instruction may pass and the log has room. A gang whose log is full stops (R95). -/
def runAheadOk (s : State) (t : Nat) (k : Peek) (i : Instr) : Bool :=
  if 16 ≤ (s.gangOf t).undo.length then false
  else if (s.accsOf t).all fun e => e.2.kind == .hold && !e.2.rejected then hintRoom s t k i
  else if i.stops then false
  else
    let n := undoNeed s t k i
    let gid := (s.thread t).gang
    if 16 < n then !(s.accs.any fun e => (s.thread e.2.thread).gang == gid) else decide ((s.gang gid).undo.length + n ≤ 16)

/-- A release waits for the acknowledgements of the thread's stores to peer memory (R110). -/
def acksReady (s : State) (t : Nat) (i : Instr) : Bool := !i.isRelease || !(s.mgmt.peerStores.any fun e => e.2.thread == t)

/-- The flags that a header waits for are zero (R254). -/
def waitClear (x : Thread) (mask : Nat) : Bool := (bitList mask 12).all fun n => vget x.f n 0 == 0

/-- A thread's next instruction may issue (Table 2-5). One whose fetch or decoding raises a cause issues, to raise it. -/
def canIssue (s : State) (t : Nat) (k : Peek) : Bool :=
  waitClear (s.thread t) k.wait && match k.instr with
    | some i => operandsReady s t i && flagRoom s t k i && runAheadOk s t k i && acksReady s t i
    | none => true

/-- Threads of a core that hold no stall of Table 2-5 but those of their next instruction: not Blocked, in a resident team, and
not held by a handler (R427) (DEDUCED, log 21). -/
def runningOn (s : State) (core : Nat) : List Nat :=
  (s.threads.filter fun e =>
    let x := s.thread e.1
    let g := s.gang x.gang
    x.run == .ready && g.core == core && (s.team g.team).res == .resident && !heldByHandler g e.1).map (·.1)

/-! ### Keys (R34, R153, R154) -/

/-- A Ready thread as the issue stage sees it. -/
structure Cand where
  (t : Nat) (lane : Nat) (slot : Nat) (ctx : Nat) (pc : Nat) (open_ : Option Clause) (cls : Nat) (since : Nat) (policy : Nat) (instr : Option Instr)
  deriving DecidableEq, Repr

/-- The candidate of a thread (DEDUCED, log 21). -/
def candOf (s : State) (t : Nat) (k : Peek) : Cand :=
  let x := s.thread t
  { t := t, lane := s.laneOf t, slot := nth (s.gangOf t).slots x.pos 0, ctx := s.ctxOf t, pc := x.pc, open_ := x.clause, cls := (teamClass s (s.teamOf t)).1,
    since := x.since, policy := k.clause.policy, instr := k.instr }

/-- Two candidates have one key: context and program counter (R34). -/
def Cand.sameKey (a b : Cand) : Bool := a.ctx == b.ctx && a.pc == b.pc

/-- Two candidates stand in one clause, or both at a header: one fetch serves them (DEDUCED, log 25). -/
def Cand.sameClause (a b : Cand) : Bool := a.open_.map (fun c => (c.hdr, c.fin)) == b.open_.map (fun c => (c.hdr, c.fin))

/-- A key: its candidates, of which there is one at least. -/
structure Key where
  (head : Cand) (all : List Cand)
  deriving DecidableEq, Repr

/-- The keys of some candidates, the fuel being their number (DEDUCED, log 25). -/
def keysOf : Nat → List Cand → List Key
  | 0, _ => []
  | _, [] => []
  | fuel + 1, c :: cs => ⟨c, c :: cs.filter c.sameKey⟩ :: keysOf fuel (cs.filter fun x => !c.sameKey x)

/-- Ready time of a key's oldest thread. -/
def Key.oldest (k : Key) : Nat := k.all.foldl (fun a c => min a c.since) k.head.since
/-- Highest class of a key's threads. -/
def Key.cls (k : Key) : Nat := k.all.foldl (fun a c => max a c.cls) 0
/-- Distinct lanes of a key. -/
def Key.lanes (k : Key) : Nat := (dedup (k.all.map (·.lane))).length
/-- Width of a key, as a lead policy adjusts it (R154). -/
def Key.width (k : Key) : Nat := if k.head.policy = 2 then 64 else k.lanes
/-- A gather key is passed over (R154). -/
def Key.gathers (k : Key) (now : Nat) : Bool := k.head.policy == 1 && decide (k.lanes < 16) && decide (now < k.oldest + 64)

/-- The order of ties: the oldest Ready thread, then the lower context and program counter (R153, step 3). -/
def Key.older (a b : Key) : Bool :=
  decide (a.oldest < b.oldest) || (a.oldest == b.oldest &&
    (decide (a.head.ctx < b.head.ctx) || (a.head.ctx == b.head.ctx && decide (a.head.pc < b.head.pc))))

/-- The order of R153, steps 2 and 3, among keys of one class. -/
def Key.before (a b : Key) : Bool := decide (b.width < a.width) || (a.width == b.width && a.older b)

/-- The key that the issue stage chooses (R153) (DEDUCED, log 25). Where every Ready key is a gather key that would be passed over,
and there are several, the choice falls among all of them (DESIGN CHOICE, log 59). -/
def chooseKey (now : Nat) (l : List Cand) : Option Key :=
  let ks := keysOf l.length l
  let old := ks.filter fun k => decide (k.oldest + 512 ≤ now)
  match leastBy Key.older old with
  | some k => some k
  | none =>
    let open_ := ks.filter fun k => !k.gathers now
    let ks1 := if open_.isEmpty then ks else open_
    let top := ks1.foldl (fun a k => max a k.cls) 0
    leastBy Key.before (ks1.filter fun k => k.cls == top)

/-! ### Groups (R35, R26) -/

/-- The candidate of a lane that a group takes: Ready longest, then in the lower slot. -/
def laneCand (k : Key) (lane : Nat) : Option Cand :=
  leastBy (fun (a b : Cand) => decide (a.since < b.since) || (a.since == b.since && decide (a.slot < b.slot))) (k.all.filter fun c => c.lane == lane)

/-- The candidates of a key that one fetch serves: those in the clause of the thread that has been Ready longest
(DEDUCED, log 25). -/
def Key.served (k : Key) : Key :=
  match leastBy (fun (a b : Cand) => decide (a.since < b.since) || (a.since == b.since && decide (a.lane < b.lane))) k.all with
  | some c => { k with all := k.all.filter c.sameClause }
  | none => k

/-- The threads of a key's group, in ascending lane; a uniform instruction takes those of four gangs at most
(DEDUCED, log 25). -/
def groupOf (s : State) (k : Key) : List Cand :=
  let l := (List.range 64).filterMap (laneCand k.served)
  if k.head.instr.any (·.uniform) then
    let gs := (dedup (l.map fun c => (s.thread c.t).gang)).take 4
    l.filter fun c => gs.contains (s.thread c.t).gang
  else l

/-! ### Dual issue (R155, R518) -/

/-- Reads of one bank of registers (R155). -/
def bankReads (i : Option Instr) (b : Nat) : Nat := ((i.map fun x => readRegs x.uses).getD []).filter (fun r => r % 4 == b) |>.length

/-- Two groups conflict: on an engine port, or in some lane, where they read more than two operands between them from one
register bank (R155). -/
def conflict (a b : List Cand) : Bool :=
  let ia := (a.head?).bind (·.instr)
  let ib := (b.head?).bind (·.instr)
  let pa := ia.bind (·.port)
  let reads (l : List Cand) (i : Option Instr) (lane k : Nat) := if l.any fun c => c.lane == lane then bankReads i k else 0
  (pa.isSome && pa == ib.bind (·.port)) ||
    (dedup ((a ++ b).map (·.lane))).any fun lane => (List.range 4).any fun k => decide (2 < reads a ia lane k + reads b ib lane k)

/-- Ready time of a group's oldest thread. -/
def oldestOf (l : List Cand) : Nat := l.foldl (fun a c => min a c.since) ((l.head?.map (·.since)).getD 0)

/-- The group as it is carried. -/
def carried (core : Nat) (l : List Cand) : Group :=
  let pc := (l.head?.map (·.pc)).getD 0
  { Group.empty with core := core, threads := l.map (·.t), pc := pc, cursor := pc }

/-- Counts the slot for each context whose threads it carries (R248). -/
def countSlot (s : State) (core : Nat) (l : List Cand) : State :=
  let ctxs := dedup (l.map fun c => s.ctxOf c.t)
  s.modCluster (core / 16) fun c => { c with slots := ctxs.foldl (fun m x => m.set x (m.getD x 0 + 1)) c.slots }

/-- Sets the groups of a slot. -/
def setGroups (s : State) (core : Nat) (a : List Cand) (b : Option (List Cand)) (slid : List Cand) : State :=
  let s1 : State := { s with grp := carried core a, grp2 := b.map (carried core) }
  (countSlot s1 core (a ++ b.getD [])).modCore core fun c => { c with slid := slid.map fun (x : Cand) => x.t }

/-- The groups of one slot, of two at most (R153, R155). Of two conflicting groups whose oldest threads have been Ready equally
long, the one chosen first issues (DESIGN CHOICE, log 59). -/
def selectGroups (s : State) (core now rate : Nat) (l : List Cand) : State :=
  let kept := l.filter fun c => (s.core core).slid.contains c.t
  let first := if kept.isEmpty then ((chooseKey now l).map (groupOf s)).getD [] else sortBy (fun (a b : Cand) => decide (a.lane < b.lane)) kept
  if first.isEmpty then s.modCore core fun c => { c with slid := [] } else
  let left := l.filter fun c => !(first.any fun x => x.t == c.t)
  match (if rate = 2 then (chooseKey now left).map (groupOf s) else none) with
  | none => setGroups s core first none []
  | some second =>
    if !conflict first second then setGroups s core first (some second) []
    else if kept.isEmpty && decide (oldestOf second < oldestOf first) then setGroups s core second none first
    else setGroups s core first none second

/-- The cluster issues nothing in THROTTLE of every 8 front cycles, and at half lane rate in every second one (R37, Table 10-3). -/
def slotOpen (c : Cluster) (now : Nat) : Bool := decide (c.throttle ≤ now % 8) && (c.cur != 0 || now % 2 == 0)

/-- Issue selection of a core in one front cycle (R153 to R155). The Ready time of a thread that stalls counts from the end of
the stall. -/
def execIssueSelection (core : Nat) (s : State) : Host.Outcome State Fault Refusal :=
  .next (
    let now := s.nowAt core
    let l := (runningOn s core).map fun t => (t, peek s t)
    let stalled := (l.filter fun p => !canIssue s p.1 p.2).map (·.1)
    let ready := (l.filter fun p => canIssue s p.1 p.2 && decide ((s.thread p.1).since ≤ now)).map fun p => candOf s p.1 p.2
    let s1 := if stalled.isEmpty then s else s.mapThreads stalled fun _ x => { x with since := max x.since (now + 1) }
    let c := s.cluster (core / 16)
    if slotOpen c now then selectGroups s1 core now c.cur ready else s1)

/-- The threads of the second group of a slot that still may issue once the first has. -/
def stillReady (s : State) (g : Group) : Group :=
  let on := runningOn s g.core
  { g with threads := g.threads.filter on.contains }

end Sys2Proof.Machine
end

