-- ==== Sys2Proof/Machine/Host.lean ====
section
/-! DEFINITION. What reaches the device from outside: host and peer writes, reads and atomics, host snoops (spec 04 R109, R110,
spec 09 R226 to R231), the mailbox's doorbell (R233), peer acknowledgements (R458, R463), links (spec 21 R487 to R489), and ECC
errors (spec 19 R454 to R457). -/

namespace Sys2Proof.Machine

/-! ### Inbound writes -/

/-- Numbers of the 256-byte blocks that n bytes touch. -/
def blocksOf (k n : Nat) : List Nat := (List.range ((k + n - 1) / 256 + 1 - k / 256)).map (k / 256 + ·)

/-- A write that meets metadata that cannot be corrected poisons the block, and the device logs it (R456). -/
def mergeBlock (s : State) (b : Nat) : State :=
  if s.mem.blockCode.getD b 0 = 16 then
    logErr (s.setMem (setPoison { s.mem with blockCode := s.mem.blockCode.set b 15 } (256 * b) 256)) 2 cPoison (channelOf s.mgmt (256 * b)) 0 (256 * b) 3
  else s

/-- A write from the host or a peer into device memory (R90, R109, R231): performed at the slice, then counted by the windows;
a write that carries poison poisons the blocks it touches and is logged (R488). -/
def inboundWrite (s : State) (pa : Nat) (bs : List Byte) (poisoned : Bool) : State :=
  if bs.isEmpty || decide (2 ^ 48 < pa + bs.length) then s else
  let s1 := (blocksOf pa bs.length).foldl mergeBlock (writeAt s pa bs)
  let s2 := if poisoned then
      logErr (s1.setMem ((blocksOf pa bs.length).foldl (fun m b => setPoison m (256 * b) 256) s1.mem)) 6 4 0xFF 0 pa 0
    else s1
  countWrite s2 pa bs.length

/-- A posted write that arrives at a windowed range (R231). -/
def execSensorWrite (pa : Nat) (data : List Byte) (s : State) : Host.Outcome State Fault Refusal := .next (inboundWrite s pa data false)

/-! ### BAR0 (R226, R233) -/

/-- Bytes of BAR0. -/
def barSize : Nat := 0x4000

/-- The event of a Scaiq command, by its OPCODE and the request's direction and SUB fields (Table 9-6). -/
def commandOf (op : Nat) (b : List Byte) : Instr :=
  match op with
  | 0x0001 => .ctxCreate
  | 0x0002 => .ctxDestroy
  | 0x0003 => .queueCreate
  | 0x0004 => .queueDestroy
  | 0x0005 =>
    match byteField b 8 1 with
    | 1 => .mapInvalidate
    | 2 => .mapBankmode
    | 3 => .mapMemoTable
    | _ => .mapEntry
  | 0x0006 => .codebook
  | 0x0007 => .memoMode
  | 0x0008 => .powerLimit
  | 0x0009 => .health
  | 0x000A => if byteField b 0 1 = 1 then .startRecordReplace else .startRecordRead
  | 0x000B => .preempt
  | 0x000C => .sensorWin
  | 0x000D => .peer
  | 0x000E => .paging
  | 0x000F => .errlog
  | _ => .badopc

/-- The event of the command in progress. -/
def Mgmt.command (m : Mgmt) : Instr := commandOf (m.mbxCmd.toNat % 2 ^ 16) m.cmdIn

/-- A write of MBX.CMD: the doorbell (R233). One that finds BUSY set is dropped and sets OVERRUN (DEDUCED, log 44). -/
def ringDoorbell (s : State) (v : Nat) : State :=
  if s.mgmt.mbxStatus.getLsbD 0 then s.modMgmt fun m => { m with mbxStatus := m.mbxStatus ||| 2 } else
  let cmd := bits v 63 32 * 2 ^ 32 + v % 2 ^ 16
  let s1 := s.modMgmt fun m =>
    { m with mbxCmd := wordOf cmd, mbxStatus := m.mbxStatus ||| 1, cmdStarted := false,
             cmdIn := readCells s.mem.cells (mailKey 0x1000) (min 4096 (bits v 47 32)) }
  s1.push [s1.mgmt.command]

/-- A register's 8 bytes with some of them written (DEDUCED, log 44). -/
def mergeReg (old : Nat) (base off : Nat) (bs : List Byte) : Nat :=
  natOfBytes ((List.range 8).map fun i =>
    if off ≤ base + i ∧ base + i < off + bs.length then nth bs (base + i - off) 0 else BitVec.ofNat 8 (old / 256 ^ i))

/-- n bytes at an offset touch the 8 bytes of a register. -/
def touchesReg (base off n : Nat) : Bool := decide (off < base + 8 ∧ base < off + n)

/-- A host write to BAR0 (Table 9-5): the request bytes, the W1C bit of MBX.STATUS, and the doorbell last
(DEDUCED, log 44). -/
def barWrite (s : State) (off : Nat) (bs : List Byte) : State :=
  let inBytes := ((List.range bs.length).map fun i => (off + i, nth bs i 0)).filter fun p => decide (0x1000 ≤ p.1 ∧ p.1 < 0x2000)
  let s1 := s.setMem { s.mem with cells := inBytes.foldl (fun m p => writeCell (mailKey p.1) p.2 m) s.mem.cells }
  let s2 := if touchesReg 8 off bs.length && bit (mergeReg 0 8 off bs) 1 then s1.modMgmt fun m => { m with mbxStatus := m.mbxStatus &&& ~~~2 } else s1
  if touchesReg 0 off bs.length then ringDoorbell s2 (mergeReg s2.mgmt.mbxCmd.toNat 0 off bs) else s2

/-- A byte of BAR0 as the host reads it. -/
def barByte (s : State) (off : Nat) : Byte :=
  let of_ (v base : Nat) : Byte := BitVec.ofNat 8 (v / 256 ^ (off - base))
  if off < 8 then of_ s.mgmt.mbxCmd.toNat 0
  else if off < 16 then of_ s.mgmt.mbxStatus.toNat 8
  else if 0x1000 ≤ off ∧ off < 0x3000 then readCell (mailKey off) s.mem.cells
  else if 0x3000 ≤ off ∧ off < 0x3008 then of_ (s.mgmt.energy % 2 ^ 32) 0x3000
  else if 0x3008 ≤ off ∧ off < 0x3010 then of_ s.mgmt.latchHost 0x3008
  else 0

/-- The host link carries requests: it is up and no emergency has stopped the clocks (R487, R495). -/
def linkServes (s : State) : Bool := s.mgmt.linkUp && s.clk.stopped.isNone && !s.clk.shut

/-- The peer port through which a request comes: the addresses of a peer behind port p stand from 2^60 (p + 1) on, the host's
below (R229) (DESIGN CHOICE, log 23). -/
def fromPort (pa : Nat) : Option Nat := if isPeer pa then some (portOf pa) else none

/-- A request arrives: the host's over its link, a peer's over its own port (R229, R487, R489). -/
def arrives (s : State) (pa : Nat) : Bool :=
  match fromPort pa with
  | some p => nth s.mgmt.ports p true && s.clk.stopped.isNone && !s.clk.shut
  | none => linkServes s

/-- The device address of a request. -/
def inboundAddr (pa : Nat) : Nat := if isPeer pa then pa % 2 ^ 60 else pa

/-- A write of the host or a peer (R109, R229), to device memory or, by the host, to BAR0; the keys from 2^67 on are BAR0's. -/
def execHostWrite (pa : Nat) (data : List Byte) (poisoned : Bool) (s : State) : Host.Outcome State Fault Refusal :=
  .next (if 2 ^ 67 ≤ pa then (if linkServes s && decide (pa + data.length ≤ 2 ^ 67 + barSize) then barWrite s (pa - 2 ^ 67) data else s)
    else if arrives s pa then inboundWrite s (inboundAddr pa) data poisoned else s)

/-- What a read returns is kept for the outside (R488). -/
def setReply (s : State) (bs : List Byte) (bad : Bool) : State := s.modMgmt fun m => { m with reply := bs, replyBad := bad }

/-- A host read (R226, R488): bytes of BAR0, where a read of ENERGY_LO latches (R247), or of device memory, marked when they
are poisoned. -/
def execHostRead (pa n : Nat) (s : State) : Host.Outcome State Fault Refusal :=
  .next (if !arrives s pa then s
    else if 2 ^ 67 ≤ pa then
      let off := pa - 2 ^ 67
      let s1 := if touchesReg 0x3000 off n then (readEnergyLo s true).1 else s
      setReply s1 ((List.range n).map fun i => barByte s1 (off + i)) false
    else let a := inboundAddr pa
      if 2 ^ 48 < a + n then s else setReply s (readCells s.mem.cells a n) (spoiledAt s a n).isSome)

/-- The new value of a PCIe AtomicOp (Table 9-3). -/
def hostAtomNew (op : HostAtom) (old v c : Nat) : Nat :=
  match op with
  | .fetchAdd => (old + v) % 2 ^ 64
  | .swap => v
  | .cas => if old = c then v else old

/-- A PCIe AtomicOp on device memory, performed at the slice (R99, R226); on poisoned data it writes nothing (R455). -/
def hostAtomicAt (s : State) (op : HostAtom) (a : Nat) (v c : Word) : State :=
  let old := readNat s.mem.cells a 8
  if (spoiledAt s a 8).isSome then setReply s (bytesOfNat old 8) true else
  setReply (mergeBlock (writeAt s a (bytesOfNat (hostAtomNew op old v.toNat c.toNat) 8)) (a / 256)) (bytesOfNat old 8) false

/-- A PCIe AtomicOp of the host, or of a peer through its own port (R226, R229). -/
def execHostAtomic (op : HostAtom) (pa : Nat) (v c : Word) (s : State) : Host.Outcome State Fault Refusal :=
  let a := inboundAddr pa
  .next (if !arrives s pa || decide (a % 8 ≠ 0) || decide (2 ^ 48 < a + 8) then s else hostAtomicAt s op a v c)

/-- The host changes or takes bytes of its own memory, and its snoop is served by the slice (R110, R227): a cluster that owns
words of them releases them, and waits on them are tested again. Without a link no snoop arrives. -/
def execHostSnoop (ha : Nat) (data : List Byte) (s : State) : Host.Outcome State Fault Refusal :=
  let k := hostKey ha
  let m := disown { s.mem with cells := writeCells s.mem.cells k data } k (max 1 data.length)
  .next (if s.mgmt.linkUp then notify (s.setMem m) k else s.setMem m)

/-! ### Peer acknowledgements -/

/-- Forgets a store that waited for a peer. -/
def forgetPeer (s : State) (id : Nat) : State := s.modMgmt fun m => { m with peerStores := m.peerStores.del id }

/-- A peer has answered a store of a grid's thread: the grid may have waited for it (R140). -/
def dropPeer (s : State) (id : Nat) (p : PeerStore) : State := tryCompleteGrid (forgetPeer s id) p.grid

/-- A peer acknowledges a store, or reports an error of it (R110, R458) (DESIGN CHOICE, log 23). -/
def execPeerAck (acc : Nat) (ok : Bool) (s : State) : Host.Outcome State Fault Refusal :=
  .next (match s.mgmt.peerStores.get? acc with
    | none => s
    | some p => if ok then dropPeer s acc p else dropPeer (failPeer s acc p) acc p)

/-- Fabric front cycles within which an acknowledgement returns (R463). -/
def ackLimit : Nat := 2 ^ 24

/-- Stores whose acknowledgement is overdue: each is fatal to its context (R463). -/
def execPeerAckTimeout (s : State) : Host.Outcome State Fault Refusal :=
  .next ((s.mgmt.peerStores.filter fun e => decide (e.2.since + ackLimit ≤ s.clk.fabric)).foldl
    (fun st e => if (st.mgmt.peerStores.get? e.1).isSome then forgetPeer (forcedReset st e.2.ctx 4 (st.teamOf e.2.thread).idx) e.1 else st) s)

/-- A write that comes through a peer port and has not been performed. -/
def isFromPort (port : Nat) : Instr → Bool
  | .hostWrite pa _ _ => fromPort pa == some port
  | _ => false

/-- A peer port goes down: the acknowledgements outstanding on it return as errors (R489). -/
def execPeerPortDown (port : Nat) (s : State) : Host.Outcome State Fault Refusal :=
  .next ((s.mgmt.peerStores.filter fun e => e.2.port == port).foldl (fun st e => dropPeer (failPeer st e.1 e.2) e.1 e.2)
    { (s.modMgmt fun m => { m with ports := m.ports.set port false }) with sched := { s.sched with agenda := s.sched.agenda.filter fun i => !isFromPort port i } })

/-- A peer port trains again (R489). -/
def execPeerPortUp (port : Nat) (s : State) : Host.Outcome State Fault Refusal :=
  .next (s.modMgmt fun m => { m with ports := m.ports.set port true })

/-! ### The host link (R487) -/

/-- Bytes of the words of a host line that a cluster owned when the link went down: their write-back is discarded, and what
host memory holds for them is open (DESIGN CHOICE, log 6) (DEDUCED, log 44). -/
def loseWord (s : State) (k : Nat) : State :=
  let (n, s1) := s.draw
  s1.setMem { s1.mem with cells := writeCells s1.mem.cells k (bytesOfNat (Config.free n) 4) }

/-- A host line is dropped. -/
def loseLine (s : State) (e : Nat × List (Nat × Nat)) : State :=
  let words := (List.range 32).filter fun w => e.2.any fun o => bit o.2 w
  let s1 := words.foldl (fun st w => loseWord st (128 * e.1 + 4 * w)) (logErr s 6 5 0xFF 0 (128 * e.1 / 256 * 256 % 2 ^ 48) 0)
  s1.setMem { s1.mem with registry := s1.mem.registry.del e.1 }

/-- An inbound write of the host that has not been performed; a peer's comes through its own port. -/
def isInbound : Instr → Bool
  | .hostWrite pa _ _ => (fromPort pa).isNone
  | .sensorWrite _ _ => true
  | _ => false

/-- The host link goes down: host lines are dropped and inbound writes lost. -/
def execHostLinkDown (s : State) : Host.Outcome State Fault Refusal :=
  .next (
    let lines := s.mem.registry.filter fun e => isHost (128 * e.1)
    let s1 := lines.foldl loseLine (logErr s 6 2 0xFF 0 0 0)
    { (s1.modMgmt fun m => { m with linkUp := false }) with sched := { s1.sched with agenda := s1.sched.agenda.filter fun i => !isInbound i } })

/-- The host link comes up, with no host lines cached. -/
def execHostLinkUp (s : State) : Host.Outcome State Fault Refusal :=
  .next (
    let s1 := (logErr s 6 3 0xFF 0 0 0).modMgmt fun m => { m with linkUp := true }
    { s1 with clusters := s1.clusters.map fun e => (e.1, { e.2 with copies := e.2.copies.filter fun c => !isHost c.1 }) })

/-- A change of speed or width during operation (R487). -/
def execLinkSpeedChange (rate width : Nat) (s : State) : Host.Outcome State Fault Refusal :=
  .next ((logErr s 6 1 0xFF 0 0 0).modMgmt fun m => { m with linkRate := rate, linkWidth := width })

/-! ### ECC (R454, R456, R457, R463, R480) -/

/-- Poisons a range and logs it: channel, slice, cluster or core as the unit. -/
def poisonLogged (s : State) (unit k n a : Nat) : State := logErr (s.setMem (setPoison s.mem k n)) 2 cPoison unit 0 a 3

/-- Sets or ends the self-test mode of a cluster's cores. -/
def selfTesting (s : State) (cl : Nat) (on : Bool) : State :=
  ((List.range 16).map (16 * cl + ·)).foldl (fun st c => st.modCore c fun k => { k with selfTest := on }) s

/-- What an uncorrectable error does at its site (DEDUCED, log 44) (DEDUCED, log 52). -/
def spoilSite (s : State) : EccSite → State
  | .device pa =>
    let b := pa % 2 ^ 48 / 256
    let s1 := if (s.mem.blockCode.get? b).isSome then s.setMem { s.mem with blockCode := s.mem.blockCode.set b 15 } else s
    poisonLogged s1 (channelOf s.mgmt (256 * b)) (256 * b) 256 (256 * b)
  | .line pa => let a := pa % 2 ^ 49 / 128 * 128; poisonLogged s (sliceOf s.mgmt a) a 128 (a % 2 ^ 48)
  | .granule cl off =>
    let k := sramKey (cl % 18) (off % 2 ^ 23 / 2 ^ 18) (off % 2 ^ 18 / 16 * 16)
    poisonLogged s (cl % 18) k 16 (k % 2 ^ 28)
  | .chunk core c => poisonLogged s (core % 288 / 16) (tileKey (core % 288) (c % 512) 0) 512 (c % 512)
  | .registry pa => s.setMem { s.mem with registry := s.mem.registry.del (pa / 128) }
  | .queueDesc q =>
    match s.queues.get? q with
    | some x => forcedReset s x.ctx 4 0
    | none => s
  | .memoWay cl t e => s.modCluster cl fun c =>
      { c with memo := c.memo.map fun x => if x.table = t ∧ x.slot = e then { x with parity := Nat.xor x.parity 1 } else x }
  | .metadata pa => s.setMem { s.mem with blockCode := s.mem.blockCode.set (pa % 2 ^ 48 / 256) 16 }

/-- The cluster in which a site lies, if it lies in one. -/
def siteCluster : EccSite → Option Nat
  | .granule cl _ => some (cl % 18)
  | .chunk core _ => some (core % 288 / 16)
  | .memoWay cl _ _ => some (cl % 18)
  | _ => none

/-- An uncorrectable error: its effect, and the recovery of the cluster in which it lies, in self-test mode (R368). -/
def uncorrectable (s : State) (e : EccSite) : State :=
  match siteCluster e with
  | some cl => selfTesting (spoilSite s e) cl true
  | none => spoilSite s e

/-- An ECC error: a corrected one is counted, and has no other effect (R454, R484) (DEDUCED, log 52). -/
def execEccError (site : EccSite) (corrected : Bool) (s : State) : Host.Outcome State Fault Refusal :=
  .next (if corrected then s.modMgmt fun m => { m with ceCount := min (2 ^ 64 - 1) (m.ceCount + 1) } else uncorrectable s site)

end Sys2Proof.Machine
end

