-- ==== Sys2Proof/Machine/Power.lean ====
section
/-! DEFINITION. The error log's appends and their messages (spec 21 R483, R484), the thermal pass, emergency and shut-down
(R494 to R497), the governor and the energy registers (spec 10 R246 to R248). -/

namespace Sys2Proof.Machine

/-! ### The error log -/

/-- Signals an MSI-X vector; it is lost while the host link is down (R226, R487) (DESIGN CHOICE, log 51). -/
def signal (s : State) (vector : Nat) : State := if s.mgmt.linkUp then s.modMgmt fun m => { m with msi := m.msi ++ [vector] } else s

/-- The bytes of an entry (Table 21-1): word 0, TIME, DETAIL1, DETAIL2. -/
def logEntry (w0 time details : Nat) : List Byte := bytesOfNat w0 8 ++ bytesOfNat time 8 ++ bytesOfNat details 16

/-- Always-on periods in the microsecond after a vector-1 message (R484). -/
def msiWindow : Nat := 100

/-- Sends a vector-1 message now (DESIGN CHOICE, log 51). -/
def sendVector1 (s : State) : State := (signal s 1).modMgmt fun m => { m with msiTimer := some s.clk.ao, msiPending := false }

/-- The message of an append: at once, or when the microsecond of the last one ends (R484). -/
def announce (s : State) : State :=
  match s.mgmt.msiTimer with
  | some t => if s.clk.ao < t + msiWindow then s.modMgmt fun m => { m with msiPending := true } else sendVector1 s
  | none => sendVector1 s

/-- Applies the first append that has arrived (R484). -/
def execErrlogAppend (s : State) : Host.Outcome State Fault Refusal :=
  .next (match s.mgmt.errPending with
    | [] => s
    | e :: rest =>
      let at_ := mgmtKey (0x8000 + 32 * (s.mgmt.errWidx % 1024))
      let s1 := s.setMem { s.mem with cells := writeCells s.mem.cells at_ (logEntry e.1 s.clk.ao e.2) }
      announce (s1.modMgmt fun m => { m with errPending := rest, errWidx := m.errWidx + 1 }))

/-- The microsecond after a message ends: one further message is sent if an entry was appended in it (R484). -/
def execMsixVector1Timer (s : State) : Host.Outcome State Fault Refusal :=
  .next (match s.mgmt.msiTimer with
    | none => s
    | some t =>
      if s.clk.ao < t + msiWindow then s
      else if s.mgmt.msiPending then sendVector1 s else s.modMgmt fun m => { m with msiTimer := none })

/-! ### Thermal protection -/

/-- The thresholds of THERM.CTL (Table 21-4). -/
def emergOf (m : Mgmt) : Nat := bits m.thermCtl.toNat 41 32
def releaseOf (m : Mgmt) : Nat := bits m.thermCtl.toNat 25 16
def alertOf (m : Mgmt) : Nat := bits m.thermCtl.toNat 9 0

/-- The temperature of a sensor. -/
def Mgmt.temp (m : Mgmt) (n : Nat) : Nat := nth m.temps n 0

/-- The first sensor at or above EMERG (DEDUCED, log 49). -/
def hotSensor (m : Mgmt) : Option Nat := (List.range 19).find? fun n => decide (emergOf m ≤ m.temp n)

/-- Every sensor reads at or below RELEASE. -/
def allCool (m : Mgmt) : Bool := (List.range 19).all fun n => decide (m.temp n ≤ releaseOf m)

/-- A start has trimmed the sensors (Table 21-4). -/
def trimmed (m : Mgmt) : Bool := m.ready.any (· != 0)

/-- The sensors' new readings (R486), and what they bring about (R495). -/
def execThermalSensorUpdate (temps : List Nat) (s : State) : Host.Outcome State Fault Refusal :=
  .next (if !trimmed s.mgmt then s else
    let s1 := s.modMgmt fun m => { m with temps := (List.range 19).map fun n => nth temps n 0 % 1024 }
    if s1.clk.stopped.isNone then (if (hotSensor s1.mgmt).isSome then s1.push [.thermalEmergency] else s1)
    else if allCool s1.mgmt then s1.push [.thermalRelease] else s1)

/-- An emergency: every clock but the always-on clock stops, and all state is retained (R495) (DEDUCED, log 49). -/
def execThermalEmergency (s : State) : Host.Outcome State Fault Refusal :=
  .next (match hotSensor s.mgmt, s.clk.stopped with
    | some n, none =>
      let s1 := s.modMgmt fun m => { m with emergCnt := min 0xFFFF (m.emergCnt + 1) }
      { s1 with clk := { s1.clk with stopped := some s1.clk.ao, stoppedBy := n } }
    | _, _ => s)

/-- The clocks restart; two entries carry the times of the entry and of the release (R495) (DEDUCED, log 49). -/
def execThermalRelease (s : State) : Host.Outcome State Fault Refusal :=
  .next (match s.clk.stopped with
    | some t =>
      if !allCool s.mgmt then s else
      let s1 := logErr (logErr s 8 3 s.clk.stoppedBy 0 t s.clk.ao) 8 4 s.clk.stoppedBy 0 t s.clk.ao
      { s1 with clk := { s1.clk with stopped := none } }
    | none => s)

/-- Always-on periods of an emergency after which the device shuts down: 10 s (R496). -/
def shutLimit : Nat := 10 ^ 9

/-- CHECK of a start record (Table 10-9). -/
def recordCheck (bs : List Byte) : Nat := signature64 (stringWords (bs.take 252)) % 2 ^ 32

/-- The 256 bytes of the start record. -/
def startRecord (s : State) : List Byte := readCells s.mem.cells (startKey 0) 256

/-- Stores a start record with its CHECK made right. -/
def putRecord (s : State) (bs : List Byte) : State :=
  s.setMem { s.mem with cells := writeCells s.mem.cells (startKey 0) (bs.take 252 ++ bytesOfNat (recordCheck bs) 4) }

/-- The device shuts down: FAILSTEP bit 15 is set, and the die is held in reset (R496) (DESIGN CHOICE, log 51). -/
def execThermalShutdown (s : State) : Host.Outcome State Fault Refusal :=
  .next (match s.clk.stopped with
    | some t =>
      if s.clk.ao < t + shutLimit then s else
      let r := startRecord s
      let s1 := putRecord s (r.take 20 ++ bytesOfNat (2 ^ 15 + byteField r 20 2 % 2 ^ 15) 2 ++ r.drop 22)
      { s1 with clk := { s1.clk with shut := true } }
    | none => s)

/-! ### The thermal pass (R497) -/

/-- The pass's new THROTTLE of a cluster, and the CODE of its entry; none where it leaves THROTTLE as it is. -/
def passStep (m : Mgmt) (cl throttle : Nat) : Option (Nat × Nat) :=
  if alertOf m ≤ m.temp cl ∧ throttle < 7 then some (throttle + 1, 1)
  else if m.temp cl ≤ releaseOf m ∧ 0 < throttle then some (throttle - 1, 2) else none

/-- The pass for one cluster: RATE is written as the listing writes it, and the change is logged through the stage registers. -/
def passCluster (s : State) (cl : Nat) : State :=
  if clusterOut s cl then s else
  let c := s.cluster cl
  match passStep s.mgmt cl c.throttle with
  | none => s
  | some (k, code) =>
    let s1 := writeRate s cl (rateWord { c with throttle := k }) true
    let s2 := s1.modMgmt fun m => { m with stage1 := wordOf (m.temp cl), stage2 := wordOf k }
    commitLog s2 (wordOf (cl * 2 ^ 32 + 8 * 2 ^ 24 + code * 2 ^ 8))

/-- The thermal pass (Listing 21-1) (DESIGN CHOICE, log 7). -/
def thermalPass (s : State) : State := (List.range 18).foldl passCluster s

/-! ### The governor (R246) -/

/-- A free value. -/
def State.freeNat (s : State) : Nat × State := let (n, s1) := s.draw; (Config.free n, s1)

/-! ### Energy by context (R248) -/

/-- Adds the shares of an amount of energy to contexts, by their slots: rounded down, saturating. -/
def shareEnergy (s : State) (e : Nat) (slots : Tab Nat) : State :=
  let total := (slots.map (·.2)).sum
  slots.foldl (fun st p => st.modCtx p.1 fun c => { c with energy := min (2 ^ 32 - 1) (c.energy + e * p.2 / total) }) s

/-- The slots of every cluster together. -/
def deviceSlots (s : State) : Tab Nat :=
  s.clusters.foldl (fun m e => e.2.slots.foldl (fun m p => m.set p.1 (m.getD p.1 0 + p.2)) m) []

/-- Divides the interval's energy among contexts: each cluster's by its slots, the rest by device-wide slots
(DESIGN CHOICE, log 12). -/
def divideEnergy (s : State) : State :=
  let s1 := (s.clusters.keys).foldl (fun st cl => let (e, st1) := st.freeNat; shareEnergy st1 e (s.cluster cl).slots) s
  let (e, s2) := s1.freeNat
  let s3 := shareEnergy s2 e (deviceSlots s)
  { s3 with clusters := s3.clusters.map fun e => (e.1, { e.2 with slots := [] }) }

/-- The governor interval: the thermal pass, then the choices, from the registers as they stand now (R246, R497). -/
def execGovernorInterval (s : State) : Host.Outcome State Fault Refusal :=
  .next (if s.clk.stopped.isSome || s.clk.shut then s else
    let s1 := thermalPass (s.modMgmt fun m => { m with governorAt := s.clk.ao })
    let s2 := s1.modMgmt fun m => { m with govLive := m.govCtl, frameLive := m.govFrame }
    divideEnergy (chooseRates (markBases s2)))

end Sys2Proof.Machine
end

