-- ==== Sys2Proof/Machine/Start.lean ====
section
/-! DEFINITION. The start (spec 10 R249 to R252, spec 21 R499, R500): its steps, the exclusions, the start record and the state
that a start leaves. -/

namespace Sys2Proof.Machine

/-- The identity that the device derives from its secret (R252). -/
def deviceId : Nat := signature64 ((List.range 4).map (fun i => (Config.secret i).toNat) ++ [1]) % 2 ^ 128

/-- What a start works with and leaves for the next one (Table 10-9): excluded clusters, cores, slices and units, channel rates
(15 excluded), the host link's rate; steps failed; channels not ready; the host node out; READY words; failures to log (step, unit,
setting tried); whether the start has stopped. -/
structure Boot where
  (starts : Nat) (clusterX : Nat) (coreX : List Nat) (chRate : List Nat) (sliceX : Nat) (hostRate : Nat) (unitX : Nat)
  (fail : Nat) (chBad : List Nat) (hostOut : Bool) (w0 : Nat) (w1 : Nat) (w2 : Nat) (log : List (Nat × Nat × Nat)) (stop : Bool)
  /-- Routers set to pass-through (Table 10-7). -/
  (passed : List Nat)
  deriving DecidableEq, Repr

/-- A start record may be used (R251). -/
def recordOk (r : List Byte) : Bool :=
  byteField r 0 16 == deviceId && byteField r 22 2 == 0 && byteField r 103 149 == 0 && byteField r 252 4 == recordCheck r

/-- The settings of a record; full settings and no exclusion where it may not be used (R251). -/
def Boot.ofRecord (r : List Byte) : Boot :=
  if recordOk r then
    { starts := byteField r 16 4, clusterX := byteField r 24 4 % 2 ^ 18, coreX := (List.range 18).map fun i => byteField r (28 + 2 * i) 2,
      chRate := (List.range 64).map fun i => bits (byteField r (64 + i / 2) 1) (4 * (i % 2) + 3) (4 * (i % 2)), sliceX := byteField r 96 4,
      hostRate := byteField r 100 1, unitX := byteField r 101 2, fail := 0, chBad := [], hostOut := false, w0 := 0, w1 := 0, w2 := 0,
      log := [], stop := false, passed := [] }
  else
    { starts := 0, clusterX := 0, coreX := List.replicate 18 0, chRate := List.replicate 64 0, sliceX := 0, hostRate := 0, unitX := 0,
      fail := 0, chBad := [], hostOut := false, w0 := 0, w1 := 0, w2 := 0, log := [], stop := false, passed := [] }

/-- Sets bits of a mask. -/
def orBits (m : Nat) (l : List Nat) : Nat := maskOf (bitList m 64 ++ l)

/-- A step has failed for some units. -/
def Boot.failed (b : Boot) (step : Nat) (units : List (Nat × Nat)) : Boot :=
  if units.isEmpty then b else { b with fail := orBits b.fail [step - 1], log := b.log ++ units.map fun u => (step, u.1, u.2) }

/-- Excludes clusters at a step. -/
def Boot.dropClusters (b : Boot) (step : Nat) (l : List Nat) : Boot :=
  let new := dedup (l.filter fun c => decide (c < 18) && !bit b.clusterX c)
  { b.failed step (new.map fun c => (c, 0)) with clusterX := orBits b.clusterX new }

/-- Excludes slices at a step. -/
def Boot.dropSlices (b : Boot) (step : Nat) (l : List Nat) : Boot :=
  let new := dedup (l.filter fun c => decide (c < 32) && !bit b.sliceX c)
  { b.failed step (new.map fun c => (c, 0)) with sliceX := orBits b.sliceX new }

/-- Excludes engines: bits of UNITX from a base. -/
def Boot.dropUnits (b : Boot) (step base n : Nat) (l : List Nat) : Boot :=
  let new := dedup (l.filter fun c => decide (c < n) && !bit b.unitX (base + c))
  { b.failed step (new.map fun c => (base + c, 0)) with unitX := orBits b.unitX (new.map (base + ·)) }

/-- The router of a full site that failed its test is set to pass-through (Table 10-7, step 3). -/
def Boot.passRouter (b : Boot) (n : Nat) : Boot := { b with passed := dedup (b.passed ++ [n]) }

/-- A router that failed its test (Table 10-7, step 3). -/
def Boot.dropNode (b : Boot) (n : Nat) : Boot :=
  match nodeUnit n with
  | (0, c) => (b.passRouter n).dropClusters 3 [c]
  | (1, i) => b.dropSlices 3 [i]
  | (2, i) => { (b.passRouter n).failed 3 [(n, 0)] with chRate := (List.range 64).map fun c => if c / 8 = i then 15 else nth b.chRate c 0 }
  | (3, g) => (b.passRouter n).dropUnits 3 8 8 ((List.range 4).map (4 * g + ·))
  | (4, _) => { (b.passRouter n).failed 3 [(n, 0)] with hostOut := true }
  | (5, _) => (b.passRouter n).dropUnits 3 0 4 [0, 1, 2, 3]
  | (6, _) => (b.passRouter n).dropUnits 3 4 4 [0, 1, 2, 3]
  | _ => (b.passRouter n).failed 3 [(n, 0)]

/-- A channel that failed to train: the next start trains one rate lower, and a failure at the lowest excludes it. -/
def Boot.dropChannel (b : Boot) (c : Nat) : Boot :=
  let r := nth b.chRate c 0
  if 64 ≤ c ∨ r = 15 then b
  else { b.failed 5 [(c, r)] with chRate := b.chRate.set c (if 3 ≤ r then 15 else r + 1), chBad := c :: b.chBad }

/-- The host link's next rate and width (R499): five rates, then half the width, then full settings again. -/
def nextHostRate (x : Nat) : Nat :=
  let rate := x % 16
  let width := bits x 5 4
  if rate < 4 then width * 16 + rate + 1 else if width < 2 then (width + 1) * 16 else 0

/-- Clusters that step 8 leaves usable. -/
def Boot.clustersLeft (b : Boot) : List Nat := (List.range 18).filter fun c => !bit b.clusterX c

/-- The cores and banks of step 8. -/
def Boot.dropCores (b : Boot) (cores banks : List Nat) : Boot :=
  let new := dedup (cores.filter fun c => decide (c < 288) && !bit (nth b.coreX (c / 16) 0) (c % 16))
  let b1 := { b.failed 8 (new.map fun c => (c, 0)) with
    coreX := (List.range 18).map fun cl => orBits (nth b.coreX cl 0) ((new.filter fun c => c / 16 == cl).map (· % 16)) }
  b1.dropClusters 8 (banks ++ (List.range 18).filter fun cl => decide (4 ≤ popCount (nth b1.coreX cl 0) 16))

/-- One start step (Table 10-7). -/
def Boot.step (r : StartTrial) (b : Boot) (k : Nat) : Boot :=
  if b.stop && k != 7 then b else
  match k with
  | 1 => if r.identOk then b else { b.failed 1 [(0, 0)] with stop := true }
  | 2 => b.dropClusters 2 r.trimFail
  | 3 => r.nodeFail.foldl Boot.dropNode b
  | 4 =>
    let b1 := b.dropSlices 4 r.sliceFail
    { b1 with w1 := orBits b1.w1 ((List.range 32).filter fun i => !bit b1.sliceX i) }
  | 5 =>
    let b1 := r.channelFail.foldl Boot.dropChannel b
    { b1 with w0 := maskOf ((List.range 64).filter fun c => nth b1.chRate c 0 != 15 && !(b1.chBad.contains c)) }
  | 6 => if r.metadataOk && b.w0 != 0 then b else { b.failed 6 [(0, 0)] with stop := true }
  | 7 =>
    if r.hostOk && !b.hostOut then { b with w2 := orBits b.w2 [18] }
    else { b.failed 7 [(0xFF, b.hostRate)] with hostRate := nextHostRate b.hostRate }
  | 8 =>
    let b1 := b.dropCores r.coreFail r.bankFail
    { b1 with w1 := orBits b1.w1 (b1.clustersLeft.map (32 + ·)) }
  | 9 =>
    let b1 := ((b.dropUnits 9 0 4 r.builderFail).dropUnits 9 4 4 r.transformFail).dropUnits 9 8 8 r.geomFail
    let up (base n : Nat) : Bool := (List.range n).any fun i => !bit b1.unitX (base + i)
    { b1 with w2 := orBits b1.w2 ((if up 0 4 then [19] else []) ++ (if up 4 4 then [20] else []) ++
        (if up 8 4 then [21] else []) ++ (if up 12 4 then [22] else [])) }
  | _ =>
    let b1 := b.dropClusters 10 r.memoFail
    let left := b1.clustersLeft.filter fun c => bit b1.w1 (32 + c)
    { b1 with w1 := maskOf (bitList b1.w1 32 ++ left.map (32 + ·)), w2 := orBits b1.w2 left }

/-- A step waits while another one hangs: steps 2 to 4 hold those after them, MEMORY holds METADATA, CLUSTERS holds MEMO (R249). -/
def heldBy_ (hung k : Nat) : Bool :=
  hung != 0 && (k == hung || (decide (hung ≤ 4) && decide (hung < k)) || (hung == 5 && k == 6) || (hung == 8 && k == 10))

/-- Runs the steps that are not held. -/
def runBoot (r : StartTrial) (b : Boot) (hung : Nat) : Boot :=
  (([1, 2, 3, 4, 5, 6, 7, 8, 9, 10] : List Nat).filter fun k => !(heldBy_ hung k)).foldl (Boot.step r) b

/-- A remap table (R71): every index to itself, the indices of units that are out spread over the ready ones in ascending order
(DEDUCED, log 48). Where no unit is ready, every index stays as it is (DESIGN CHOICE, log 58). -/
def remap (n ready : Nat) : List Nat :=
  let up := bitList ready n
  (List.range n).map fun i => if bit ready i then i else nth up (popCount ((2 ^ n - 1) - ready) i % up.length) i

/-- The DEVID that a start writes: the device's own; where IDENT failed, one that is not (R500, DESIGN CHOICE, log 6)
(DEDUCED, log 48). -/
def recordId (r : StartTrial) (x : Nat) : Nat := if r.identOk then deviceId else if x % 2 ^ 128 = deviceId then deviceId + 1 else x % 2 ^ 128

/-- The bytes of the record that a start leaves (Table 10-9), without CHECK (DEDUCED, log 48). -/
def Boot.record (b : Boot) (id : Nat) : List Byte :=
  bytesOfNat id 16 ++ bytesOfNat (min (2 ^ 32 - 1) (b.starts + 1)) 4 ++ bytesOfNat b.fail 2 ++ [0, 0] ++ bytesOfNat b.clusterX 4
    ++ b.coreX.flatMap (fun x => bytesOfNat x 2) ++ (List.range 32).map (fun i => BitVec.ofNat 8 (nth b.chRate (2 * i) 0 + 16 * nth b.chRate (2 * i + 1) 0))
    ++ bytesOfNat b.sliceX 4 ++ bytesOfNat b.hostRate 1 ++ bytesOfNat b.unitX 2 ++ List.replicate 149 0

/-- Memory that a start leaves as it is: the start record, and what other machines and the backing store hold (R487). -/
def outlives (k : Nat) : Bool := isHost k || isPeer k || decide (startKey 0 ≤ k ∧ k < startKey 256) || decide (2 ^ 90 ≤ k ∧ k < 2 ^ 100)

/-- The state in which a start's steps begin: as at reset, but for what survives, and the model's own schedule (R487). -/
def freshStart (s : State) : State :=
  let r := State.reset
  { r with mem := { r.mem with cells := s.mem.cells.filter fun c => outlives c.1 },
           mgmt := { r.mgmt with energy := s.mgmt.energy },
           sched := { s.sched with agenda := [] } }

/-- Puts the results of the steps run into the state, and logs failures. -/
def applyBoot (s : State) (b : Boot) (log : List (Nat × Nat × Nat)) : State :=
  let s1 := s.modMgmt fun m =>
    { m with ready := [b.w0, b.w1, b.w2], coreX := b.coreX, unitX := b.unitX, startStatus := b2n b.stop,
             sliceMap := remap 32 (b.w1 % 2 ^ 32), channelMap := remap 64 b.w0,
             linkUp := bit b.w2 18, linkRate := b.hostRate % 16, linkWidth := bits b.hostRate 5 4,
             clusterX := b.clusterX, sliceX := b.sliceX, channelX := maskOf ((List.range 64).filter fun c => nth b.chRate c 0 == 15),
             usable := usableBytes (popCount b.w0 64), passThrough := b.passed }
  log.foldl (fun st e => logErr st 9 e.1 e.2.1 0 e.2.2 0) s1

/-- Sets or ends the self-test mode of the clusters that a start works with: step CLUSTERS runs in it (R368). -/
def bootTesting (s : State) (b : Boot) (on : Bool) : State := b.clustersLeft.foldl (fun st c => selfTesting st c on) s

/-- The end of a start: the record for the next one (R250). -/
def endStart (s0 : State) (r : StartTrial) (b : Boot) : State :=
  let s : State := { s0 with cores := s0.cores.map fun e => (e.1, { e.2 with selfTest := false }) }
  let (x, s1) := s.freeNat
  putRecord (s1.modMgmt fun m => { m with startStep := none }) (b.record (recordId r x))

/-- A start (R249): its steps, but those that a step which hangs holds back; the schedule says which one hangs. -/
def execStart (r : StartTrial) (s : State) : Host.Outcome State Fault Refusal :=
  .next (
    let (h, s0) := s.choose 11
    let hung := if h < 2 then 0 else h
    let s1 := freshStart s0
    let b := runBoot r (Boot.ofRecord (startRecord s1)) hung
    let s2 := applyBoot (s1.modMgmt fun m => { m with trial := some r }) b b.log
    if hung = 0 then endStart s2 r b else (if hung = 8 then bootTesting s2 b true else s2).modMgmt fun m => { m with startStep := some (hung, 0) })

/-- Always-on periods within which a start step ends: 2 s (R499). -/
def stepLimit : Nat := 2 * 10 ^ 8

/-- A start step that has not finished within its time has failed, for the units that the trial names; the steps that it held
back then run (R499). -/
def execStartStepTimeout (s : State) : Host.Outcome State Fault Refusal :=
  .next (match s.mgmt.startStep, s.mgmt.trial with
    | some (hung, since), some r =>
      if s.clk.ao < since + stepLimit then s else
      let b0 := Boot.ofRecord (startRecord s)
      let b := runBoot r b0 0
      let old := (runBoot r b0 hung).log
      endStart (applyBoot s b (b.log.filter fun e => !(old.contains e))) r b
    | _, _ => s)

end Sys2Proof.Machine
end

