-- ==== Sys2Proof/Machine/Scaiq.lean ====
section
/-! DEFINITION. The Scaiq commands (spec 09 R233 to R235, R521, Table 9-6; spec 21 R485, R500, R501): each is performed by the
management core while BUSY is set, answers at OUT, and ends with the store of MBX.STATUS. -/

namespace Sys2Proof.Machine

/-- RESULT codes (Table 9-5). -/
def rOk : Nat := 0
def rBadOpc : Nat := 1
def rBadArg : Nat := 2
def rNoRes : Nat := 3
def rInUse : Nat := 4
def rDenied : Nat := 5

/-- What a command comes to: a result with response bytes; or it goes on later. -/
inductive Reply where
  | ends (s : State) (result : Nat) (out : List Byte)
  | waits (s : State)

/-- A request field: byte offset and bytes. -/
def State.req (s : State) (off n : Nat) : Nat := byteField s.mgmt.cmdIn off n

/-- Ends the command in progress: the response at OUT, then SEQ, OUTLEN and RESULT with BUSY clear in one store, then MSI-X
vector 0 (R233). -/
def endMailbox (s : State) (result : Nat) (out : List Byte) : State :=
  let s1 := s.setMem { s.mem with cells := writeCells s.mem.cells (mailKey 0x2000) out }
  signal (s1.modMgmt fun m =>
    { m with mbxStatus := wordOf (bits m.mbxCmd.toNat 63 48 * 2 ^ 48 + out.length * 2 ^ 32 + result * 2 ^ 16 + bits m.mbxStatus.toNat 1 1 * 2),
             cmdStarted := false }) 0

/-- Commands that a start which stopped still serves (R500). -/
def servedAlways : Instr → Bool
  | .health | .errlog | .startRecordRead | .startRecordReplace | .badopc => true
  | _ => false

/-- Performs a command when it is the one in progress: with n request bytes at least (R234) (DEDUCED, log 45). -/
def command (i : Instr) (n : Nat) (f : State → Reply) (s : State) : Host.Outcome State Fault Refusal :=
  .next (if !(s.mgmt.mbxStatus.getLsbD 0) || s.mgmt.command != i then s
    else if s.mgmt.startStatus != 0 && !servedAlways i then endMailbox s rDenied []
    else if bits s.mgmt.mbxCmd.toNat 47 32 < n ∨ 4096 < bits s.mgmt.mbxCmd.toNat 47 32 then endMailbox s rBadArg []
    else match f s with
      | .ends s1 r out => endMailbox s1 r out
      | .waits s1 => s1)

/-- The answer to a field that is reserved or out of range (R234). -/
def Reply.bad (s : State) : Reply := .ends s rBadArg []

/-- A context that exists. -/
def ctxKnown (s : State) (c : Nat) : Bool := c != 0 && (s.ctxs.get? c).isSome

/-- A command that needs a function: it waits while a start step may still bring it, and else has named an excluded unit (R249)
(DEDUCED, log 45). -/
def needing (s : State) (up : Bool) (f : Reply) : Reply := if up then f else if s.mgmt.startStep.isSome then .waits s else .bad s

/-- The cluster is ready. -/
def clusterReady (s : State) (cl : Nat) : Bool := bit (nth s.mgmt.ready 1 0) (32 + cl)

/-! ### Contexts -/

/-- Fields of CTX_CREATE that are in range: tables and frames lie in device memory, the save area in the address space
(DEDUCED, log 45). -/
def ctxArgsOk (s : State) : Bool :=
  s.req 0 8 % 4096 == 0 && decide (s.req 0 8 < s.mgmt.usable) && s.req 16 16 == poolMask (s.req 16 16) && decide (s.req 32 8 < 2 ^ 52)
    && s.req 40 8 % 2 ^ 16 == 0 && decide (s.req 40 8 + s.req 48 8 * 2 ^ 16 ≤ s.mgmt.usable)

/-- CTX_CREATE: the lowest free number from 1 (DESIGN CHOICE, log 9). -/
def ctxCreate (s : State) : Reply :=
  if !ctxArgsOk s then .bad s else
  match firstFree s.ctxs.keys 1 65535 with
  | none => .ends s rNoRes []
  | some n =>
    let c := { Context.none with
      root := s.req 0 8, drainLimit := if s.req 8 8 = 0 then 2 ^ 24 else s.req 8 8, pool := s.req 16 16, saveArea := s.req 32 8,
      frameBase := s.req 40 8, frameCount := s.req 48 8, freeFrames := List.range (s.req 48 8) }
    let s1 := s.setCtx n c
    let s2 := { s1 with clusters := s1.clusters.map fun e => (e.1, { e.2 with hits := e.2.hits.del n }) }
    .ends s2 rOk (bytesOfNat n 2)

/-- `CTX_CREATE` (R234). -/
def execCtxCreate (s : State) : Host.Outcome State Fault Refusal := command .ctxCreate 56 ctxCreate s

/-- Something of a context is still in flight: an engine operation, an edit that waits, a failed grid's rest. -/
def ctxBusy (s : State) (c : Nat) : Bool :=
  (s.ops.any fun e => e.2.ctx == c) || (s.mgmt.edits.any fun e => e.ctx == c) || (s.grids.any fun e => e.1 != 0 && e.2.ctx == c)

/-- The first effect of CTX_DESTROY (R441): queues go with their unconsumed packets, teams are reset or dropped, and the log has
an entry with code 5. -/
def beginDestroy (s : State) (c : Nat) : State :=
  let idx := match ctxTeams s c (fun _ => true) with
    | t :: _ => (s.team t).idx
    | [] => 0
  let s1 := stopContext { s with queues := s.queues.filter fun e => e.2.ctx != c } c true
  (logErr s1 1 5 (idx % 2 ^ 16) c 0 0).modMgmt fun m => { m with cmdStarted := true }

/-- Pages of SRAM or tile chunks that a destroyed context held last: a later context under its number is another one (R60, R70). -/
def leaveHeld (c : Nat) (l : Tab Nat) : Tab Nat := l.map fun e => if e.2 = c then (e.1, 2 ^ 16) else e

/-- The last effect: pins, structures, windows, cached translations and the context itself are freed. -/
def endDestroy (s : State) (c : Nat) : State :=
  { s with
    ctxs := s.ctxs.del c, structs := s.structs.filter (fun e => e.2.ctx != c), frames := s.frames.filter (fun e => e.2.ctx != c),
    cores := s.cores.map (fun e => (e.1, { e.2 with tlb := e.2.tlb.filter fun t => t.ctx != c })),
    mem := { s.mem with pageHolder := leaveHeld c s.mem.pageHolder, chunkHolder := leaveHeld c s.mem.chunkHolder },
    mgmt := { s.mgmt with sensor := s.mgmt.sensor.map fun w => if w != 0 && (windowOf w).ctx == c then 0 else w } }

/-- CTX_DESTROY: it returns once the context's engine operations have completed and all is freed (R235) (DEDUCED, log 45). -/
def ctxDestroy (s : State) : Reply :=
  let c := s.req 0 8
  if !ctxKnown s c then .bad s else
  let s1 := if s.mgmt.cmdStarted then s else beginDestroy s c
  if ctxBusy s1 c then .waits s1 else .ends (endDestroy s1 c) rOk []

/-- `CTX_DESTROY` (R234, R441). -/
def execCtxDestroy (s : State) : Host.Outcome State Fault Refusal := command .ctxDestroy 8 ctxDestroy s

/-- PREEMPT: a drain at team boundaries, which it waits for (R157). -/
def preemptCtx (s : State) : Reply :=
  let c := s.req 0 8
  if !ctxKnown s c then .bad s else
  let s1 := if s.mgmt.cmdStarted then s else (startDrain s c true none).modMgmt fun m => { m with cmdStarted := true }
  if (s1.ctx c).drain.any (·.byCommand) then .waits s1 else .ends s1 rOk []

/-- `PREEMPT` (R157). -/
def execPreempt (s : State) : Host.Outcome State Fault Refusal := command .preempt 8 preemptCtx s

/-! ### Queues (R136, R158, R214) -/

/-- A footprint of an urgent queue is in range (R158): at most 32 cores. -/
def footprintOk (s : State) : Bool :=
  let l := bitList (s.req 18 36) 288
  decide (1 ≤ l.length ∧ l.length ≤ 32) && decide (s.req 54 8 ≤ 2 ^ 18) && decide (s.req 62 8 ≤ 2 ^ 16)
    && decide (s.req 70 8 + s.req 78 8 ≤ 2 ^ 23)

/-- The target of an engine queue is a core, the slot allocator or the transform engines (R214) (DEDUCED, log 45). -/
def targetOk (t : Nat) : Bool := decide (t < 288) || t == 0xFFE || t == 0xFFF

/-- The unit of a target is ready (R249). -/
def targetUp (s : State) (t : Nat) : Bool := coreReady s t || t == 0xFFE || (t == 0xFFF && bit (nth s.mgmt.ready 2 0) 20)

/-- The units that a queue names are ready (R249). -/
def queueUp (s : State) (q : Queue) : Bool := (q.kind != 1 || targetUp s q.target) && q.coreMask.all (coreReady s)

/-- The descriptor's bits are in range (Table 6-1) (DEDUCED, log 45). -/
def descOk (d : Nat) : Bool :=
  decide (4 ≤ bits d 81 77 ∧ bits d 81 77 ≤ 16) && bits d 76 72 == 0 && bits d 65 64 != 2 && bits d 65 64 != 3 && bits d 63 48 == 0 && bits d 31 16 == 0

/-- The queue of a descriptor. -/
def queueOf (s : State) (d : Nat) : Queue :=
  let urgent := bits d 71 70 == 3
  { ctx := s.req 0 8, desc := s.req 8 8, base := bits d 127 82 * 64, log2n := bits d 81 77, cls := bits d 71 70, prio := bits d 69 66,
    kind := bits d 65 64, target := s.req 16 2, coreMask := if urgent then bitList (s.req 18 36) 288 else [],
    regF := if urgent then s.req 54 8 else 0, tileF := if urgent then s.req 62 8 else 0, spBase := if urgent then s.req 70 8 else 0,
    spSize := if urgent then s.req 78 8 else 0, seenAt := none, waitFrom := none, lastEval := s.dist, opened := [] }

/-- The descriptor as the device keeps it: QID and CTX are its own, RDIDX and WRIDX start at zero (R136, Table 6-1). -/
def descBytes (d qid ctx : Nat) : List Byte :=
  bytesOfNat (bits d 127 64 * 2 ^ 64 + bits d 63 48 * 2 ^ 48 + qid * 2 ^ 32 + bits d 31 16 * 2 ^ 16 + ctx) 16 ++ bytesOfNat 0 16

/-- QUEUE_CREATE: the device's fields of the descriptor are written, and the lowest free QID is returned (R136)
(DESIGN CHOICE, log 9) (DESIGN CHOICE, log 46). -/
def queueCreate (s : State) : Reply :=
  let c := s.req 0 8
  let a := s.req 8 8
  if !ctxKnown s c ∨ a % 32 ≠ 0 then .bad s else
  match devRead s c a 32 with
  | (s1, none) => .bad s1
  | (s1, some b) =>
    let q := queueOf s1 (natOfBytes b)
    let urgent := q.cls == 3
    if !descOk (natOfBytes b) || (q.kind == 1 && !targetOk q.target) || (urgent && (decide (s1.mgmt.cmdIn.length < 86) || !footprintOk s1)) then .bad s1
    else needing s1 (queueUp s1 q) <| if 64 ≤ (s1.queues.filter fun e => e.2.ctx == c).length then .ends s1 rNoRes []
    else match firstFree s1.queues.keys 0 1024 with
      | none => .ends s1 rNoRes []
      | some n => .ends ((devWrite s1 c a (descBytes (natOfBytes b) n c)).1.setQueue n q) rOk (bytesOfNat n 2)

/-- `QUEUE_CREATE` (R136, R158, R214). -/
def execQueueCreate (s : State) : Host.Outcome State Fault Refusal := command .queueCreate 18 queueCreate s

/-- QUEUE_DESTROY: refused while a grid of the queue is pending or resident. -/
def queueDestroy (s : State) : Reply :=
  let q := s.req 0 8
  if (s.queues.get? q).isNone then .bad s
  else if s.grids.any fun e => holdsEntry e && e.2.qid == q then .ends s rInUse []
  else .ends { s with queues := s.queues.del q } rOk []

/-- `QUEUE_DESTROY` (R234). -/
def execQueueDestroy (s : State) : Host.Outcome State Fault Refusal := command .queueDestroy 8 queueDestroy s

/-! ### MAP (R61, R78, R179, R235) -/

/-- Operations of a context whose addresses were translated when they were issued: pushes, tile loads and stores, and peer
drains (R462). -/
def translatedOps (s : State) (c : Nat) : List Job :=
  (s.ops.filter fun e => e.2.ctx == c && match e.2.job with
    | .push _ _ _ _ | .tld _ _ | .tst _ _ | .drainPeer _ _ _ => true
    | _ => false).map fun e => e.2.job

/-- Every access of a context that was translated before is globally performed (R78): no such operation is left, and no store to
a peer waits for its acknowledgement. -/
def allPerformed (s : State) (c : Nat) : Bool := (translatedOps s c).isEmpty && !(s.mgmt.peerStores.any fun e => e.2.ctx == c)

/-- The bytes that a leaf may map, from its address: the largest page that the address is aligned to. -/
def leafSpan (e : Nat) : Nat :=
  let a := bits e 47 12 * 4096
  if a % 2 ^ 34 = 0 then 2 ^ 34 else if a % 2 ^ 25 = 0 then 2 ^ 25 else 2 ^ 16

/-- A push reads from the page of a leaf. -/
def pushFrom (e : Nat) : Job → Bool
  | .push _ _ src _ => let a := bits e 47 12 * 4096; decide (a ≤ src % 2 ^ 48 ∧ src % 2 ^ 48 < a + leafSpan e)
  | _ => false

/-- A push that may have been translated through an entry: by a leaf, from its page; by a table, from any page. -/
def pushThrough (e : Nat) : Job → Bool
  | .push t c src sh => !bit e 1 || pushFrom e (.push t c src sh)
  | _ => false

/-- Notes the codebook that an installed entry names (R84). -/
def bookEntry (s : State) (c a e : Nat) : State :=
  let named := bit e 0 && bit e 1 && bits e 59 58 != 0
  let drop (x : Context) : Context := { x with booked := x.booked.filter fun b => b.1 != a }
  let s1 := { s with ctxs := s.ctxs.map fun p => (p.1, drop p.2) }
  if named then s1.modCtx c fun x => { x with booked := x.booked ++ [(a, bits e 62 60)] } else s1

/-- MAP SUB 0, and a SUB that is out of range: it takes effect when it completes, after every permit translated through the old
entry has been consumed (R235) (DEDUCED, log 47). -/
def mapEntry (s : State) : Reply :=
  let c := s.req 0 8
  let a := s.req 9 8
  if s.req 8 1 ≠ 0 ∨ !ctxKnown s c ∨ a % 8 ≠ 0 ∨ 2 ^ 48 ≤ a then .bad s else
  let old := readNat s.mem.cells a 8
  if bit old 0 && (translatedOps s c).any (pushThrough old) then .waits s
  else .ends (bookEntry (writeAt s a (bytesOfNat (s.req 17 8) 8)) c a (s.req 17 8)) rOk []

/-- `MAP`, SUB 0 (R234). -/
def execMapEntry (s : State) : Host.Outcome State Fault Refusal := command .mapEntry 25 mapEntry s

/-- MAP SUB 1: cached translations of the range go, and it returns when every access translated through them has been performed
(R78) (DEDUCED, log 45). -/
def mapInvalidate (s : State) : Reply :=
  let c := s.req 0 8
  if !ctxKnown s c ∨ 2 ^ 52 < s.req 9 8 + s.req 17 8 then .bad s else
  let s1 := dropTlb s c (s.req 9 8) (s.req 17 8)
  if allPerformed s1 c then .ends s1 rOk [] else .waits s1

/-- `MAP`, SUB 1 (R78). -/
def execMapInvalidate (s : State) : Host.Outcome State Fault Refusal := command .mapInvalidate 25 mapInvalidate s

/-- MAP SUB 2: a write of CLUSTER.BANKMODE (R61). -/
def mapBankmode (s : State) : Reply :=
  let cl := s.req 9 8
  if 18 ≤ cl ∨ !ctxKnown s (s.req 0 8) then .bad s else needing s (clusterReady s cl) (.ends (writeBankMode s cl (wordOf (s.req 17 8))) rOk [])

/-- `MAP`, SUB 2 (R61). -/
def execMapBankmode (s : State) : Host.Outcome State Fault Refusal := command .mapBankmode 25 mapBankmode s

/-- MAP SUB 3: a write of MEMO.TABLEn (R179). -/
def mapMemoTable (s : State) : Reply :=
  let cl := s.req 9 8
  let n := s.req 17 8
  if 18 ≤ cl ∨ 16 ≤ n ∨ !ctxKnown s (s.req 0 8) ∨ memoTableMask (s.req 25 8) ≠ s.req 25 8 then .bad s else needing s (clusterReady s cl) (.ends (writeMemoTable s cl n (wordOf (s.req 25 8))) rOk [])

/-- `MAP`, SUB 3 (R179). -/
def execMapMemoTable (s : State) : Host.Outcome State Fault Refusal := command .mapMemoTable 33 mapMemoTable s

/-! ### Codebooks (R84) -/

/-- CODEBOOK (PRESUMED, log 16). -/
def loadCodebook (s : State) : Reply :=
  let n := s.req 0 8
  let kind := s.req 8 1
  let lens := (List.range 256).map fun i => s.req (9 + i) 1
  if 8 ≤ n ∨ 3 ≤ kind ∨ lens.any (fun l => decide (15 < l)) ∨ 2 ^ 15 < kraft (lens.take (bookSymbols kind)) then .bad s
  else if s.ctxs.any fun e => e.2.booked.any fun b => b.2 == n then .ends s rInUse []
  else
    let book : Codebook := ⟨kind, lens.take (bookSymbols kind)⟩
    .ends (s.modMgmt fun m => { m with codebooks := m.codebooks.set n book }) rOk []

/-- `CODEBOOK` (R84). -/
def execCodebook (s : State) : Host.Outcome State Fault Refusal := command .codebook 265 loadCodebook s

/-! ### Modes and limits -/

/-- Reads MEMO.AUDIT of a cluster, which clears it; an excluded cluster reads as zero (R339). -/
def takeAudit (r : State × List Byte) (cl : Nat) : State × List Byte :=
  let (s1, v) := readReg r.1 ⟨1, cl, 32⟩
  (s1, r.2 ++ bytesOfNat v.toNat 8)

/-- MEMO_MODE: it returns MEMO.AUDIT of each cluster (R187). -/
def setMemoMode (s : State) : Reply :=
  let c := s.req 0 8
  if !ctxKnown s c ∨ memoModeMask (s.req 8 8) ≠ s.req 8 8 then .bad s else
  let r := (List.range 18).foldl takeAudit (s, [])
  .ends (writeReg r.1 ⟨2, c, 1⟩ (wordOf (s.req 8 8)) true) rOk r.2

/-- `MEMO_MODE` (R187). -/
def execMemoMode (s : State) : Host.Outcome State Fault Refusal := command .memoMode 16 setMemoMode s

/-- POWER_LIMIT: GOV.CTL and GOV.FRAME, which apply at the next governor interval (R246). -/
def setPowerLimit (s : State) : Reply :=
  if s.req 0 8 < 320 ∨ 600 < s.req 0 8 ∨ 3 < s.req 8 8 ∨ 2 ^ 24 ≤ s.req 16 8 ∨ 2 ^ 16 ≤ s.req 24 8 then .bad s else
  .ends (s.modMgmt fun m =>
    { m with govCtl := wordOf (s.req 0 8 * 2 ^ 48 + bits m.govCtl.toNat 47 32 * 2 ^ 32 + s.req 8 8),
             govFrame := wordOf (s.req 24 8 * 2 ^ 32 + s.req 16 8) }) rOk []

/-- `POWER_LIMIT` (R246). -/
def execPowerLimit (s : State) : Host.Outcome State Fault Refusal := command .powerLimit 32 setPowerLimit s

/-- PAGING: PAGING.CTL, and frames added above those that the pool has (Table 3-8) (DESIGN CHOICE, log 46). -/
def setPaging (s : State) : Reply :=
  let c := s.req 0 8
  let x := s.ctx c
  let n := s.req 16 8
  if !ctxKnown s c ∨ pagingMask (s.req 8 8) ≠ s.req 8 8 ∨ s.mgmt.usable < x.frameBase + (x.frameCount + n) * 2 ^ 16 then .bad s else
  .ends ((writeReg s ⟨2, c, 0⟩ (wordOf (s.req 8 8)) true).modCtx c fun k =>
    { k with freeFrames := k.freeFrames ++ (List.range n).map (k.frameCount + ·), frameCount := k.frameCount + n }) rOk []

/-- `PAGING` (R234). -/
def execPaging (s : State) : Host.Outcome State Fault Refusal := command .paging 24 setPaging s

/-- SENSOR_WIN (R231, Table 9-6). -/
def setSensorWin (s : State) : Reply :=
  let n := s.req 0 8
  let v := s.req 8 16
  let old := nth s.mgmt.sensor n 0
  if 16 ≤ n ∨ bits v 15 1 ≠ 0 ∨ (bit v 0 ∧ (windowOf v).frame = 0) ∨ 18 ≤ (windowOf v).cl then .bad s
  else if bit old 0 ∧ old / 2 ≠ v / 2 then .ends s rInUse []
  else needing s (clusterReady s (windowOf v).cl) (.ends (setWindow s n v) rOk [])

/-- `SENSOR_WIN` (R231). -/
def execSensorWin (s : State) : Host.Outcome State Fault Refusal := command .sensorWin 24 setSensorWin s

/-- PEER (R228). -/
def setPeer (s : State) : Reply :=
  let c := s.req 0 8
  if !ctxKnown s c ∨ 16 ≤ s.req 8 8 ∨ 2 ≤ s.req 16 8 then .bad s else
  .ends (s.modCtx c fun x => { x with peers := x.peers.set (s.req 8 8) (s.req 16 8, s.req 24 8) }) rOk []

/-- `PEER` (R228). -/
def execPeer (s : State) : Host.Outcome State Fault Refusal := command .peer 32 setPeer s

/-! ### Health, the log and the start record -/

/-- HEALTH (R501, Table 21-6): registers of an excluded cluster read as zero (R339), and the energy accumulator LO then HI through
the management core's latch. -/
def readHealth (s : State) : Reply :=
  let (s1, lo) := readEnergyLo s false
  let m := s1.mgmt
  let throttles := ((List.range 18).map fun c => if clusterOut s1 c then 0 else (s1.cluster c).throttle * 2 ^ (3 * c)).sum
  .ends s1 rOk ((List.range 3).flatMap (fun i => bytesOfNat (nth m.ready i 0) 8) ++ bytesOfNat (lo.toNat + 2 ^ 32 * m.latchCore) 8
    ++ (List.range 19).flatMap (fun n => bytesOfNat (tempOf s1 n) 2) ++ [0, 0] ++ bytesOfNat throttles 8
    ++ bytesOfNat m.errWidx 8 ++ bytesOfNat m.ceCount 8 ++ bytesOfNat (min 0xFFFF m.emergCnt) 2 ++ bytesOfNat (byteField (startRecord s1) 20 2) 2
    ++ [0, 0, 0, 0])

/-- `HEALTH` (R501). -/
def execHealth (s : State) : Host.Outcome State Fault Refusal := command .health 0 readHealth s

/-- ERRLOG (R485): the index of the first entry returned, and up to 64 entries. -/
def readLog (s : State) : Reply :=
  let f := max (s.req 0 8) (s.mgmt.errWidx - 1024)
  let n := min 64 (s.mgmt.errWidx - f)
  .ends s rOk (bytesOfNat f 8 ++ (List.range n).flatMap fun i => readCells s.mem.cells (mgmtKey (0x8000 + 32 * ((f + i) % 1024))) 32)

/-- `ERRLOG` (R485). -/
def execErrlog (s : State) : Host.Outcome State Fault Refusal := command .errlog 8 readLog s

/-- START_RECORD, direction 0: the record is read; a direction above 1 is out of range (R250) (DESIGN CHOICE, log 46). -/
def readStartRecord (s : State) : Reply := if s.req 0 1 = 0 then .ends s rOk (startRecord s) else .bad s

/-- `START_RECORD`, read (R250). -/
def execStartRecordRead (s : State) : Host.Outcome State Fault Refusal := command .startRecordRead 1 readStartRecord s

/-- START_RECORD, direction 1: the record is replaced for the next start, but for its DEVID (R250, R251); while a start runs, it
waits for the end of it (DESIGN CHOICE, log 46) (DEDUCED, log 48). -/
def replaceStartRecord (s : State) : Reply :=
  if s.mgmt.startStep.isSome then .waits s else
  .ends (s.setMem { s.mem with cells := writeCells s.mem.cells (startKey 16) ((s.mgmt.cmdIn.drop 17).take 240) }) rOk []

/-- `START_RECORD`, replace (R251). -/
def execStartRecordReplace (s : State) : Host.Outcome State Fault Refusal := command .startRecordReplace 257 replaceStartRecord s

/-- Any other OPCODE (R234). -/
def execBadopc (s : State) : Host.Outcome State Fault Refusal := command .badopc 0 (fun s => .ends s rBadOpc []) s

end Sys2Proof.Machine
end

