-- ==== Sys2Proof/Machine/Clock.lean ====
section
/-! DEFINITION. A tick of the clocks, and the steps that it makes due: what the outside world does (DESIGN CHOICE, log 3), timers, accesses,
engines, traps, the distributor, rendering, the fabric, issue selection, and last what ends with the cycle (logs 3, 5).
A tick is one period of 1.35 GHz; its steps stand in the agenda and are taken one by one. Every step tests for itself
whether it has anything to do. -/

namespace Sys2Proof.Machine

/-! ### The clocks (R243) -/

/-- A clock at a step, in units of 10 MHz; and the reference rate. -/
def clockUnits (k : Nat) : Nat := 45 + 6 * k
def referenceUnits : Nat := 135

/-- The phase of a clock of some rate after a tick, and whether the clock has gone on by a cycle (DESIGN CHOICE, log 54). -/
def beat (rate phase : Nat) : Nat × Bool :=
  if referenceUnits ≤ phase + rate then (phase + rate - referenceUnits, true) else (phase + rate, false)

/-- The always-on clock after a tick: 100 MHz (DESIGN CHOICE, log 54). -/
def aoTick (c : Clocks) : Clocks := let b := beat 10 c.aoPhase; { c with aoPhase := b.1, ao := c.ao + b2n b.2 }

/-- Every clock after a tick (DESIGN CHOICE, log 54). -/
def clockTick (s : State) : Clocks :=
  let c := aoTick s.clk
  let bs := (List.range 18).map fun i => beat (clockUnits (s.cluster i).step) (nth c.phases i 0)
  let f := beat (clockUnits c.fabricStep) c.fabricPhase
  { c with front := (List.range 18).map (fun i => nth c.front i 0 + b2n ((nth bs i (0, false)).2)), phases := bs.map (·.1),
           fabricPhase := f.1, fabric := c.fabric + b2n f.2 }

/-- A cluster, or the fabric, goes on by a cycle in this tick (DESIGN CHOICE, log 54). -/
def frontBeat (old new : Clocks) (cl : Nat) : Bool := nth new.front cl 0 != nth old.front cl 0
def fabricBeat (old new : Clocks) : Bool := new.fabric != old.fabric

/-- A change of FSTEP or of the lane rate takes effect at a slot boundary (R244). -/
def takeRates (old : Clocks) (s : State) : State :=
  { s with clusters := s.clusters.map fun e => if frontBeat old s.clk e.1 then (e.1, { e.2 with cur := e.2.req, step := e.2.fstep }) else e }

/-- The energy accumulator grows by an amount left open (R247, DESIGN CHOICE, log 12). -/
def addEnergy (old : Clocks) (s : State) : State :=
  if s.clk.ao = old.ao then s else let (x, s1) := s.freeNat; s1.modMgmt fun m => { m with energy := (m.energy + x) % 2 ^ 40 }

/-- A stage has a gang with a thread Blocked at a push (R152). -/
def stageBlocked (s : State) (inst st : Nat) : Bool :=
  s.threads.any fun e => match e.2.run with
    | .blocked (.push _ _ _ _) => match (s.team (s.gang e.2.gang).team).role with
      | .stage i k _ => i == inst && k == st
      | _ => false
    | _ => false

/-- BLK of every stage (R152). -/
def countBlocked (old : Clocks) (s : State) : State :=
  { s with insts := s.insts.map fun e =>
      if frontBeat old s.clk e.2.cl then
        (e.1, { e.2 with blk := (List.range e.2.stages.length).map fun k => nth e.2.blk k 0 + b2n (stageBlocked s e.1 k) })
      else e }

/-! ### Steps that become due -/

/-- A step, when a condition holds. -/
def whenever (p : Bool) (l : List Instr) : List Instr := if p then l else []

/-- What the outside world can do. -/
def isInput : Instr → Bool
  | .sensorWrite _ _ | .hostWrite _ _ _ | .hostRead _ _ | .hostAtomic _ _ _ _ | .hostSnoop _ _ | .peerAck _ _ | .hostLinkDown | .hostLinkUp
  | .linkSpeedChange _ _ | .peerPortDown _ | .peerPortUp _ | .eccError _ _ | .thermalSensorUpdate _ | .start _ => true
  | _ => false

/-- Takes the next input that the state of the clocks lets in; an emergency lets in new readings only, a shut-down a start
(DESIGN CHOICE, log 3). -/
def takeInput (s : State) : List Instr × State :=
  match s.sched.inputs with
  | [] => ([], s)
  | i :: rest =>
    let open_ := match i with
      | .start _ => true
      | .thermalSensorUpdate _ => !s.clk.shut
      | _ => !s.clk.shut && s.clk.stopped.isNone
    if open_ then (whenever (isInput i) [i], s.setSched { s.sched with inputs := rest }) else ([], s)

/-- Timers (R246, R484, R496, R499, R463). -/
def timersDue (s : State) : List Instr :=
  whenever s.mgmt.msiTimer.isSome [.msixVector1Timer] ++ whenever (decide (s.mgmt.governorAt + 10000 ≤ s.clk.ao)) [.governorInterval]
    ++ whenever s.mgmt.startStep.isSome [.startStepTimeout] ++ whenever (!s.mgmt.peerStores.isEmpty) [.peerAckTimeout]

/-- The command in progress is a write of CLUSTER.BANKMODE, which the management core applies after what supervisor handlers write
in the same front cycle (R61). -/
def appliedLast (s : State) : Bool := s.mgmt.command == .mapBankmode

/-- The management side: the log takes an append, and a command goes on (R484, R233). -/
def mgmtDue (s : State) : List Instr :=
  whenever (!s.mgmt.errPending.isEmpty) [.errlogAppend] ++ whenever (s.mgmt.mbxStatus.getLsbD 0 && !appliedLast s) [s.mgmt.command]

/-- Steps chosen one by one with the schedule's choices. -/
def gatherDue {α : Type} (f : State → α → List Instr × State) (s : State) : List α → List Instr × State
  | [] => ([], s)
  | x :: xs =>
    let (l, s1) := f s x
    let (r, s2) := gatherDue f s1 xs
    (l ++ r, s2)

/-- An unperformed access: it is performed, or its walk ends, or neither (R95, R452, DESIGN CHOICE, log 4). -/
def accessDue (s : State) (e : Nat × Access) : List Instr × State :=
  if !e.2.free then ([], s) else
  let (n, s1) := s.choose 3
  (match n with
    | 0 => [.memoryAccessPerformed e.1]
    | 1 => [.walkCompletion e.1]
    | _ => [], s1)

/-- Pages that a context may have in transfer at once (Table 3-8). -/
def maxInFlight (c : Context) : Nat := max 1 (bits c.pagingCtl.toNat 15 8)

/-- A page in transfer: its page-in ends, and how its read and write of the backing store went (R453). -/
def pageDue (s : State) (p : Nat × Nat) : List Instr × State :=
  let (n, s1) := s.choose 2
  if n = 1 then ([], s1) else
  let (r, s2) := s1.choose 2
  let (w, s3) := s2.choose 2
  ([.pageIn p.1 p.2 (r == 0) (w == 0)], s3)

/-- The step that completes an engine's operation (DESIGN CHOICE, log 5). -/
def opEnd (id : Nat) (op : Op) : List Instr :=
  match op.job with
  | .copy _ _ _ | .gather _ _ _ => [.copyCompletion id]
  | .push _ _ _ _ => [.chunkPushLanding id]
  | .drainPeer _ _ _ => [.peerDrainAdd id]
  | .transform _ _ => [.transformCompletion id]
  | .tld _ _ | .tst _ _ | .tzero _ | .tcvt _ _ _ _ | .scaleacc _ _ _ _ _ _ _ _ | .drainH _ _ | .drainByp _ => [.tileOperationCompletion id]
  | .mma _ _ _ _ _ _ _ _ | .loom _ _ _ | .infq _ _ => []

/-- An operation completes now, or later (DESIGN CHOICE, log 5). -/
def opDue (s : State) (e : Nat × Op) : List Instr × State :=
  match opEnd e.1 e.2 with
  | [] => ([], s)
  | l => let (n, s1) := s.choose 2; (whenever (n == 0) l, s1)

/-- The fabric node of the engine that performs an operation (Table 10-1). -/
def opNode (op : Op) : Nat :=
  match op.job with
  | .push _ _ _ sh => nodeOf (2, sh)
  | .transform _ _ => nodeOf (6, 0)
  | .loom _ _ _ => nodeOf (5, 0)
  | _ => clusterNode (op.core / 16)

/-- Operations in the order in which the completions of one cycle are applied: ascending fabric node, then request order (R105). -/
def opsInOrder (s : State) : List (Nat × Op) :=
  sortBy (fun (a b : Nat × Op) => decide (opNode a.2 < opNode b.2) || (opNode a.2 == opNode b.2 && decide (a.2.seq < b.2.seq))) s.ops

/-- A matrix operation that is running completes at the beginning of a front cycle of its cluster, now or later (R363). -/
def matrixDue (old : Clocks) (s : State) (e : Nat × Core) : List Instr × State :=
  if e.2.running.isNone || !frontBeat old s.clk (e.1 / 16) then ([], s) else let (n, s1) := s.choose 2; (whenever (n == 0) [.matrixOperationCompletion e.1], s1)

/-- The step of a Loom command (R203). -/
def loomDue (s : State) (e : Nat × Op) : List Instr × State :=
  match loomJob e.2 with
  | none => ([], s)
  | some (cmd, _, _) =>
    let (n, s1) := s.choose 2
    (whenever (n == 0 && bits s.mgmt.unitX 3 0 != 15) (match loomKind cmd with
      | 0 => [.build e.1]
      | 1 => [.refit e.1]
      | 2 => [.rebalance e.1]
      | _ => [.publish e.1]), s1)

/-- Traps of the gangs, held entries, and what waits in the teams (R426, R449, R156, R43, R349). -/
def trapsDue (s : State) : List Instr :=
  (s.gangs.flatMap fun e => whenever (!(e.2.raised.isEmpty && e.2.nestq.isEmpty)) [.trapEntryQueue e.1]
      ++ whenever (!(e.2.queue.isEmpty && e.2.nestq.isEmpty)) [.trapDelivery e.1])
    ++ (s.threads.flatMap fun e => whenever (!e.2.held.isEmpty) [.asyncTrapEntry e.1])

/-- A waiting thread tests again: every 2,048 front cycles (R324); one at a full queue each cycle. -/
def retestDue (s : State) (e : Nat × Thread) : List Instr :=
  match e.2.run with
  | .blocked (.waitaPhase _ _ _) | .blocked (.waitaGe _ _ _) | .blocked (.waitaEq _ _ _) => whenever (s.nowOf e.1 % 2048 == 0) [.waitaRetest e.1]
  | .blocked (.post _ _ _ _ _) => [.waitaRetest e.1]
  | _ => []

/-- What waits in the teams (R156, R43, R349, R437). -/
def teamsDue (s : State) : List Instr :=
  whenever (s.teams.any fun e => !e.2.waves.isEmpty) [.barrierWave] ++ s.threads.flatMap (retestDue s)
    ++ whenever (s.teams.any fun e => hasCards s e.1) [.repack] ++ whenever (s.tiles.any fun e => e.2.freed) [.tileRelease]
    ++ whenever (s.teams.any fun e => match e.2.res with
        | .yielding _ => true
        | _ => false) [.yieldSaveComplete]

/-- Banks whose mode is to change (R62). -/
def banksDue (s : State) : List Instr := s.clusters.flatMap fun e => (bitList (bankBusy e.2) 32).map fun b => .bankTransition e.1 b

/-- A request engine visits its bound queues round-robin in ascending QID, after the COPY instructions of the cycle (R215). -/
def engineDue (s : State) (core : Nat) : List Instr × State :=
  let l := (s.queues.filter fun e => e.2.kind == 1 && e.2.target == core && (eligible s e.1 e.2).isSome).map (·.1)
  match ((l.find? fun q => decide ((s.core core).rr ≤ q)).or l.head?) with
  | none => ([], s)
  | some q => (whenever (engineHead s q 0x10).isSome [.copyPacket q] ++ whenever (engineHead s q 0x11).isSome [.gatherPacket q],
               s.modCore core fun c => { c with rr := q + 1 })

/-- Cores to whose request engines queues are bound. -/
def engineCores (s : State) : List Nat := dedup ((s.queues.filter fun e => e.2.kind == 1 && decide (e.2.target < 288)).map (·.2.target))

/-- The distributor and the engines that share its queues, in a fabric front cycle (R142 to R149, R157 to R161, R221, R242). -/
def distributorDue (s : State) : List Instr :=
  whenever (!s.queues.isEmpty) [.dependenceReevaluation, .preemptionWaitExpiry, .fill, .convert, .recode, .slotTableEdit]
    ++ whenever (s.clk.fabric % 64 == 0 && !s.mgmt.edits.isEmpty) [.slotTableEditApply]
    ++ whenever (decide (1 < s.grids.length)) [.urgentTeamAssignment, .teamAssignment, .localSizeWaitExpiry]
    ++ whenever (s.ctxs.any fun e => e.2.drain.isSome) [.drainLimitExpiry] ++ whenever (s.cores.any fun e => !e.2.victims.isEmpty) [.urgentRestore]
    ++ whenever ((List.range 18).any (mayForage s)) [.forageRequest] ++ whenever (s.clusters.any fun e => e.2.forageWait.isSome) [.forageRetry]

/-- The clusters' own work (R146, R151, R152, R190, R85). -/
def clustersDue (s : State) : List Instr :=
  (s.cores.flatMap fun e => whenever (!e.2.records.isEmpty) [.placement e.1])
    ++ whenever (!s.insts.isEmpty || !s.frames.isEmpty || s.grids.any fun e => e.2.pipeline) [.pipelineInstanceStart, .balancerInterval]
    ++ whenever (s.clusters.any fun e => !e.2.infReqs.isEmpty) [.infqBatchLaunch]
    ++ whenever (s.clusters.any fun e => !e.2.rejected.isEmpty) [.missEntryRetry]
    ++ whenever (s.cores.any fun e => !e.2.matq.isEmpty) [.matrixOperationStart]

/-- A line with registrations leaves its slice when the schedule says so: every owner writes back and releases it first (R72)
(DESIGN CHOICE, log 56). -/
def leaveSlice (s : State) : State :=
  if s.mem.registry.isEmpty then s else
  let (n, s1) := s.choose (s.mem.registry.length + 1)
  match s.mem.registry[n - 1]? with
  | some e => if n = 0 then s1 else e.2.foldl (fun st o => releaseLine st o.1 e.1) s1
  | none => s1

/-- Replies to forage requests come now, or later. -/
def forageDue (s : State) : List Instr × State :=
  if s.clusters.any fun e => e.2.forage.isSome then let (n, s1) := s.choose 2; (whenever (n == 0) [.forageReply], s1) else ([], s)

/-- The work on a frame (R163 to R178). -/
def frameDue (e : Nat × Frame) : List Instr :=
  let f := e.2
  let at_ := List.range f.insts.length
  match f.phase with
  | 0 =>
    (List.range (f.batches.length + 1)).filterMap (fun b => if (f.batches[b]?).any (·.done) then none else some (.geometryBatch e.1 b))
      ++ (at_.filter fun i => (nextBin f i).isSome).map (.binWriterAppend e.1) ++ whenever (geometryDone f) [.rasterPhaseStart e.1]
  | 1 => at_.map (.coarseRasterTile e.1) ++ f.exports.map (fun x => .outputMergeExport e.1 x.id) ++ whenever (rasterDone f) [.frameCompletion e.1]
  | _ => []

/-- The fabric in one of its front cycles (R238 to R240, R86). -/
def fabricDue (s : State) : List Instr :=
  whenever (s.mgmt.pkts.any fun e => e.2.turn.isSome) [.turnBufferReinject] ++ (s.mgmt.pkts.map fun e => .fabricHop e.1)
    ++ whenever (s.mgmt.slices.any fun e => !e.2.retry.isEmpty) [.sliceRetry]

/-- The management core's thread stands where memory holds code, or in a clause; else it runs the ROM, whose code is not in the
spec and whose work is steps of its own (R341) (DESIGN CHOICE, log 7). -/
def mgmtCode (s : State) : Bool :=
  s.threads.any fun e => s.isMgmt e.1 && (e.2.clause.isSome || peekHalf s e.1 e.2.pc != 0)

/-- Issue selection of every core that holds threads and whose cluster has begun a front cycle; the management core's stands on the
fabric clock (R341). -/
def issueDue (old : Clocks) (s : State) : List Instr :=
  ((sortBy (fun a b => decide (a < b)) (dedup (s.gangs.map (·.2.core)))).filter fun c =>
    if c = mgmtCore then fabricBeat old s.clk && mgmtCode s else frontBeat old s.clk (c / 16)).map .issueSelection

/-- What ends with the cycle, after everything that the cycle issues (R209, R482). -/
def endsDue (s : State) : List Instr :=
  (s.teams.filter fun e => match e.2.role with
    | .batch _ _ => e.2.gangs.isEmpty
    | _ => false).map fun e => .infqBatchCompletion e.1

/-- A cluster's recovery from an uncorrectable error ends when the schedule says so, and its cores leave the self-test mode (R368)
(DESIGN CHOICE, log 59). -/
def endRecovery (s : State) : State :=
  if s.mgmt.startStep.isSome || !(s.cores.any fun e => e.2.selfTest) then s else
  let (n, s1) := s.choose 2
  if n = 0 then { s1 with cores := s1.cores.map fun e => (e.1, { e.2 with selfTest := false }) } else s1

/-! ### Traffic of the fabric (R237 to R239, DESIGN CHOICE, log 5) -/

/-- The packet that a due step sends: an access to memory, an inbound write, a chunk push, an invalidation
(DESIGN CHOICE, log 5). -/
def sendFor (s : State) : Instr → State
  | .memoryAccessPerformed a => match s.accs.get? a with
    | some x => match keyNow s x.thread x.space x.addr x.kind.size with
      | some k => if x.space == .lo then s else
        inject s (clusterNode (s.clusterOf x.thread)) [homeNode s k] (b2n (s.teamOf x.thread).urgent) (flitsOf x.kind.size)
      | none => s
    | none => s
  | .sensorWrite pa d => inject s (nodeOf (4, 0)) [homeNode s pa] 2 (flitsOf d.length)
  | .hostWrite pa d _ =>
    let a := inboundAddr pa
    inject s (nodeOf (4, 0)) [homeNode s a] (if (List.range d.length).any fun i => (windowFor s (a + i)).isSome then 2 else 0) (flitsOf d.length)
  | .chunkPushLanding id => match s.ops.get? id with
    | some o => match o.job with
      | .push _ _ _ sh => inject s (nodeOf (2, sh)) [clusterNode (o.core / 16)] 3 8
      | _ => s
    | none => s
  | .mapInvalidate => inject s (nodeOf (7, 0)) (((List.range 18).filter fun c => !bit s.mgmt.clusterX c).map clusterNode) 0 1
  | _ => s

/-! ### The tick -/

/-- A tick in an emergency: the always-on clock alone goes on (R495, R496). -/
def stoppedTick (s : State) : State :=
  let s1 : State := { s with clk := aoTick s.clk }
  let (i, s2) := takeInput (addEnergy s.clk s1)
  s2.push (i ++ [.thermalShutdown] ++ whenever s2.mgmt.msiTimer.isSome [.msixVector1Timer])

/-- A tick of a running device (DESIGN CHOICE, log 54). -/
def runningTick (s : State) : State :=
  let old := s.clk
  let s1 := settleDivergence { s with clk := clockTick s, mem := { s.mem with filled := [] } }
  let fb := fabricBeat old s1.clk
  let s2 := settleOffers (endRecovery (countBlocked old (addEnergy old (takeRates old s1))))
  let s3 := if fb then serveSlices (leaveSlice s2) else s2
  let (a0, s4) := takeInput s3
  let (a1, s5) := gatherDue accessDue s4 s4.accs
  let (a2, s6) := gatherDue pageDue s5 (s5.ctxs.flatMap fun e => (e.2.transfer.take (maxInFlight e.2)).map fun va => (e.1, va))
  let (a3, s7) := gatherDue opDue s6 (opsInOrder s6)
  let (a4, s8) := gatherDue (matrixDue old) s7 s7.cores
  let (a5, s9) := if fb then gatherDue engineDue s8 (engineCores s8) else ([], s8)
  let (a6, s10) := forageDue s9
  let (a7, s11) := gatherDue loomDue s10 s10.ops
  let front := a0 ++ timersDue s ++ whenever fb (mgmtDue s) ++ a1 ++ a2 ++ a3 ++ a4
  let last := issueDue old s11 ++ whenever fb a5 ++ a7 ++ endsDue s11 ++ whenever (fb && s.mgmt.mbxStatus.getLsbD 0 && appliedLast s) [s.mgmt.command]
  let s12 := (front.foldl sendFor s11)
  s12.push (front ++ trapsDue s ++ teamsDue s11 ++ banksDue s ++ clustersDue s ++ a6 ++ whenever fb (distributorDue s11)
    ++ s.frames.flatMap frameDue ++ whenever fb (fabricDue s12) ++ last)

/-- A tick (DESIGN CHOICE, log 5). A device that is shut down only takes a start (R496) (DESIGN CHOICE, log 3)
(DESIGN CHOICE, log 54). -/
def tick (s : State) : State :=
  if s.clk.shut then let (i, s1) := takeInput s; s1.push i
  else if s.clk.stopped.isSome then stoppedTick s else runningTick s

end Sys2Proof.Machine
end

