-- ==== Sys2Proof/Machine/Matrix.lean ====
section
/-! DEFINITION. The matrix engine (spec 14 R358 to R364, spec 05 R127 to R129, spec 20 R465): signing, start and completion of
operations. -/

namespace Sys2Proof.Machine

/-! ### Signing (R361) -/

/-- The element of an FP6 column or row at k: its block-aligned slot; else packed (R126, R359) (DEDUCED, log 37). -/
def slotElem (e : Elem) (v k : Nat) : Nat :=
  if (elemShape e).2 then v / 2 ^ (128 * (k / 21) + 6 * (k % 21)) % 64 else v / 2 ^ ((elemShape e).1 * k) % 2 ^ (elemShape e).1

/-- The first register of the first FP6 word of a column with spare bits set (Table 20-1, kind 1). -/
def columnSpare (s : State) (t : Nat) (e : Elem) (b : Nat) : Option Nat :=
  if (elemShape e).2 then ([0, 2].find? fun i => 2 ^ 62 ≤ (s.gr t (b + i + 1)).toNat).map (b + ·) else none

/-- What the signatures of one instruction must share. -/
structure MmaForm where
  (major : Nat) (fmt : Nat) (ta : Nat) (td : Nat) (el : Elem) (n : Nat) (b : Nat) (fs : Bool)

/-- A signature agrees with the instruction. -/
def MmaForm.agrees (f : MmaForm) (g : Sig) : Bool := g.major == f.major && g.fmt == f.fmt && g.ta == f.ta && g.td == f.td

/-- The signature of a thread. -/
def signature (f : MmaForm) (s : State) (t : Nat) : Sig :=
  { pos := (s.thread t).pos, thread := t, major := f.major, fmt := f.fmt, ta := f.ta, td := f.td,
    b := (List.range f.el.bRegs).map fun i => s.gr t (f.b + i), flag := (flagOf (s.thread t) f.fs).getD 12, pc := s.grp.pc,
    clause := (s.thread t).clause }

/-- The cause of a thread that may not sign (R361, R465). -/
def signBad (f : MmaForm) (s : State) (j : Join) (t : Nat) : Option Flt :=
  match columnSpare s t f.el f.b with
  | some r => some (cOperand, kindInfo 1 r)
  | none =>
    if j.st != .opened || !(j.pending.contains (s.thread t).pos) || !(j.sigs.all f.agrees) then some (cOperand, kindInfo 2 f.n) else none

/-- The mma of one gang: its signatures are recorded together; those that would complete the join while the matrix queue is
full are not (R361, R363). -/
def mmaGang (f : MmaForm) (s : State) (gid : Nat) (ps : List Nat) : Out :=
  let j := joinOf s gid f.n
  let bad := ps.filterMap fun t => (signBad f s j t).map fun c => Fx.mk t c.1 c.2
  let good := ps.filter fun t => (signBad f s j t).isNone
  let sigs := good.map (signature f s)
  let poss := sigs.map (·.pos)
  if good.isEmpty then ⟨s, bad, []⟩
  else if j.pending.all poss.contains && matrixFull s (s.gang gid).core then ⟨s, bad, good⟩
  else
    let s1 := setJoin s gid f.n { j with sigs := j.sigs ++ sigs }
    let s2 := good.foldl (fun st t => countFlag st t f.fs) (arrive s1 gid f.n poss)
    ⟨settleJoin s2 gid f.n, bad, []⟩

def OpMma.form (o : OpMma) (fs : Bool) : MmaForm :=
  ⟨if fs then 0x6B else 0x6A, o.el.code + 16 * b2n o.sparse, o.ta.val, o.td.val, o.el, o.n.val, o.b.val, fs⟩
def OpMma8.form (o : OpMma8) (fs : Bool) : MmaForm :=
  ⟨if fs then 0x6D else 0x6C, o.el.code + 16, o.ta.val, o.td.val, o.el, o.n.val, o.b.val, fs⟩

/-- `mma` (R361), flag A. -/
def execMmaFa (o : OpMma) (s : State) : Host.Outcome State Fault Refusal := gangOp (.mmaFa o) (mmaGang (OpMma.form o false)) s
/-- `mma` (R361), flag B. -/
def execMmaFb (o : OpMma) (s : State) : Host.Outcome State Fault Refusal := gangOp (.mmaFb o) (mmaGang (OpMma.form o true)) s
/-- `mma.sp8` (R361), flag A. -/
def execMmaSp8Fa (o : OpMma8) (s : State) : Host.Outcome State Fault Refusal := gangOp (.mmaSp8Fa o) (mmaGang (OpMma8.form o false)) s
/-- `mma.sp8` (R361), flag B. -/
def execMmaSp8Fb (o : OpMma8) (s : State) : Host.Outcome State Fault Refusal := gangOp (.mmaSp8Fb o) (mmaGang (OpMma8.form o true)) s

/-! ### Performing (R361, R129) -/

/-- Elements kept of each group of 32. -/
def keptOf (fmt major : Nat) : Nat := if fmt < 16 then 32 else if isSp8 major then 8 else 16

/-- The element format of a matrix format code (Table 5-7). -/
def fmtElem (fmt : Nat) : Elem := elemOfCode (fmt % 16)

/-- The mask of row i of a sparse tile (R358). -/
def rowMask (s : State) (t : Tile) (i : Nat) : Nat := tileNat s t (512 * (t.chunks.length - 1) + 4 * i) 4

/-- The number of the row's value that stands for k; none for an element not kept (DEDUCED, log 37). -/
def keptIndex (fmt mask k : Nat) : Option Nat := if fmt < 16 then some k else if bit mask k then some (popCount mask k) else none

/-- A value of the bypass latch, rounded to the element format (R368); one beyond the latch is left open (DESIGN CHOICE, log 6). -/
def latchElem (e : Elem) (l : List Byte) (j n : Nat) : Nat :=
  if 4 * j + 4 ≤ l.length then convert (.fl fFP32) (elemNum e) .rn false (byteField l (4 * j) 4) else Config.free n / 2 ^ (64 * j) % 2 ^ (elemShape e).1

/-- The codes of row i; none for an element not kept. -/
def rowCodes (s : State) (t : Tile) (fmt major : Nat) (latch : Option (List Byte)) (i : Nat) : List (Option Nat) :=
  let r := rowBytes fmt (isSp8 major)
  let v := tileNat s t (r * i) r
  let mask := rowMask s t i
  (List.range 32).map fun k => (keptIndex fmt mask k).map fun j => match latch with
    | some l => latchElem (fmtElem fmt) l (keptOf fmt major * i + j) s.sched.draws
    | none => slotElem (fmtElem fmt) v j

/-- What a check of A's rows finds, made before any element is written (R465, kinds 4 and 5). -/
def rowFault (s : State) (t : Tile) (fmt major : Nat) (latched : Bool) (i : Nat) : Option Word :=
  let r := rowBytes fmt (isSp8 major)
  let spare := if (elemShape (fmtElem fmt)).2 && !latched then
    (List.range (r / 16)).find? fun j => 2 ^ 126 ≤ tileNat s t (r * i + 16 * j) 16 else none
  match spare with
  | some j => some (kindInfo 5 (r * i + 16 * j))
  | none => if 16 ≤ fmt ∧ popCount (rowMask s t i) 32 ≠ keptOf fmt major then some (kindInfo 4 i) else none

/-- The exact sum of some values (R129) (DEDUCED, log 37). -/
def sumFl : List Fl → Fl
  | [] => .num false 0 1
  | x :: xs => xs.foldl (Fl.add .rn) x

/-- One block of products added to an accumulator word (R129, R361). -/
def mmaElem (e : Elem) (row : List (Option Nat)) (col : List Nat) (d : Nat) : Nat :=
  let pairs := row.zip col
  match elemNum e with
  | .fl f => roundF fFP32 .rn (Fl.add .rn (decodeF fFP32 d) (sumFl (pairs.map fun p =>
      Fl.mul (match p.1 with
        | some c => decodeF f c
        | none => .num false 0 1) (decodeF f p.2))))
  | .int sg n => wrapInt 32 ((d : Int) + (pairs.map fun p => (match p.1 with
      | some c => intOf sg n c
      | none => 0) * intOf sg n p.2).sum)

/-- The column that a signature gives. -/
def columnOf (e : Elem) (g : Sig) : List Nat :=
  let v := joinElems 64 (g.b.map (·.toNat))
  (List.range 32).map (slotElem e v)

/-- Writes element (i, p) of D for every row and signing position (R361). -/
def mmaTile (s : State) (a d : Tile) (fmt major w : Nat) (sigs : List Sig) (latch : Option (List Byte)) : State :=
  (List.range (rowCount fmt (isSp8 major) a.chunks.length)).foldl (fun st i =>
    let row := rowCodes s a fmt major latch i
    sigs.foldl (fun st g =>
      let off := 4 * (i * w + g.pos)
      putTile st d off (bytesOfNat (mmaElem (fmtElem fmt) row (columnOf (fmtElem fmt) g) (tileNat st d off 4)) 4)) st) s

/-- Performs a matrix operation, or names every signer with the cause that it met (R361, R455, R465). -/
def performMma (s : State) (id : Nat) (op : Op) (fmt major ta td w : Nat) (sigs : List Sig) (latch : Option (List Byte)) : State :=
  let done := endOp (s.modCore op.core fun c => { c with running := none }) id
  match s.tiles.get? ta, s.tiles.get? td with
  | some a, some d =>
    match tilePoison done { a with chunks := a.chunks ++ d.chunks } with
    | (s1, some f) => releaseTiles (dropSigs s1 sigs f.1 f.2)
    | (s1, none) =>
      match (List.range (rowCount fmt (isSp8 major) a.chunks.length)).findSome? (rowFault s1 a fmt major latch.isSome) with
      | some info => releaseTiles (dropSigs s1 sigs cOperand info)
      | none =>
        let s2 := mmaTile s1 a d fmt major w sigs latch
        releaseTiles (decFlags (if latch.isSome then s2.draw.2 else s2) op.decs)
  | _, _ => releaseTiles (decFlags done op.decs)

/-- The head of a core's matrix queue starts when the engine is free and the scoreboard allows (R363) (DEDUCED, log 37). -/
def startMatrix (s : State) (core : Nat) : State :=
  let c := s.core core
  match c.running, c.matq with
  | none, id :: rest =>
    match s.ops.get? id with
    | some op => if scoreboardFree s id op then s.setCore core { c with running := some id, matq := rest } else s
    | none => s.setCore core { c with matq := rest }
  | _, _ => s

/-- Start of queued matrix operations (R363). -/
def execMatrixOperationStart (s : State) : Host.Outcome State Fault Refusal := .next ((s.cores.map (·.1)).foldl startMatrix s)

/-- Completion of a core's matrix operation (R362, R363). -/
def execMatrixOperationCompletion (core : Nat) (s : State) : Host.Outcome State Fault Refusal :=
  .next (match (s.core core).running with
    | none => s
    | some id =>
      match s.ops.get? id with
      | some op =>
        match op.job with
        | .mma fmt major ta td w _ sigs latch => performMma s id op fmt major ta td w sigs latch
        | _ => s.modCore core fun c => { c with running := none }
      | none => s.modCore core fun c => { c with running := none })

end Sys2Proof.Machine
end

