-- ==== Sys2Proof/Machine/Short.lean ====
section
/-! DEFINITION. The 16-bit forms (spec 11 R267): each has the effect of the 32-bit instruction that Table 11-7 names. -/

namespace Sys2Proof.Machine

/-- A 16-bit form on whole words: D and A to D. -/
def shortOp (i : Instr) (o : OpS) (f : Word → Word → Word) (s : State) : Host.Outcome State Fault Refusal :=
  regOp i o.d (fun s t => f (s.gr t o.d.val) (s.gr t o.a.val)) s

/-- A 16-bit float form: elements of D and A to D. -/
def shortFloat (i : Instr) (o : OpS) (ft : Ft) (f : RMode → Fl → Fl → Fl) (s : State) : Host.Outcome State Fault Refusal :=
  regOp i o.d (fun s t => map3 ft.fmt.width (fun d a _ => s.roundTo ft.fmt (f s.mode (decodeF ft.fmt d) (decodeF ft.fmt a)))
    (s.gr t o.d.val) (s.gr t o.a.val) 0) s

/-- A 16-bit form with an immediate. -/
def shortImm (i : Instr) (o : OpSI) (f : Word → Word) (s : State) : Host.Outcome State Fault Refusal :=
  regOp i o.d (fun s t => f (s.gr t o.d.val)) s

/-- `add.s64 D, D, A`. -/
def execAdd16 (o : OpS) (s : State) : Host.Outcome State Fault Refusal :=
  shortOp (.add16 o) o (fun d a => d + a) s
/-- `sub.s64 D, D, A`. -/
def execSub16 (o : OpS) (s : State) : Host.Outcome State Fault Refusal :=
  shortOp (.sub16 o) o (fun d a => d - a) s
/-- `and.b64 D, D, A`. -/
def execAnd16 (o : OpS) (s : State) : Host.Outcome State Fault Refusal :=
  shortOp (.and16 o) o (fun d a => d &&& a) s
/-- `or.b64 D, D, A`. -/
def execOr16 (o : OpS) (s : State) : Host.Outcome State Fault Refusal :=
  shortOp (.or16 o) o (fun d a => d ||| a) s
/-- `xor.b64 D, D, A`. -/
def execXor16 (o : OpS) (s : State) : Host.Outcome State Fault Refusal :=
  shortOp (.xor16 o) o (fun d a => d ^^^ a) s
/-- `mov.b64 D, A`. -/
def execMov16 (o : OpS) (s : State) : Host.Outcome State Fault Refusal :=
  shortOp (.mov16 o) o (fun _ a => a) s
/-- `add.f32 D, D, A`. -/
def execFadd16 (o : OpS) (s : State) : Host.Outcome State Fault Refusal :=
  shortFloat (.fadd16 o) o .f32 (fun m d a => Fl.add m d a) s
/-- `mul.f32 D, D, A`. -/
def execFmul16 (o : OpS) (s : State) : Host.Outcome State Fault Refusal :=
  shortFloat (.fmul16 o) o .f32 (fun _ d a => Fl.mul d a) s
/-- `sub.f32 D, D, A`. -/
def execFsub16 (o : OpS) (s : State) : Host.Outcome State Fault Refusal :=
  shortFloat (.fsub16 o) o .f32 (fun m d a => Fl.sub m d a) s
/-- `add.4f16 D, D, A`. -/
def execHadd16 (o : OpS) (s : State) : Host.Outcome State Fault Refusal :=
  shortFloat (.hadd16 o) o .f16 (fun m d a => Fl.add m d a) s
/-- `mul.4f16 D, D, A`. -/
def execHmul16 (o : OpS) (s : State) : Host.Outcome State Fault Refusal :=
  shortFloat (.hmul16 o) o .f16 (fun _ d a => Fl.mul d a) s
/-- `add.s64 D, D, #i`. -/
def execAddi16 (o : OpSI) (s : State) : Host.Outcome State Fault Refusal :=
  shortImm (.addi16 o) o (fun d => d + o.i.signExtend 64) s
/-- `mov.s64 D, #i`. -/
def execMovi16 (o : OpSI) (s : State) : Host.Outcome State Fault Refusal :=
  shortImm (.movi16 o) o (fun _ => o.i.signExtend 64) s
/-- `shl.b64 D, D, #n`. -/
def execShli16 (o : OpSI) (s : State) : Host.Outcome State Fault Refusal :=
  shortImm (.shli16 o) o (fun d => d <<< o.i.toNat) s
/-- `shr.b64 D, D, #n`. -/
def execShri16 (o : OpSI) (s : State) : Host.Outcome State Fault Refusal :=
  shortImm (.shri16 o) o (fun d => d >>> o.i.toNat) s
/-- `sar.s64 D, D, #n`. -/
def execSari16 (o : OpSI) (s : State) : Host.Outcome State Fault Refusal :=
  shortImm (.sari16 o) o (fun d => d.sshiftRight o.i.toNat) s

end Sys2Proof.Machine
end

