-- ==== Sys2Proof/Machine/Dispatch.lean ====
section
/-! DEFINITION. One arm per instruction: the call of its meaning. -/

namespace Sys2Proof.Machine

def exec (i : Instr) (s : State) : Host.Outcome State Fault Refusal :=
  match i with
  | .add o => Sys2Proof.Machine.execAdd o s
  | .sub o => Sys2Proof.Machine.execSub o s
  | .mul o => Sys2Proof.Machine.execMul o s
  | .mulhiS o => Sys2Proof.Machine.execMulhiS o s
  | .mulhiN o => Sys2Proof.Machine.execMulhiN o s
  | .addsatS o => Sys2Proof.Machine.execAddsatS o s
  | .addsatN o => Sys2Proof.Machine.execAddsatN o s
  | .subsatS o => Sys2Proof.Machine.execSubsatS o s
  | .subsatN o => Sys2Proof.Machine.execSubsatN o s
  | .minS o => Sys2Proof.Machine.execMinS o s
  | .minN o => Sys2Proof.Machine.execMinN o s
  | .maxS o => Sys2Proof.Machine.execMaxS o s
  | .maxN o => Sys2Proof.Machine.execMaxN o s
  | .andOp o => Sys2Proof.Machine.execAndOp o s
  | .orOp o => Sys2Proof.Machine.execOrOp o s
  | .xor o => Sys2Proof.Machine.execXor o s
  | .andn o => Sys2Proof.Machine.execAndn o s
  | .shl o => Sys2Proof.Machine.execShl o s
  | .shr o => Sys2Proof.Machine.execShr o s
  | .sar o => Sys2Proof.Machine.execSar o s
  | .rotl o => Sys2Proof.Machine.execRotl o s
  | .bfeS o => Sys2Proof.Machine.execBfeS o s
  | .bfeN o => Sys2Proof.Machine.execBfeN o s
  | .bfi o => Sys2Proof.Machine.execBfi o s
  | .madd o => Sys2Proof.Machine.execMadd o s
  | .sel o => Sys2Proof.Machine.execSel o s
  | .popc o => Sys2Proof.Machine.execPopc o s
  | .clz o => Sys2Proof.Machine.execClz o s
  | .ctz o => Sys2Proof.Machine.execCtz o s
  | .brev o => Sys2Proof.Machine.execBrev o s
  | .addImm o => Sys2Proof.Machine.execAddImm o s
  | .andImm o => Sys2Proof.Machine.execAndImm o s
  | .shlImm o => Sys2Proof.Machine.execShlImm o s
  | .shrImm o => Sys2Proof.Machine.execShrImm o s
  | .sarImm o => Sys2Proof.Machine.execSarImm o s
  | .rotlImm o => Sys2Proof.Machine.execRotlImm o s
  | .movz o => Sys2Proof.Machine.execMovz o s
  | .movk o => Sys2Proof.Machine.execMovk o s
  | .addF o => Sys2Proof.Machine.execAddF o s
  | .subF o => Sys2Proof.Machine.execSubF o s
  | .mulF o => Sys2Proof.Machine.execMulF o s
  | .fma o => Sys2Proof.Machine.execFma o s
  | .minF o => Sys2Proof.Machine.execMinF o s
  | .maxF o => Sys2Proof.Machine.execMaxF o s
  | .classOp o => Sys2Proof.Machine.execClassOp o s
  | .rnd o => Sys2Proof.Machine.execRnd o s
  | .cmpS o => Sys2Proof.Machine.execCmpS o s
  | .cmpN o => Sys2Proof.Machine.execCmpN o s
  | .cmpF32F64 o => Sys2Proof.Machine.execCmpF32F64 o s
  | .cmpF16Bf16 o => Sys2Proof.Machine.execCmpF16Bf16 o s
  | .cvt o => Sys2Proof.Machine.execCvt o s
  | .rcp o => Sys2Proof.Machine.execRcp o s
  | .sqrt o => Sys2Proof.Machine.execSqrt o s
  | .rsqrt o => Sys2Proof.Machine.execRsqrt o s
  | .log2 o => Sys2Proof.Machine.execLog2 o s
  | .exp2 o => Sys2Proof.Machine.execExp2 o s
  | .tolog o => Sys2Proof.Machine.execTolog o s
  | .fromlog o => Sys2Proof.Machine.execFromlog o s
  | .lsqrt o => Sys2Proof.Machine.execLsqrt o s
  | .lrcp o => Sys2Proof.Machine.execLrcp o s
  | .lmul o => Sys2Proof.Machine.execLmul o s
  | .ldiv o => Sys2Proof.Machine.execLdiv o s
  | .lpow o => Sys2Proof.Machine.execLpow o s
  | .plop o => Sys2Proof.Machine.execPlop o s
  | .bra o => Sys2Proof.Machine.execBra o s
  | .call o => Sys2Proof.Machine.execCall o s
  | .jmp o => Sys2Proof.Machine.execJmp o s
  | .jset o => Sys2Proof.Machine.execJset o s
  | .jarrive n => Sys2Proof.Machine.execJarrive n s
  | .jwait o => Sys2Proof.Machine.execJwait o s
  | .shfl o => Sys2Proof.Machine.execShfl o s
  | .shfliIdx o => Sys2Proof.Machine.execShfliIdx o s
  | .shfliUp o => Sys2Proof.Machine.execShfliUp o s
  | .shfliDown o => Sys2Proof.Machine.execShfliDown o s
  | .shfliXor o => Sys2Proof.Machine.execShfliXor o s
  | .bcast o => Sys2Proof.Machine.execBcast o s
  | .voteAny o => Sys2Proof.Machine.execVoteAny o s
  | .voteAll o => Sys2Proof.Machine.execVoteAll o s
  | .voteUni o => Sys2Proof.Machine.execVoteUni o s
  | .ballot o => Sys2Proof.Machine.execBallot o s
  | .matchOp o => Sys2Proof.Machine.execMatchOp o s
  | .reduceAdd o => Sys2Proof.Machine.execReduceAdd o s
  | .reduceMin o => Sys2Proof.Machine.execReduceMin o s
  | .reduceMax o => Sys2Proof.Machine.execReduceMax o s
  | .xmovG o => Sys2Proof.Machine.execXmovG o s
  | .xmovW o => Sys2Proof.Machine.execXmovW o s
  | .addU o => Sys2Proof.Machine.execAddU o s
  | .subU o => Sys2Proof.Machine.execSubU o s
  | .andU o => Sys2Proof.Machine.execAndU o s
  | .orU o => Sys2Proof.Machine.execOrU o s
  | .xorU o => Sys2Proof.Machine.execXorU o s
  | .shlU o => Sys2Proof.Machine.execShlU o s
  | .shrU o => Sys2Proof.Machine.execShrU o s
  | .mulU o => Sys2Proof.Machine.execMulU o s
  | .addUimm o => Sys2Proof.Machine.execAddUimm o s
  | .movkU o => Sys2Proof.Machine.execMovkU o s
  | .ldS8 o => Sys2Proof.Machine.execLdS8 o s
  | .ldN8 o => Sys2Proof.Machine.execLdN8 o s
  | .ldS16 o => Sys2Proof.Machine.execLdS16 o s
  | .ldN16 o => Sys2Proof.Machine.execLdN16 o s
  | .ldS32 o => Sys2Proof.Machine.execLdS32 o s
  | .ldN32 o => Sys2Proof.Machine.execLdN32 o s
  | .ldB64 o => Sys2Proof.Machine.execLdB64 o s
  | .ldq o => Sys2Proof.Machine.execLdq o s
  | .stB8 o => Sys2Proof.Machine.execStB8 o s
  | .stB16 o => Sys2Proof.Machine.execStB16 o s
  | .stB32 o => Sys2Proof.Machine.execStB32 o s
  | .stB64 o => Sys2Proof.Machine.execStB64 o s
  | .stq o => Sys2Proof.Machine.execStq o s
  | .ldrl o => Sys2Proof.Machine.execLdrl o s
  | .atom o => Sys2Proof.Machine.execAtom o s
  | .ared o => Sys2Proof.Machine.execAred o s
  | .trap c => Sys2Proof.Machine.execTrap c s
  | .bobjArrive o => Sys2Proof.Machine.execBobjArrive o s
  | .bobjExpect o => Sys2Proof.Machine.execBobjExpect o s
  | .bobjInit o => Sys2Proof.Machine.execBobjInit o s
  | .waitaPhase o => Sys2Proof.Machine.execWaitaPhase o s
  | .waitaGe o => Sys2Proof.Machine.execWaitaGe o s
  | .waitaEq o => Sys2Proof.Machine.execWaitaEq o s
  | .waitm o => Sys2Proof.Machine.execWaitm o s
  | .pop o => Sys2Proof.Machine.execPop o s
  | .push o => Sys2Proof.Machine.execPush o s
  | .qpost o => Sys2Proof.Machine.execQpost o s
  | .copy o => Sys2Proof.Machine.execCopy o s
  | .permit o => Sys2Proof.Machine.execPermit o s
  | .grow o => Sys2Proof.Machine.execGrow o s
  | .smov o => Sys2Proof.Machine.execSmov o s
  | .mrd o => Sys2Proof.Machine.execMrd o s
  | .mwr o => Sys2Proof.Machine.execMwr o s
  | .pref o => Sys2Proof.Machine.execPref o s
  | .talloc o => Sys2Proof.Machine.execTalloc o s
  | .tfree h => Sys2Proof.Machine.execTfree h s
  | .thand o => Sys2Proof.Machine.execThand o s
  | .tacc o => Sys2Proof.Machine.execTacc o s
  | .tld o => Sys2Proof.Machine.execTld o s
  | .tst o => Sys2Proof.Machine.execTst o s
  | .tzero h => Sys2Proof.Machine.execTzero h s
  | .tcvt o => Sys2Proof.Machine.execTcvt o s
  | .tqry o => Sys2Proof.Machine.execTqry o s
  | .scaleacc o => Sys2Proof.Machine.execScaleacc o s
  | .tdrainH o => Sys2Proof.Machine.execTdrainH o s
  | .tdrainPeer o => Sys2Proof.Machine.execTdrainPeer o s
  | .tdrainByp o => Sys2Proof.Machine.execTdrainByp o s
  | .mmaFa o => Sys2Proof.Machine.execMmaFa o s
  | .mmaFb o => Sys2Proof.Machine.execMmaFb o s
  | .mmaSp8Fa o => Sys2Proof.Machine.execMmaSp8Fa o s
  | .mmaSp8Fb o => Sys2Proof.Machine.execMmaSp8Fb o s
  | .edge o => Sys2Proof.Machine.execEdge o s
  | .interpPersp o => Sys2Proof.Machine.execInterpPersp o s
  | .interpLin o => Sys2Proof.Machine.execInterpLin o s
  | .interpFlat o => Sys2Proof.Machine.execInterpFlat o s
  | .deriv o => Sys2Proof.Machine.execDeriv o s
  | .texs o => Sys2Proof.Machine.execTexs o s
  | .texg o => Sys2Proof.Machine.execTexg o s
  | .imld o => Sys2Proof.Machine.execImld o s
  | .imst o => Sys2Proof.Machine.execImst o s
  | .exportOp o => Sys2Proof.Machine.execExportOp o s
  | .infq o => Sys2Proof.Machine.execInfq o s
  | .rqbegin o => Sys2Proof.Machine.execRqbegin o s
  | .rqset o => Sys2Proof.Machine.execRqset o s
  | .rqstep d => Sys2Proof.Machine.execRqstep d s
  | .rqcommit d => Sys2Proof.Machine.execRqcommit d s
  | .rqget o => Sys2Proof.Machine.execRqget o s
  | .rqreport o => Sys2Proof.Machine.execRqreport o s
  | .card o => Sys2Proof.Machine.execCard o s
  | .bld o => Sys2Proof.Machine.execBld o s
  | .gpin o => Sys2Proof.Machine.execGpin o s
  | .gunpin o => Sys2Proof.Machine.execGunpin o s
  | .gqry o => Sys2Proof.Machine.execGqry o s
  | .pureOp o => Sys2Proof.Machine.execPureOp o s
  | .mkey o => Sys2Proof.Machine.execMkey o s
  | .mexcl o => Sys2Proof.Machine.execMexcl o s
  | .mprobe o => Sys2Proof.Machine.execMprobe o s
  | .mstore o => Sys2Proof.Machine.execMstore o s
  | .add16 o => Sys2Proof.Machine.execAdd16 o s
  | .sub16 o => Sys2Proof.Machine.execSub16 o s
  | .and16 o => Sys2Proof.Machine.execAnd16 o s
  | .or16 o => Sys2Proof.Machine.execOr16 o s
  | .xor16 o => Sys2Proof.Machine.execXor16 o s
  | .mov16 o => Sys2Proof.Machine.execMov16 o s
  | .addi16 o => Sys2Proof.Machine.execAddi16 o s
  | .movi16 o => Sys2Proof.Machine.execMovi16 o s
  | .shli16 o => Sys2Proof.Machine.execShli16 o s
  | .shri16 o => Sys2Proof.Machine.execShri16 o s
  | .fadd16 o => Sys2Proof.Machine.execFadd16 o s
  | .fmul16 o => Sys2Proof.Machine.execFmul16 o s
  | .fsub16 o => Sys2Proof.Machine.execFsub16 o s
  | .hadd16 o => Sys2Proof.Machine.execHadd16 o s
  | .hmul16 o => Sys2Proof.Machine.execHmul16 o s
  | .sari16 o => Sys2Proof.Machine.execSari16 o s
  | .guardPrefix neg p => Sys2Proof.Machine.execGuardPrefix neg p s
  | .modePrefix ftz m => Sys2Proof.Machine.execModePrefix ftz m s
  | .issueSelection core => Sys2Proof.Machine.execIssueSelection core s
  | .memoryAccessPerformed acc => Sys2Proof.Machine.execMemoryAccessPerformed acc s
  | .trapEntryQueue gang => Sys2Proof.Machine.execTrapEntryQueue gang s
  | .trapDelivery gang => Sys2Proof.Machine.execTrapDelivery gang s
  | .asyncTrapEntry th => Sys2Proof.Machine.execAsyncTrapEntry th s
  | .waitaRetest th => Sys2Proof.Machine.execWaitaRetest th s
  | .matrixOperationCompletion core => Sys2Proof.Machine.execMatrixOperationCompletion core s
  | .peerDrainAdd op => Sys2Proof.Machine.execPeerDrainAdd op s
  | .copyCompletion op => Sys2Proof.Machine.execCopyCompletion op s
  | .chunkPushLanding op => Sys2Proof.Machine.execChunkPushLanding op s
  | .transformCompletion op => Sys2Proof.Machine.execTransformCompletion op s
  | .copyPacket q => Sys2Proof.Machine.execCopyPacket q s
  | .gatherPacket q => Sys2Proof.Machine.execGatherPacket q s
  | .placement core => Sys2Proof.Machine.execPlacement core s
  | .walkCompletion acc => Sys2Proof.Machine.execWalkCompletion acc s
  | .pageIn ctx va readOk writeOk => Sys2Proof.Machine.execPageIn ctx va readOk writeOk s
  | .sliceRequest slice node stamp => Sys2Proof.Machine.execSliceRequest slice node stamp s
  | .bankTransition cl bank => Sys2Proof.Machine.execBankTransition cl bank s
  | .geometryBatch frame batch => Sys2Proof.Machine.execGeometryBatch frame batch s
  | .binWriterAppend frame inst => Sys2Proof.Machine.execBinWriterAppend frame inst s
  | .rasterPhaseStart frame => Sys2Proof.Machine.execRasterPhaseStart frame s
  | .coarseRasterTile frame inst => Sys2Proof.Machine.execCoarseRasterTile frame inst s
  | .outputMergeExport frame exp => Sys2Proof.Machine.execOutputMergeExport frame exp s
  | .frameCompletion frame => Sys2Proof.Machine.execFrameCompletion frame s
  | .infqBatchCompletion team => Sys2Proof.Machine.execInfqBatchCompletion team s
  | .build op => Sys2Proof.Machine.execBuild op s
  | .refit op => Sys2Proof.Machine.execRefit op s
  | .rebalance op => Sys2Proof.Machine.execRebalance op s
  | .publish op => Sys2Proof.Machine.execPublish op s
  | .sensorWrite pa data => Sys2Proof.Machine.execSensorWrite pa data s
  | .hostWrite pa data poisoned => Sys2Proof.Machine.execHostWrite pa data poisoned s
  | .hostRead pa n => Sys2Proof.Machine.execHostRead pa n s
  | .hostAtomic op pa v c => Sys2Proof.Machine.execHostAtomic op pa v c s
  | .hostSnoop ha data => Sys2Proof.Machine.execHostSnoop ha data s
  | .peerAck acc ok => Sys2Proof.Machine.execPeerAck acc ok s
  | .linkSpeedChange rate width => Sys2Proof.Machine.execLinkSpeedChange rate width s
  | .peerPortDown port => Sys2Proof.Machine.execPeerPortDown port s
  | .eccError site corrected => Sys2Proof.Machine.execEccError site corrected s
  | .fabricHop pkt => Sys2Proof.Machine.execFabricHop pkt s
  | .thermalSensorUpdate temps => Sys2Proof.Machine.execThermalSensorUpdate temps s
  | .start r => Sys2Proof.Machine.execStart r s
  | .clusterBankmodeWrite cl v => Sys2Proof.Machine.execClusterBankmodeWrite cl v s
  | .memoTableWrite cl t v => Sys2Proof.Machine.execMemoTableWrite cl t v s
  | .memoAuditRead cl => Sys2Proof.Machine.execMemoAuditRead cl s
  | .pwrEnergyLoRead host => Sys2Proof.Machine.execPwrEnergyLoRead host s
  | .errlogCommit v => Sys2Proof.Machine.execErrlogCommit v s
  | .thermCtlWrite v => Sys2Proof.Machine.execThermCtlWrite v s
  | .registerWrite addr v => Sys2Proof.Machine.execRegisterWrite addr v s
  | .tileOperationCompletion op => Sys2Proof.Machine.execTileOperationCompletion op s
  | .peerPortUp port => Sys2Proof.Machine.execPeerPortUp port s
  | .clusterRateWrite cl v byMgmt => Sys2Proof.Machine.execClusterRateWrite cl v byMgmt s
  | .nop => Sys2Proof.Machine.execNop s
  | .fenceAcq => Sys2Proof.Machine.execFenceAcq s
  | .fenceRel => Sys2Proof.Machine.execFenceRel s
  | .fenceAr => Sys2Proof.Machine.execFenceAr s
  | .bar => Sys2Proof.Machine.execBar s
  | .barG => Sys2Proof.Machine.execBarG s
  | .yield => Sys2Proof.Machine.execYield s
  | .tret => Sys2Proof.Machine.execTret s
  | .discard => Sys2Proof.Machine.execDiscard s
  | .pend => Sys2Proof.Machine.execPend s
  | .exit => Sys2Proof.Machine.execExit s
  | .rqend => Sys2Proof.Machine.execRqend s
  | .barrierWave => Sys2Proof.Machine.execBarrierWave s
  | .repack => Sys2Proof.Machine.execRepack s
  | .tileRelease => Sys2Proof.Machine.execTileRelease s
  | .matrixOperationStart => Sys2Proof.Machine.execMatrixOperationStart s
  | .launchPacket => Sys2Proof.Machine.execLaunchPacket s
  | .drawPacket => Sys2Proof.Machine.execDrawPacket s
  | .dependencyPacket => Sys2Proof.Machine.execDependencyPacket s
  | .pipelineLaunch => Sys2Proof.Machine.execPipelineLaunch s
  | .fill => Sys2Proof.Machine.execFill s
  | .convert => Sys2Proof.Machine.execConvert s
  | .recode => Sys2Proof.Machine.execRecode s
  | .slotTableEdit => Sys2Proof.Machine.execSlotTableEdit s
  | .slotTableEditApply => Sys2Proof.Machine.execSlotTableEditApply s
  | .dependenceReevaluation => Sys2Proof.Machine.execDependenceReevaluation s
  | .teamAssignment => Sys2Proof.Machine.execTeamAssignment s
  | .forageRequest => Sys2Proof.Machine.execForageRequest s
  | .forageReply => Sys2Proof.Machine.execForageReply s
  | .forageRetry => Sys2Proof.Machine.execForageRetry s
  | .localSizeWaitExpiry => Sys2Proof.Machine.execLocalSizeWaitExpiry s
  | .pipelineInstanceStart => Sys2Proof.Machine.execPipelineInstanceStart s
  | .balancerInterval => Sys2Proof.Machine.execBalancerInterval s
  | .preemptionWaitExpiry => Sys2Proof.Machine.execPreemptionWaitExpiry s
  | .drainLimitExpiry => Sys2Proof.Machine.execDrainLimitExpiry s
  | .urgentAcceptance => Sys2Proof.Machine.execUrgentAcceptance s
  | .urgentTeamAssignment => Sys2Proof.Machine.execUrgentTeamAssignment s
  | .urgentRestore => Sys2Proof.Machine.execUrgentRestore s
  | .yieldSaveComplete => Sys2Proof.Machine.execYieldSaveComplete s
  | .missEntryRetry => Sys2Proof.Machine.execMissEntryRetry s
  | .sliceRetry => Sys2Proof.Machine.execSliceRetry s
  | .infqBatchLaunch => Sys2Proof.Machine.execInfqBatchLaunch s
  | .peerAckTimeout => Sys2Proof.Machine.execPeerAckTimeout s
  | .hostLinkDown => Sys2Proof.Machine.execHostLinkDown s
  | .hostLinkUp => Sys2Proof.Machine.execHostLinkUp s
  | .turnBufferReinject => Sys2Proof.Machine.execTurnBufferReinject s
  | .governorInterval => Sys2Proof.Machine.execGovernorInterval s
  | .thermalEmergency => Sys2Proof.Machine.execThermalEmergency s
  | .thermalRelease => Sys2Proof.Machine.execThermalRelease s
  | .thermalShutdown => Sys2Proof.Machine.execThermalShutdown s
  | .errlogAppend => Sys2Proof.Machine.execErrlogAppend s
  | .msixVector1Timer => Sys2Proof.Machine.execMsixVector1Timer s
  | .startStepTimeout => Sys2Proof.Machine.execStartStepTimeout s
  | .ctxCreate => Sys2Proof.Machine.execCtxCreate s
  | .ctxDestroy => Sys2Proof.Machine.execCtxDestroy s
  | .queueCreate => Sys2Proof.Machine.execQueueCreate s
  | .queueDestroy => Sys2Proof.Machine.execQueueDestroy s
  | .mapEntry => Sys2Proof.Machine.execMapEntry s
  | .mapInvalidate => Sys2Proof.Machine.execMapInvalidate s
  | .mapBankmode => Sys2Proof.Machine.execMapBankmode s
  | .mapMemoTable => Sys2Proof.Machine.execMapMemoTable s
  | .codebook => Sys2Proof.Machine.execCodebook s
  | .memoMode => Sys2Proof.Machine.execMemoMode s
  | .powerLimit => Sys2Proof.Machine.execPowerLimit s
  | .health => Sys2Proof.Machine.execHealth s
  | .startRecordRead => Sys2Proof.Machine.execStartRecordRead s
  | .startRecordReplace => Sys2Proof.Machine.execStartRecordReplace s
  | .preempt => Sys2Proof.Machine.execPreempt s
  | .sensorWin => Sys2Proof.Machine.execSensorWin s
  | .peer => Sys2Proof.Machine.execPeer s
  | .paging => Sys2Proof.Machine.execPaging s
  | .errlog => Sys2Proof.Machine.execErrlog s
  | .badopc => Sys2Proof.Machine.execBadopc s

end Sys2Proof.Machine
end

