-- ==== Sys2Proof/Machine/Load.lean ====
section
/-! DEFINITION. A program of one instruction, loaded from outside the machine (DESIGN CHOICE, log 7): context 1 with an identity map, one
team of one thread on core 0, and its group at the header of a clause that holds the instruction. -/

namespace Sys2Proof.Machine

/-- Where the clause header of the loaded program stands, and its root and level-1 tables. -/
def placedPc : Nat := 0x10000
def placedRoot : Nat := 0x1000
def placedTable : Nat := 0x2000

/-- The header: a body of two halfwords, set A flag 0 and set B flag 1. -/
def placedHeader : Nat := 0x00800005

/-- The loaded program's thread and gang: width 8, position 0, d = 64, 8 join registers. -/
def placedThread : Thread := { Thread.resetMgmt with gang := 1, pc := placedPc, after := placedPc }
def placedGang : Gang :=
  { Gang.resetMgmt with team := 1, core := 0, at_ := some 1 :: List.replicate 7 Option.none, words := [(0, 64)] :: List.replicate 7 [],
                        jregs := List.range 8 }

/-- Its team, with 4,096 bytes of local memory, and its grid. -/
def placedTeam : Team := { Team.resetMgmt with grid := 1, cores := [0], gangs := [1], localSize := 4096, entry := placedPc }
def placedGrid : Grid :=
  { Grid.resetMgmt with ctx := 1, launch := { Grid.resetMgmt.launch with entry := placedPc, loc := 1 } }

/-- The bytes of the tables, the header and the instruction's word (DESIGN CHOICE, log 7). -/
def placedCells (m : List Host.Cell) (w : Nat) : List Host.Cell :=
  writeCells (writeCells (writeCells m placedRoot (bytesOfNat (placedTable + 1) 8)) placedTable (bytesOfNat 0x0B 8)) placedPc
    (bytesOfNat placedHeader 4 ++ bytesOfNat w 4)

/-- A state with a word of 32 bits loaded as the next instruction (DESIGN CHOICE, log 7). -/
def State.loaded (s : State) (w : Nat) : State :=
  { s with
    mem := { s.mem with cells := placedCells s.mem.cells w }
    clusters := s.clusters.set 0 { Cluster.initial with bankMode := 1, banks := (List.replicate 32 ⟨0, none⟩).set 0 ⟨1, none⟩ }
    threads := s.threads.set 1 placedThread
    gangs := s.gangs.set 1 placedGang
    teams := s.teams.set 1 placedTeam
    grids := s.grids.set 1 placedGrid
    ctxs := s.ctxs.set 1 { Context.none with root := placedRoot }
    mgmt := { s.mgmt with ready := [2 ^ 64 - 1, 2 ^ 50 - 1, 2 ^ 23 - 1] }
    grp := { Group.empty with core := 0, threads := [1], pc := placedPc, cursor := placedPc }
    grp2 := none
    sched := { s.sched with nextId := max 2 s.sched.nextId } }

end Sys2Proof.Machine
end

