-- ==== Sys2Proof/Machine/Step.lean ====
section
/-! DEFINITION. One step of the device: the group being carried reads and executes its next instruction; else the second
group of the slot comes next; else the next due step of another agent; else a tick. And the placing of one instruction
where the next step reads it. -/

namespace Sys2Proof.Machine

/-- One step (DESIGN CHOICE, log 3). -/
def step (s : State) : Host.Outcome State Fault Refusal :=
  match s.grp.threads with
  | _ :: _ =>
    match fetchNext s with
    | (s1, some i) => exec i s1
    | (s1, none) => .next s1
  | [] =>
    match s.grp2 with
    | some g => .next { s with grp := stillReady s g, grp2 := none }
    | none =>
      match s.sched.agenda with
      | i :: rest => exec i { s with sched := { s.sched with agenda := rest } }
      | [] => .next (tick s)

/-- A state with an instruction's word stored where the next step fetches it (DESIGN CHOICE, log 7). -/
def State.withFetchWord (s : State) (nbits w : Nat) : State := s.loaded (w % 2 ^ nbits)

end Sys2Proof.Machine
end

