-- ==== Sys2Proof/Safety.lean ====
section
/-! DEFINITION. What counts as a safe step and a safe run, and the terms in which statements about instructions are written:
a group that carries an instruction without an exception of its own, what goes on after it, and what it leaves alone. -/

namespace Sys2Proof

open Machine

/-- The step at a state answers a next state. -/
def stepsOn (s : State) : Prop := ∃ t, step s = .next t

/-- A run of n steps answers a next state at each. -/
def runsFor : Nat → State → Prop
  | 0, _ => True
  | n + 1, s => ∃ t, step s = .next t ∧ runsFor n t

/-- The memory of a state is in canonical form. -/
def memoryWf (s : State) : Prop := Memory.wf s.mem.cells = true

/-! ### A group that carries an instruction -/

/-- The group's threads stand in ascending lane and are Ready, each belongs to a gang, and for none of them does the encoding
cause arise (R35, R266). -/
structure Carries (s : State) (i : Instr) : Prop where
  lanes : s.grp.threads.Pairwise fun a b => s.laneOf a < s.laneOf b
  ready : ∀ th ∈ s.grp.threads, ∃ x, s.threads.get? th = some x ∧ x.run = .ready
  ganged : ∀ th ∈ s.grp.threads, ∃ g, s.gangs.get? (s.thread th).gang = some g
  legal : ∀ th ∈ s.grp.threads, encodingBad s i th = false

/-- The registers that last-use hints and the end of the clause poison for a thread of the group (R262). -/
def poisonedBy (s : State) (i : Instr) (th : Nat) : List Nat :=
  poisonNow i (s.guardOf th) ++ clausePoison s.grp i (s.guardOf th) (s.thread th).clause

/-- Everything but threads, gangs, the group being carried and the schedule is the same in two states, and the agenda is. -/
structure SameElse (s t : State) : Prop where
  mem : t.mem = s.mem
  clk : t.clk = s.clk
  clusters : t.clusters = s.clusters
  cores : t.cores = s.cores
  teams : t.teams = s.teams
  grids : t.grids = s.grids
  tiles : t.tiles = s.tiles
  ops : t.ops = s.ops
  accs : t.accs = s.accs
  ctxs : t.ctxs = s.ctxs
  queues : t.queues = s.queues
  insts : t.insts = s.insts
  frames : t.frames = s.frames
  structs : t.structs = s.structs
  mgmt : t.mgmt = s.mgmt
  second : t.grp2 = s.grp2
  agenda : t.sched.agenda = s.sched.agenda

/-- Everything but threads, the group being carried, the schedule and the gangs' undo logs (R434) is the same in two states. -/
structure SameDevice (s t : State) : Prop extends SameElse s t where
  gangs : ∀ g, { t.gang g with undo := [] } = { s.gang g with undo := [] }

/-- The group is through, and every thread of it is Ready, at the address `pc th`, its clause as the end of the instruction leaves
it (R255). -/
structure MovesTo (s : State) (i : Instr) (pc : Nat → Nat) (t : State) : Prop where
  group : t.grp = Group.empty
  ready : ∀ th ∈ s.grp.threads, (t.thread th).run = .ready
  pc : ∀ th ∈ s.grp.threads, (t.thread th).pc = pc th
  clause : ∀ th ∈ s.grp.threads, (t.thread th).clause = clauseAfter s.grp i (s.guardOf th) (s.thread th).clause

/-- The group is through, and every thread of it is Ready at the halfword after the instruction. -/
abbrev GoesOn (s : State) (i : Instr) (t : State) : Prop := MovesTo s i (fun _ => s.grp.cursor + i.len) t

/-- Registers after an instruction that writes the registers `ws th` of each thread of the group: hinted last uses hold the poison
value, all others what they held; threads outside the group are the same. -/
structure RegFrame (s : State) (i : Instr) (ws : Nat → List Nat) (t : State) : Prop where
  held : ∀ th ∈ s.grp.threads, ∀ r, r ∉ ws th → r ∉ poisonedBy s i th → t.gr th r = s.gr th r
  poisoned : ∀ th ∈ s.grp.threads, ∀ r ∈ poisonedBy s i th, r < 64 → t.gr th r = poisonValue
  others : ∀ th, th ∉ s.grp.threads → t.thread th = s.thread th

/-- A thread without its registers, predicates, program counter, clause, state and times. -/
def threadRest (x : Thread) : Thread := { x with g := Vector.replicate 64 0, p := 0, pc := 0, after := 0, clause := none, since := 0, run := .ready }

/-- Flags, level, queries, regions and the like of every thread are the same. -/
def SameThreads (s t : State) : Prop := ∀ th, threadRest (t.thread th) = threadRest (s.thread th)

/-- What an instruction that writes register d of each thread with a true guard does: the value, and the frame. -/
structure WritesReg (s : State) (i : Instr) (d : Nat) (v : Nat → Word) (t : State) : Prop where
  goes : GoesOn s i t
  value : ∀ th ∈ s.active, t.gr th d = v th
  regs : RegFrame s i (fun th => if th ∈ s.active then [d] else []) t
  preds : ∀ th, (t.thread th).p = (s.thread th).p
  threads : SameThreads s t
  device : SameDevice s t

/-- What an instruction does that leaves predicates and the device alone and writes the registers `ws th`. -/
structure Keeps (s : State) (i : Instr) (ws : Nat → List Nat) (t : State) : Prop where
  regs : RegFrame s i ws t
  preds : ∀ th, (t.thread th).p = (s.thread th).p
  threads : SameThreads s t
  device : SameDevice s t

/-- What an acquire leaves (R92): the clusters of the threads with a true guard have dropped their copies of words that they do not own,
and but for the registers `ws th` nothing else has changed. -/
structure Acquires (s : State) (i : Instr) (ws : Nat → List Nat) (t : State) : Prop where
  regs : RegFrame s i ws t
  preds : ∀ th, (t.thread th).p = (s.thread th).p
  threads : SameThreads s t
  device : SameDevice s { t with clusters := s.clusters }
  copies : ∀ cl < 18, t.cluster cl =
    { s.cluster cl with copies := if s.active.any (fun th => s.clusterOf th == cl) then [] else (s.cluster cl).copies }

/-- What an instruction that writes predicate d of each thread with a true guard does; p15 ignores the write (R268). -/
structure WritesPred (s : State) (i : Instr) (d : Nat) (v : Nat → Bool) (t : State) : Prop where
  goes : GoesOn s i t
  value : ∀ th ∈ s.active, d ≠ 15 → t.pr th d = v th
  preds : ∀ th n, (th ∈ s.active → n ≠ d ∨ n = 15) → t.pr th n = s.pr th n
  regs : RegFrame s i (fun _ => []) t
  threads : SameThreads s t
  device : SameDevice s t

/-- What an instruction that writes one uniform register of every gang with a true guard in the group does (R26): the value,
and the frame. -/
structure WritesUniform (s : State) (i : Instr) (d : Nat) (v : Nat → Word) (t : State) : Prop where
  goes : GoesOn s i t
  value : ∀ th ∈ s.active, vget (t.gang (s.thread th).gang).w d 0 = v (s.thread th).gang
  uniform : ∀ g n, ((∃ th ∈ s.active, (s.thread th).gang = g) → n ≠ d) → vget (t.gang g).w n 0 = vget (s.gang g).w n 0
  gangs : ∀ g, { t.gang g with undo := [], w := (s.gang g).w } = { s.gang g with undo := [] }
  preds : ∀ th, (t.thread th).p = (s.thread th).p
  regs : RegFrame s i (fun _ => []) t
  threads : SameThreads s t
  device : SameElse s t

/-! ### One thread at work -/

/-- One thread of the group has a true guard, with no access unperformed; accesses are performed at their issue (DESIGN CHOICE, log 4). -/
structure Alone (s : State) (i : Instr) (th : Nat) : Prop where
  carries : Carries s i
  only : s.active = [th]
  performed : s.accsOf th = []
  prompt : s.sched.defer = []

/-- The group is through, and its threads are Ready at the halfword after the instruction. -/
structure PassesOn (s : State) (i : Instr) (t : State) : Prop where
  group : t.grp = Group.empty
  gone : ∀ th ∈ s.grp.threads, (t.thread th).run = .ready ∧ (t.thread th).pc = s.grp.cursor + i.len

/-- The group goes on, and what an instruction of one thread leaves alone: registers but `ws`, predicates and the rest of every
thread. -/
structure Settles (s : State) (i : Instr) (th : Nat) (ws : List Nat) (t : State) : Prop where
  goes : GoesOn s i t
  regs : RegFrame s i (fun u => if u = th then ws else []) t
  preds : ∀ u, (t.thread u).p = (s.thread u).p
  threads : SameThreads s t

/-- What waited in a thread's clause to be poisoned, of the registers `ks`. -/
def owedTo (s : State) (th : Nat) (ks : List Nat) : List Nat := (((s.thread th).clause.map (·.poison)).getD []).filter ks.contains

/-- The registers that hints poison after an instruction whose encoding does not tell all: the thread th wrote the registers `ws`
besides, and did not write `ks`, which the encoding names (R262). -/
def poisonedFix (s : State) (i : Instr) (th : Nat) (ws ks : List Nat) (u : Nat) : List Nat :=
  if u ≠ th then poisonedBy s i u else (poisonedBy s i u).filter (fun r => !ws.contains r) ++
    (if (clauseAfter s.grp i (s.guardOf u) (s.thread u).clause).isNone then owedTo s u ks else [])

/-- The group is through, its threads at the addresses `pc u`, and every register keeps its value but for the hints, of an instruction
whose encoding does not tell all: the thread th wrote the registers `ws` besides, and did not write `ks`, which the encoding names. -/
structure PassesFix (s : State) (i : Instr) (th : Nat) (ws ks : List Nat) (t : State) : Prop where
  passes : PassesOn s i t
  clause : ∀ u ∈ s.grp.threads, (t.thread u).clause = (clauseAfter s.grp i (s.guardOf u) (s.thread u).clause).map fun c =>
    if u = th then { c with poison := (c.poison ++ owedTo s u ks).filter fun r => !ws.contains r } else c
  held : ∀ u ∈ s.grp.threads, ∀ r, r ∉ poisonedFix s i th ws ks u → t.gr u r = s.gr u r
  poisoned : ∀ u ∈ s.grp.threads, ∀ r ∈ poisonedFix s i th ws ks u, r < 64 → t.gr u r = poisonValue
  others : ∀ u, u ∉ s.grp.threads → t.thread u = s.thread u
  preds : ∀ u, (t.thread u).p = (s.thread u).p

/-- The threads `who` are Blocked at the instruction with their registers as they were, the others of the group have gone on, and
threads outside the group are the same. -/
structure BlocksAt (s : State) (i : Instr) (who : List Nat) (w : Nat → Why) (t : State) : Prop where
  group : t.grp = Group.empty
  blocked : ∀ th ∈ who, (t.thread th).run = .blocked (w th) ∧ (t.thread th).pc = s.grp.pc ∧ (t.thread th).after = s.grp.cursor + i.len
  held : ∀ th ∈ who, (t.thread th).g = (s.thread th).g ∧ (t.thread th).p = (s.thread th).p ∧ (t.thread th).f = (s.thread th).f
  gone : ∀ th ∈ s.grp.threads, th ∉ who → (t.thread th).run = .ready ∧ (t.thread th).pc = s.grp.cursor + i.len
  others : ∀ th, th ∉ s.grp.threads → t.thread th = s.thread th

/-- All threads of the group with a true guard are in gang g, and there is one. -/
structure OneGang (s : State) (i : Instr) (g : Nat) : Prop where
  carries : Carries s i
  some_ : s.active ≠ []
  gang : ∀ th ∈ s.active, (s.thread th).gang = g

/-- The group goes on, having forked one operation of its threads, counted on the flag that fs selects (R107, R256, R347); the issue
left the state s1 before the fork. -/
structure Forks (s : State) (i : Instr) (fs : Option Bool) (job : Job) (reads writes : List Nat) (s1 t : State) : Prop where
  goes : GoesOn s i t
  regs : RegFrame s i (fun _ => []) t
  preds : ∀ th, (t.thread th).p = (s.thread th).p
  op : ∃ op : Op, t.ops = s1.ops.set s1.sched.nextId op ∧ op.job = job ∧ op.reads = reads ∧ op.writes = writes ∧ op.parts = s.active ∧
    op.issuer = s.active.head? ∧ op.decs = s.active.filterMap fun th => (fs.bind (flagOf (s.thread th))).map fun n => (th, n)
  flags : ∀ th ∈ s.active, ∀ n < 12, vget (t.thread th).f n 0 = vget (s.thread th).f n 0 +
    (if fs.bind (flagOf (s.thread th)) = some n then 1 else 0)
  mem : t.mem = s1.mem

/-! ### Gangs and joins -/

/-- The participants of a gang-wide instruction in a gang: its threads of the group with a true guard, in ascending lane (R275). -/
def participants (s : State) (g : Nat) : List Nat := inGang s g s.active

/-- The participant at a position of a gang. -/
def holder (s : State) (g p : Nat) : Option Nat := (participants s g).find? fun th => (s.thread th).pos == p

/-- No Open join of a gang would settle (R39, R40) though the threads `off` ended or waited at a jwait: each has a pending position
whose thread is another that is neither Exited nor Blocked at a jwait. -/
def StaysOpen (s : State) (g : Nat) (off : List Nat) : Prop :=
  ∀ n < (s.gang g).jcount, (joinOf s g n).st = .opened → ∃ p ∈ (joinOf s g n).pending, ∃ th, nth (s.gang g).at_ p none = some th ∧
    th ∉ off ∧ (s.thread th).run ≠ .exited ∧ (s.thread th).atJwait = false

/-- No thread of a gang is Blocked at a jwait. -/
def NoWaiters (s : State) (g : Nat) : Prop := ∀ th ∈ threadsOf (s.gang g), (s.thread th).atJwait = false

end Sys2Proof
end

