-- ==== Sys2Proof/Certificates/Slice0/Obligations.lean ====
section
/-! DEFINITION. The statements about the model, each with the rules of the spec that it formalises, and the functions on bit
vectors and lists in which they give an instruction's result. -/

namespace Sys2Proof.Claims

open Machine

/-! ### Elements of a register (R274) -/

/-- Element j of width n: bits [n·j + n − 1 : n·j]. -/
def element (n j : Nat) (w : Word) : BitVec n := w.extractLsb' (n * j) n

/-- `sat(x, signed n)`. -/
def satS (n : Nat) (x : Int) : BitVec n := BitVec.ofInt n (max (-(2 ^ (n - 1))) (min (2 ^ (n - 1) - 1) x))

/-- `sat(x, unsigned n)`. -/
def satN (n : Nat) (x : Int) : BitVec n := BitVec.ofInt n (max 0 (min (2 ^ n - 1) x))

/-- Offset of the field that b names (R277). -/
def fieldOffset (n : Nat) (b : BitVec n) : Nat := b.toNat % 2 ^ Nat.log2 n

/-- Length of the field that b names (R277). -/
def fieldLength (n : Nat) (b : BitVec n) : Nat := min (b.toNat / 2 ^ Nat.log2 n % 2 ^ (Nat.log2 n + 1)) (n - fieldOffset n b)

/-- The mask of a field in its place. -/
def fieldMask (n : Nat) (b : BitVec n) : BitVec n := BitVec.ofNat n (2 ^ fieldLength n b - 1) <<< fieldOffset n b

/-- Table 12-1: the integer operations of format A, and D_j from the elements a, b and d. -/
def integerTable (o : Op3) (n : Nat) : List (Instr × (BitVec n → BitVec n → BitVec n → BitVec n)) :=
  [ (.add o, fun a b _ => a + b),
    (.sub o, fun a b _ => a - b),
    (.mul o, fun a b _ => a * b),
    (.mulhiS o, fun a b _ => (a.signExtend (2 * n) * b.signExtend (2 * n)).extractLsb' n n),
    (.mulhiN o, fun a b _ => (a.zeroExtend (2 * n) * b.zeroExtend (2 * n)).extractLsb' n n),
    (.addsatS o, fun a b _ => satS n (a.toInt + b.toInt)),
    (.addsatN o, fun a b _ => satN n (a.toNat + b.toNat)),
    (.subsatS o, fun a b _ => satS n (a.toInt - b.toInt)),
    (.subsatN o, fun a b _ => satN n (a.toNat - b.toNat)),
    (.minS o, fun a b _ => if b.slt a then b else a),
    (.minN o, fun a b _ => if b.ult a then b else a),
    (.maxS o, fun a b _ => if a.slt b then b else a),
    (.maxN o, fun a b _ => if a.ult b then b else a),
    (.andOp o, fun a b _ => a &&& b),
    (.orOp o, fun a b _ => a ||| b),
    (.xor o, fun a b _ => a ^^^ b),
    (.andn o, fun a b _ => a &&& ~~~b),
    (.shl o, fun a b _ => if b.toNat < n then a <<< b.toNat else 0),
    (.shr o, fun a b _ => if b.toNat < n then a >>> b.toNat else 0),
    (.sar o, fun a b _ => a.sshiftRight (min b.toNat (n - 1))),
    (.rotl o, fun a b _ => a.rotateLeft (b.toNat % n)),
    (.bfeN o, fun a b _ => (a >>> fieldOffset n b) &&& BitVec.ofNat n (2 ^ fieldLength n b - 1)),
    (.bfeS o, fun a b _ => ((a >>> fieldOffset n b).setWidth (fieldLength n b)).signExtend n),
    (.bfi o, fun a b d => (d &&& ~~~fieldMask n b) ||| ((a <<< fieldOffset n b) &&& fieldMask n b)),
    (.madd o, fun a b d => a * b + d) ]

/-- R278: the operations of one operand. -/
def bitCountTable (o : Op2W) (n : Nat) : List (Instr × (BitVec n → BitVec n)) :=
  [ (.popc o, fun a => BitVec.ofNat n ((List.range n).countP fun k => a.getLsbD k)),
    (.clz o, fun a => BitVec.ofNat n ((List.range n).takeWhile fun k => !a.getLsbD (n - 1 - k)).length),
    (.ctz o, fun a => BitVec.ofNat n ((List.range n).takeWhile fun k => !a.getLsbD k).length),
    (.brev o, fun a => a.reverse) ]

/-- R279: the immediate forms and moves on whole words, as functions of A and D. -/
def immediateTable (o : OpI) (l : OpL) : List (Instr × Reg × (Word → Word → Word)) :=
  [ (.addImm o, o.d, fun a _ => a + o.imm.signExtend 64),
    (.andImm o, o.d, fun a _ => a &&& o.imm.signExtend 64),
    (.movz l, l.d, fun _ _ => l.imm.zeroExtend 64 <<< (16 * l.q.val)),
    (.movk l, l.d, fun _ d => (d &&& ~~~(0xFFFF#64 <<< (16 * l.q.val))) ||| (l.imm.zeroExtend 64 <<< (16 * l.q.val))) ]

/-- R279: the shifts by an immediate count c, element-wise as Table 12-1 with b = c. -/
def shiftTable (o : OpSh) (n : Nat) : List (Instr × (BitVec n → BitVec n)) :=
  [ (.shlImm o, fun a => a <<< o.cnt.val),
    (.shrImm o, fun a => a >>> o.cnt.val),
    (.sarImm o, fun a => a.sshiftRight o.cnt.val),
    (.rotlImm o, fun a => a.rotateLeft o.cnt.val) ]

/-- R285, R279: `sel` by the guard. -/
def selected (o : Op3X) (s : State) (th : Nat) : Word := if s.guardOf th then s.gr th o.a else s.gr th o.b

/-! ### Floating point (R280 to R290) -/

/-- Element j of a register as the value that a format gives its code (R113). -/
def value (f : Fmt) (j : Nat) (w : Word) : Fl := decodeF f (element f.width j w).toNat

/-- R280: the value that is rounded into each element, from those of a, b and d. -/
def floatTable (o : Op3F) (m : RMode) : List (Instr × (Fl → Fl → Fl → Fl)) :=
  [ (.addF o, fun a b _ => Fl.add m a b),
    (.subF o, fun a b _ => Fl.add m a b.neg),
    (.mulF o, fun a b _ => Fl.mul a b),
    (.fma o, fun a b d => Fl.add m (Fl.mul a b) d),
    (.minF o, fun a b _ => if a.isNan then b else if b.isNan then a else if Fl.below b a then b else a),
    (.maxF o, fun a b _ => if a.isNan then b else if b.isNan then a else if Fl.below a b then b else a) ]

/-- The bit of Table 12-3 that a value has, given whether a NaN code is quiet. -/
def classBit (f : Fmt) (quiet : Bool) : Fl → Nat
  | .inf true => 0
  | .inf false => 7
  | .nan => if quiet then 8 else 9
  | .num neg n d =>
    if n = 0 then (if neg then 3 else 4)
    else if n * 2 ^ (f.bias - 1) < d then (if neg then 2 else 5)
    else if neg then 1 else 6

/-- The integer that a mode rounds a rational to (R120, R283). -/
def roundInt (m : RMode) (x : Rat) : Int :=
  match m with
  | .rz => if x < 0 then x.ceil else x.floor
  | .ru => x.ceil
  | .rd => x.floor
  | .rn => if x - x.floor < 1 / 2 then x.floor else if 1 / 2 < x - x.floor then x.floor + 1
    else if x.floor % 2 = 0 then x.floor else x.floor + 1

/-- The rational that a finite value is. -/
def ratOf : Fl → Rat
  | .num neg n d => mkRat (signedNum neg n) d
  | _ => 0

/-- R283: the integral value of a value; NaN, infinities and the sign of a zero are kept. -/
def integral (m : RMode) : Fl → Fl
  | .num neg n d => .num neg (roundInt m (ratOf (.num neg n d))).natAbs 1
  | x => x

/-- R288: special functions of an element's value, as codes of a format. -/
def specialTable (o : Op2F) (m : RMode) (z : Bool) : List (Instr × (Fl → Nat)) :=
  let f := o.ft.fmt
  [ (.rcp o, fun x => roundFlush f m z (fromLogV (logRcp (toLog x)))),
    (.sqrt o, fun x => roundFlush f m z (fromLogV (logSqrt (toLog x)))),
    (.rsqrt o, fun x => roundFlush f m z (fromLogV (logRsqrt (toLog x)))),
    (.log2 o, fun x => roundFlush f m z (logLog2 (toLog x))),
    (.exp2 o, fun x => roundFlush f m z (fromLogV (logExp2 x))) ]

/-- R289, R290: the log-domain instructions, with their destination, from the words A and B. -/
def logTable (u : Op2F) (b : Op2) (x : Op3X) (s : State) : List (Instr × Reg × (Nat → Nat)) :=
  let w (th : Nat) (r : Reg) : LogW := .ofNat (s.gr th r).toNat
  [ (.tolog u, u.d, fun th => (toLog (value u.ft.fmt 0 (s.gr th u.a))).toNat),
    (.fromlog u, u.d, fun th => roundFlush u.ft.fmt s.mode s.ftz (fromLogV (w th u.a))),
    (.lsqrt b, b.d, fun th => (logSqrt (w th b.a)).toNat),
    (.lrcp b, b.d, fun th => (logRcp (w th b.a)).toNat),
    (.lmul x, x.d, fun th => (logMul (w th x.a) (w th x.b)).toNat),
    (.ldiv x, x.d, fun th => (logDiv (w th x.a) (w th x.b)).toNat),
    (.lpow x, x.d, fun th => (logPow (w th x.a) (value fFP32 0 (s.gr th x.b))).toNat) ]

/-- R287, R123: the register that cvt writes for a source code. -/
def converted (src dst : Ty) (m : RMode) (z : Bool) (a : Word) : Word :=
  match tyNum src, tyNum dst with
  | .fl f, .fl g => BitVec.ofNat 64 (roundFlush g m z (value f 0 a))
  | .int true k, .fl g => BitVec.ofNat 64 (roundFlush g m z (Fl.ofInt (element k 0 a).toInt))
  | .int false k, .fl g => BitVec.ofNat 64 (roundFlush g m z (Fl.ofInt (element k 0 a).toNat))
  | .fl f, .int sg n =>
    match value f 0 a with
    | .nan => 0
    | .inf neg => if sg then (BitVec.ofInt n (if neg then -(2 ^ (n - 1)) else 2 ^ (n - 1) - 1)).signExtend 64
        else (if neg then 0 else (BitVec.allOnes n).zeroExtend 64)
    | x => if sg then (satS n (roundInt m (ratOf x))).signExtend 64 else (satN n (roundInt m (ratOf x))).zeroExtend 64
  | .int sa k, .int sg n =>
    let x : Int := if sa then (element k 0 a).toInt else (element k 0 a).toNat
    if sg then (satS n x).signExtend 64 else (satN n x).zeroExtend 64

/-! ### Compares and predicates (R284, R286) -/

/-- A compare of integers. -/
def holds (c : Cond) (a b : Int) : Bool :=
  match c with
  | .eq => a == b | .ne => a != b | .lt => a < b | .le => a ≤ b | .gt => b < a | .ge => b ≤ a | .un | .or => false

/-- A compare of floats: with a NaN only ne and un are true. -/
def holdsF (c : Cond) (a b : Fl) : Bool :=
  if a.isNan || b.isNan then (match c with | .ne | .un => true | _ => false)
  else match c with
  | .eq => !(a.lt b) && !(b.lt a) | .ne => a.lt b || b.lt a | .lt => a.lt b | .le => !(b.lt a) | .gt => b.lt a | .ge => !(a.lt b)
  | .un => false | .or => true

/-- R284: the compares, by the condition, the registers A and B and the width or format. -/
def compareTable (o : OpCmp) : List (Instr × (Word → Word → Bool)) :=
  [ (.cmpS o, fun a b => if o.w then holds o.cond a.toInt b.toInt else holds o.cond (element 32 0 a).toInt (element 32 0 b).toInt),
    (.cmpN o, fun a b => if o.w then holds o.cond a.toNat b.toNat else holds o.cond (element 32 0 a).toNat (element 32 0 b).toNat),
    (.cmpF32F64 o, fun a b => if o.w then holdsF o.cond (value fFP64 0 a) (value fFP64 0 b)
      else holdsF o.cond (value fFP32 0 a) (value fFP32 0 b)),
    (.cmpF16Bf16 o, fun a b => if o.w then holdsF o.cond (value fBF16 0 a) (value fBF16 0 b)
      else holdsF o.cond (value fFP16 0 a) (value fFP16 0 b)) ]

/-! ### The 16-bit forms (R267, Table 11-7) -/

/-- Integer forms, on D and A. -/
def shortTable (o : OpS) : List (Instr × (Word → Word → Word)) :=
  [ (.add16 o, fun d a => d + a), (.sub16 o, fun d a => d - a), (.and16 o, fun d a => d &&& a), (.or16 o, fun d a => d ||| a),
    (.xor16 o, fun d a => d ^^^ a), (.mov16 o, fun _ a => a) ]

/-- Immediate forms, on D. -/
def shortImmTable (o : OpSI) : List (Instr × (Word → Word)) :=
  [ (.addi16 o, fun d => d + o.i.signExtend 64), (.movi16 o, fun _ => o.i.signExtend 64), (.shli16 o, fun d => d <<< o.i.toNat),
    (.shri16 o, fun d => d >>> o.i.toNat), (.sari16 o, fun d => d.sshiftRight o.i.toNat) ]

/-- Floating-point forms: the format, and the value that is rounded. -/
def shortFloatTable (o : OpS) (m : RMode) : List (Instr × Fmt × (Fl → Fl → Fl)) :=
  [ (.fadd16 o, fFP32, fun d a => Fl.add m d a), (.fmul16 o, fFP32, fun d a => Fl.mul d a), (.fsub16 o, fFP32, fun d a => Fl.add m d a.neg),
    (.hadd16 o, fFP16, fun d a => Fl.add m d a), (.hmul16 o, fFP16, fun d a => Fl.mul d a) ]

/-! ### Control transfer (R291 to R293) -/

/-- A branch target: the address of the instruction's word plus twice a signed offset, modulo 2^64. -/
def target {n : Nat} (s : State) (off : BitVec n) : Nat := (BitVec.ofNat 64 s.grp.cursor + off.signExtend 64 * 2).toNat

/-- R293: an address that a jmp can go to. -/
def jumpable (a : Word) : Prop := a.toNat < 2 ^ 52 ∧ a.toNat % 2 = 0

/-! ### Joins (R38 to R41) -/

/-- A gang but for its undo log and joins is the same. -/
def SameButJoins (s t : State) (g : Nat) : Prop := { t.gang g with undo := [], joins := [] } = { s.gang g with undo := [], joins := [] }

/-- Positions of a list hold no thread or one that has Exited. -/
def allGone (s : State) (g : Nat) (ps : List Nat) : Bool :=
  ps.all fun p => match nth (s.gang g).at_ p none with
    | some th => (s.thread th).run == .exited
    | none => true

/-- The state that a join with some positions pending takes when no thread waits (R39, R40). -/
def settledState (s : State) (g : Nat) (pending : List Nat) : JState :=
  if pending = [] then .complete else if allGone s g pending then .abandoned else .opened

/-! ### Cross-lane (R299 to R305) -/

/-- R300, R301: for each shuffle the element width, D, A, and the flat index that thread th reads for its element j of e. -/
def shuffleTable (o : Op3) (m : OpShfli) (s : State) : List (Instr × Wid × Reg × Reg × (Nat → Nat → Nat → Option Nat)) :=
  let own (th e j : Nat) : Nat := (s.thread th).pos * e + j
  [ (.shfl o, o.wid, o.d, o.a, fun th e j => some (((s.gr th o.b).toNat % 512 + j) % ((s.gangOf th).width * e))),
    (.shfliIdx m, m.wid, m.d, m.a, fun _ e j => some (m.v.val * e + j)),
    (.shfliUp m, m.wid, m.d, m.a, fun th e j => if own th e j < m.v.val then none else some (own th e j - m.v.val)),
    (.shfliDown m, m.wid, m.d, m.a, fun th e j => some (own th e j + m.v.val)),
    (.shfliXor m, m.wid, m.d, m.a, fun th e j => some (Nat.xor (own th e j) m.v.val)) ]

/-- R299: the element at a flat index among a gang's participants; none where the index is absent, lies beyond the gang, or
names a position without a participant. -/
def flatElement (s : State) (g n r : Nat) : Option Nat → Option (BitVec n)
  | none => none
  | some f => if f < (s.gang g).width * (64 / n) then (holder s g (f / (64 / n))).map fun u => element n (f % (64 / n)) (s.gr u r) else none

/-- R303: the votes over the predicates of a gang's participants. -/
def voteTable (o : OpVote) : List (Instr × (List Bool → Bool)) :=
  [ (.voteAny o, fun l => l.contains true), (.voteAll o, fun l => !l.contains false),
    (.voteUni o, fun l => !(l.contains true && l.contains false)) ]

/-- R131: the fixed tree: 2^k positions from p, neighbours first; an absent operand leaves the other. -/
def tree (f : Nat → Nat → Nat) (x : Nat → Option Nat) : Nat → Nat → Option Nat
  | 0, p => x p
  | k + 1, p => match tree f x k p, tree f x k (p + 2 ^ k) with
    | some a, some b => some (f a b)
    | some a, none => some a
    | none, y => y

/-- R305: the steps of the reductions, on codes of a type. -/
def reduceTable (o : OpRed) (m : RMode) (z : Bool) : List (Instr × (Nat → Nat → Nat)) :=
  [ (.reduceAdd o, fun x y => match tyNum o.ty with
      | .fl f => roundFlush f m z (Fl.add m (decodeF f x) (decodeF f y))
      | .int _ n => (x + y) % 2 ^ n),
    (.reduceMin o, fun x y => match tyNum o.ty with
      | .fl f => roundF f .rn (Fl.minN (decodeF f x) (decodeF f y))
      | .int true n => if (BitVec.ofNat n y).slt (BitVec.ofNat n x) then y else x
      | .int false n => if (BitVec.ofNat n y).ult (BitVec.ofNat n x) then y else x),
    (.reduceMax o, fun x y => match tyNum o.ty with
      | .fl f => roundF f .rn (Fl.maxN (decodeF f x) (decodeF f y))
      | .int true n => if (BitVec.ofNat n y).slt (BitVec.ofNat n x) then x else y
      | .int false n => if (BitVec.ofNat n y).ult (BitVec.ofNat n x) then x else y) ]

/-! ### Uniform registers (R306, R307) -/

/-- Table 12-9: the uniform instructions, from the gang's registers. -/
def uniformTable (o : OpU3) (i : OpUI) (l : OpUL) : List (Instr × UReg × ((Nat → Word) → Word)) :=
  [ (.addU o, o.d, fun w => w o.a + w o.b), (.subU o, o.d, fun w => w o.a - w o.b), (.andU o, o.d, fun w => w o.a &&& w o.b),
    (.orU o, o.d, fun w => w o.a ||| w o.b), (.xorU o, o.d, fun w => w o.a ^^^ w o.b), (.shlU o, o.d, fun w => w o.a <<< (w o.b).toNat),
    (.shrU o, o.d, fun w => w o.a >>> (w o.b).toNat), (.mulU o, o.d, fun w => w o.a * w o.b),
    (.addUimm i, i.d, fun w => w i.a + i.imm.signExtend 64),
    (.movkU l, l.d, fun w => (w l.d &&& ~~~(0xFFFF#64 <<< (16 * l.q.val))) ||| (l.imm.zeroExtend 64 <<< (16 * l.q.val))) ]

/-! ### Memory (R309 to R317) -/

/-- R309: EA of formats M and N. -/
def address {n : Nat} (a : Word) (off : BitVec n) (z : Nat) : Nat := (a + off.signExtend 64 * BitVec.ofNat 64 z).toNat

/-- R310: the sized loads, with the bytes that each reads and its D from their number. -/
def loadTable (o : OpLd) : List (Instr × Nat × (Nat → Word)) :=
  [ (.ldS8 o, 1, fun x => (BitVec.ofNat 8 x).signExtend 64), (.ldN8 o, 1, fun x => (BitVec.ofNat 8 x).zeroExtend 64),
    (.ldS16 o, 2, fun x => (BitVec.ofNat 16 x).signExtend 64), (.ldN16 o, 2, fun x => (BitVec.ofNat 16 x).zeroExtend 64),
    (.ldS32 o, 4, fun x => (BitVec.ofNat 32 x).signExtend 64), (.ldN32 o, 4, fun x => (BitVec.ofNat 32 x).zeroExtend 64),
    (.ldB64 o, 8, fun x => BitVec.ofNat 64 x) ]

/-- R312: the sized stores. -/
def storeTable (o : OpSt) : List (Instr × Nat) := [(.stB8 o, 1), (.stB16 o, 2), (.stB32 o, 4), (.stB64 o, 8)]

/-- The state in which a load translates its address: an acquire outside local memory, and a consuming load of a full granule, drop
copies first (R88, R92). -/
def loadState (s : State) (i : Instr) (th : Nat) (q : LdKind) (sp : Space) : State :=
  if q = .acq ∧ sp ≠ .lo ∨ q = .fe ∨ q = .fec then acquire (startIssue i s) (s.clusterOf th) else startIssue i s

/-- The full/empty bits after a load of a granule at a key: a clearing load empties it (R68). -/
def fullAfter (q : LdKind) (l : List Nat) (k : Nat) : List Nat := if q = .fec then l.filter fun g => g != k / 16 * 16 else l

/-- A load of one thread reads z bytes at key k, having translated its address in `loadState` to give s1: its line is cached or a miss
entry is free (R85), and a consuming load finds its granule full. -/
structure LoadsAt (s : State) (i : Instr) (th : Nat) (q : LdKind) (sp : Space) (ea z : Nat) (s1 : State) (k : Nat) : Prop where
  alone : Alone s i th
  aligned : ea % z = 0
  resolved : resolve (loadState s i th q sp) th sp ea z .load = (s1, .ok k)
  sound : poisonFlt s1 k z = none
  full : q = .fe ∨ q = .fec → granuleFull s k = true ∧ beforeFill s k = none
  entry : rejectedAtIssue (startIssue i s) th sp ea z = false

/-- Every unperformed access was issued before the instruction (R95). -/
def IssuedBefore (s : State) : Prop := ∀ e ∈ s.accs, e.2.seq < s.sched.order

/-- A store of one thread writes z bytes at key k, which no codebook encodes, having translated its address to give s1: its line is
cached or a miss entry is free (R85). -/
structure StoresAt (s : State) (i : Instr) (th : Nat) (sp : Space) (ea z : Nat) (s1 : State) (k : Nat) : Prop where
  alone : Alone s i th
  aligned : ea % z = 0
  resolved : resolve (startIssue i s) th sp ea z .store = (s1, .ok k)
  linked : unreachable s1 k = false
  sound : metadataFlt s1 k = none
  direct : isView k = false
  entry : rejectedAtIssue (startIssue i s) th sp ea z = false
  order : IssuedBefore s

/-- The threads Blocked at consuming loads of a granule are to issue them again, in the order in which they blocked (R68). -/
def WakesGranule (s : State) (g : Nat) (t : State) : Prop :=
  ∃ l l', t.sched.agenda = s.sched.agenda ++ l ++ l' ∧
    (∀ u x q c a kind, s.threads.get? u = some x → x.run = .blocked (.granule g q c a kind) → Instr.waitaRetest u ∈ l') ∧
    ∀ u x q c a kind v y q' c' a' kind', s.threads.get? u = some x → x.run = .blocked (.granule g q c a kind) → s.threads.get? v = some y →
      y.run = .blocked (.granule g q' c' a' kind') → q < q' → [Instr.waitaRetest u, Instr.waitaRetest v].Sublist l'

/-- Memory after n bytes are stored at key k: the bytes, and every other byte as before. -/
def Stored (m m' : List Host.Cell) (k : Nat) (bs : List Byte) : Prop :=
  m' = writeCells m k bs ∧ ∀ a, a < k ∨ k + bs.length ≤ a → readCell a m' = readCell a m

/-- The key of n bytes of a thread's local memory (R56 to R58): none outside its team's part of the scratchpad. -/
def localKey (s : State) (th a n : Nat) : Option Nat :=
  if s.isMgmt th = false ∧ a + n ≤ (s.teamOf th).localSize
  then scratchKey (s.cluster (s.clusterOf th)) (s.clusterOf th) ((s.teamOf th).localBase + a) else none

/-- R314, R126: the word of a linear FP6 array and the slot that hold element 32b + e, and the bit at which a block-aligned pair
holds element e. -/
def fp6Word (b e : Nat) : Nat := (32 * b + e) / 21 - 32 * b / 21
def fp6Slot (b e : Nat) : Nat := (32 * b + e) % 21
def fp6Place (e : Nat) : Nat := if e < 21 then 6 * e else 128 + 6 * (e - 21)

/-- Table 13-3: the value that an atomic stores, from the word, D and the register after D; none for a cas that fails. -/
def atomic (op : AtomOp) (n : Nat) (x v c : BitVec n) : Option (BitVec n) :=
  match op with
  | .add => some (x + v)
  | .addF => let f := if n = 64 then fFP64 else fFP32; some (BitVec.ofNat n (roundF f .rn (Fl.add .rn (decodeF f x.toNat) (decodeF f v.toNat))))
  | .minS => some (if v.slt x then v else x) | .minN => some (if v.ult x then v else x)
  | .maxS => some (if x.slt v then v else x) | .maxN => some (if x.ult v then v else x)
  | .and => some (x &&& v) | .or => some (x ||| v) | .xor => some (x ^^^ v)
  | .exch => some v
  | .cas => if x = v then some c else none

/-- R104, R105: a barrier object after an arrival with n bytes more to expect. -/
def arrivedBobj (b : Bobj) (n : Nat) : Bobj :=
  if b.arrive = 1 ∧ b.bytes + n = 0 then { b with arrive := b.expect, bytes := 0, phase := !b.phase }
  else { b with arrive := b.arrive - 1, bytes := b.bytes + n }

/-- R323: the waits on a word of global memory, with the test that lets a thread go on. -/
def waitTable (o : Op3X) : List (Instr × (Word → Word → Nat → Why) × (Word → Word → Bool)) :=
  [ (.waitaGe o, .waitaGe, fun v b => !v.ult b), (.waitaEq o, .waitaEq, fun v b => v == b) ]

/-! ### Exceptions (R423 to R433) -/

/-- What finding a handler may depend on is the same in two states. -/
structure SameForHandlers (s s' : State) : Prop where
  mem : s'.mem = s.mem
  clk : s'.clk = s.clk
  clusters : s'.clusters = s.clusters
  cores : s'.cores = s.cores
  teams : s'.teams = s.teams
  grids : s'.grids = s.grids
  ctxs : s'.ctxs = s.ctxs
  mgmt : s'.mgmt = s.mgmt
  choices : s'.sched.choices = s.sched.choices

/-- The word below a team's entry clause names the handler clause h of its kernel; reading it changes memory at most. -/
def KernelHandlerAt (s : State) (tm h : Nat) : Prop :=
  ∀ s', SameForHandlers s s' → ∃ m, kernelHandler s' tm = (s'.setMem m, some h)

/-- SUPENTRY of a context names the handler clause h. -/
def SupHandlerAt (s : State) (ctx h : Nat) : Prop := h ≠ 0 ∧ ∀ s', SameForHandlers s s' → ∃ m, supEntry s' ctx = (s'.setMem m, h)

/-- A gang of the cores outside the management node that is at rest: nothing queued, raised, delivered or logged, no access
unperformed, its team resident. -/
structure AtRest (s : State) (g : Nat) (G : Gang) : Prop where
  listed : s.gangs.get? g = some G
  core : G.core ≠ mgmtCore
  queue : G.queue = []
  raised : G.raised = []
  nestq : G.nestq = []
  delivery : G.delivery = none
  nested : G.nested = none
  undo : G.undo = []
  resident : (s.team G.team).res = .resident
  accs : s.accs = []
  width : G.width ≤ 64

/-- A thread of a gang outside handlers, at its own position. -/
structure InPlace (s : State) (g : Nat) (th : Nat) : Prop where
  gang : (s.thread th).gang = g
  user : (s.thread th).entered = []
  listed : s.threads.get? th ≠ none
  place : nth (s.gang g).at_ (s.thread th).pos none = some th
  pos : (s.thread th).pos < (s.gang g).width

/-- R430, Table 18-3: the threads `who` of gang g have entered the handler at h with an entry, and keep their registers. -/
structure EntersHandler (s : State) (g : Nat) (who : List Nat) (cause : Nat) (info : Word) (pc after : Nat) (sup : Bool) (h : Nat) (t : State) :
    Prop where
  at_ : ∀ th ∈ who, (t.thread th).run = .ready ∧ (t.thread th).pc = h ∧ (t.thread th).clause = none
  level : ∀ th ∈ who, (t.thread th).entered = ⟨if sup then .sup else .kernel, (s.thread th).clause, sup⟩ :: (s.thread th).entered
  kept : ∀ th ∈ who, (t.thread th).g = (s.thread th).g ∧ (t.thread th).p = (s.thread th).p ∧ (t.thread th).f = (s.thread th).f
  resume : vget (t.gang g).w 28 0 = BitVec.ofNat 64 (if cause = cSoft then after else pc)
  mask : ∀ p < 64, (vget (t.gang g).w 29 0).getLsbD p = who.any fun th => (s.thread th).pos == p
  status : vget (t.gang g).w 30 0 = BitVec.ofNat 64 (pc * 2 ^ 12 + (if sup then 2 ^ 8 else 0) + cause)
  info : vget (t.gang g).w 31 0 = info
  uniform : ∀ n < 28, vget (t.gang g).w n 0 = vget (s.gang g).w n 0
  frame : ∀ k < 4, vget (if sup then (t.gang g).frameS else (t.gang g).frameK) k 0 = vget (s.gang g).w (28 + k) 0
  delivery : ∃ l, (t.gang g).delivery = some ⟨sup, l, l⟩ ∧ ∀ th, th ∈ l ↔ th ∈ who

/-- The other threads of the group have gone on, and threads outside it are the same. -/
structure LeavesOthers (s : State) (i : Instr) (who : List Nat) (t : State) : Prop where
  group : t.grp = Group.empty
  gone : ∀ th ∈ s.grp.threads, th ∉ who → (t.thread th).run = .ready ∧ (t.thread th).pc = s.grp.cursor + i.len
  others : ∀ th, th ∉ s.grp.threads → t.thread th = s.thread th

/-! ### System instructions (R326 to R339) -/

/-- A thread of a stage team, its instance, and a FIFO of it that the thread may use with n registers. -/
structure AtFifo (s : State) (th f n : Nat) (pops : Bool) (inst st group : Nat) (I : Instance) (q : Fifo) : Prop where
  stage : stageOf s th = some (inst, st, group)
  inst_ : s.insts.get? inst = some I
  fifo : I.fifos[f]? = some q
  allowed : fifoBad s th f n pops = false

/-- Table 13-7: the special registers by number. -/
def specialValue (s : State) (th n : Nat) : Nat :=
  if n = 0 then (s.thread th).tid
  else if n = 1 then (if s.isMgmt th then 1 else (s.teamOf th).t)
  else if n = 2 then (s.teamOf th).idx
  else if n = 3 then (s.gangOf th).num
  else if n = 4 then (s.thread th).pos
  else if n = 5 then (s.gangOf th).width
  else if n = 6 then s.laneOf th
  else if n = 7 then (if s.isMgmt th then 0xFFFF else s.coreOf th)
  else if n = 8 then (if s.isMgmt th then 1 else (s.gridOf th).n)
  else if n = 9 then s.ctxOf th
  else if n = 10 then (if s.isMgmt th then 0xFF else s.clusterOf th)
  else if n = 11 then (match (s.thread th).query with | some q => q.gen | none => 0)
  else if n = 12 then s.nowOf th
  else s.clk.ao

/-- R338, Tables 3-2, 3-8, 7-6, 7-9, 8-1, 10-3 to 10-5 and 21-3: readable and writable registers of the management address map, with
the bits that a write of the management core sets. -/
def fieldTable (cl n x : Nat) : List (MAddr × Word) :=
  [ (⟨1, cl, 0⟩, BitVec.allOnes 64), (⟨1, cl, 3⟩, 0xFFFF00FF), (⟨1, cl, 16 + n⟩, 0x8000FFF000000000),
    (⟨2, x, 0⟩, 0x0000FFFFFFFFFF0F), (⟨2, x, 1⟩, 0x0000FFFF00000003), (⟨2, x, 3⟩, 0x000FFFFFFFFF0000), (⟨2, x, 4⟩, 0x1FFFFFFF),
    (⟨3, 0, 0⟩, 0x03FFFFFF00000003), (⟨3, 0, 1⟩, 0x0000FFFF00FFFFFF), (⟨5, 0x3F, 4⟩, BitVec.allOnes 64), (⟨5, 0x3F, 5⟩, BitVec.allOnes 64) ]

end Sys2Proof.Claims

open Sys2Proof Sys2Proof.Machine Sys2Proof.Claims

/-- R274, R276, R277 (Table 12-1): every integer operation of format A completes, and gives each element of D the table's
result for every thread with a true guard. -/
def Obligations.IntegerOperations : Prop :=
  ∀ (o : Op3) (s : State) i f, (i, f) ∈ integerTable o o.wid.size → Carries s i →
    ∃ t v, exec i s = .next t ∧ WritesReg s i o.d v t ∧
      ∀ th ∈ s.active, ∀ j < 64 / o.wid.size,
        element o.wid.size j (v th) =
          f (element _ j (s.gr th o.a)) (element _ j (s.gr th o.b)) (element _ j (s.gr th o.d))

namespace Sys2Proof.Claims

/-- R278: population count, leading and trailing zeros and bit reversal complete, element by element. -/
def BitCounts : Prop :=
  ∀ (o : Op2W) (s : State) i f, (i, f) ∈ bitCountTable o o.wid.size → Carries s i →
    ∃ t v, exec i s = .next t ∧ WritesReg s i o.d v t ∧
      ∀ th ∈ s.active, ∀ j < 64 / o.wid.size, element o.wid.size j (v th) = f (element _ j (s.gr th o.a))

/-- R279: the immediate forms complete: 64-bit add and and of the sign-extended immediate, movz and movk, and the shifts of
elements by an immediate count below the element width. -/
def Immediates : Prop :=
  (∀ (o : OpI) (l : OpL) (s : State) i d f, (i, d, f) ∈ immediateTable o l → Carries s i →
    ∃ t, exec i s = .next t ∧ WritesReg s i d (fun th => f (s.gr th o.a) (s.gr th l.d)) t) ∧
  (∀ (o : OpSh) (s : State) i f, (i, f) ∈ shiftTable o o.wid.size → Carries s i →
    ∃ t v, exec i s = .next t ∧ WritesReg s i o.d v t ∧
      ∀ th ∈ s.active, ∀ j < 64 / o.wid.size, element o.wid.size j (v th) = f (element _ j (s.gr th o.a)))

/-- R285, R258: `sel` completes and writes D of every thread of the group, A where the guard is true and B where it is false;
a hint on D's old value poisons nothing. -/
def SelectWritesEveryThread : Prop :=
  ∀ (o : Op3X) (s : State), Carries s (.sel o) →
    ∃ t, exec (.sel o) s = .next t ∧ GoesOn s (.sel o) t ∧ RegFrame s (.sel o) (fun _ => [o.d.val]) t ∧
      (∀ th ∈ s.grp.threads, t.gr th o.d = selected o s th) ∧
      (∀ th, (t.thread th).p = (s.thread th).p) ∧ SameThreads s t ∧ SameDevice s t

end Sys2Proof.Claims

/-- R278: population count, leading and trailing zeros and bit reversal complete, element by element. R279: the immediate forms
complete: 64-bit add and and of the sign-extended immediate, movz and movk, and the shifts of elements by an immediate count
below the element width. R285, R258: `sel` completes and writes D of every thread of the group, A where the guard is true and B
where it is false; a hint on D's old value poisons nothing. -/
def Obligations.BitCountsImmediatesAndSelect : Prop :=
  Claims.BitCounts ∧ Claims.Immediates ∧ Claims.SelectWritesEveryThread

namespace Sys2Proof.Claims

/-- R280, R119, R122, R124: the floating-point operations of format A complete: each element of D is the exact result of the
elements of A, B and D, rounded once under the mode in force. -/
def FloatArithmetic : Prop :=
  ∀ (o : Op3F) (s : State) i f, (i, f) ∈ floatTable o s.mode → Carries s i →
    ∃ t v, exec i s = .next t ∧ WritesReg s i o.d v t ∧
      ∀ th ∈ s.active, ∀ j < 64 / o.ft.fmt.width, element o.ft.fmt.width j (v th) =
        BitVec.ofNat _ (roundFlush o.ft.fmt s.mode s.ftz
          (f (value o.ft.fmt j (s.gr th o.a)) (value o.ft.fmt j (s.gr th o.b)) (value o.ft.fmt j (s.gr th o.d))))

/-- R282, R283: `class` writes for each element the mask with the one bit of Table 12-3, and `rnd` the integral value under the
mode. -/
def ClassAndRound : Prop :=
  ∀ (o : Op2F) (s : State),
    (Carries s (.classOp o) → ∃ t v, exec (.classOp o) s = .next t ∧ WritesReg s (.classOp o) o.d v t ∧
      ∀ th ∈ s.active, ∀ j < 64 / o.ft.fmt.width, element o.ft.fmt.width j (v th) =
        BitVec.ofNat _ (2 ^ classBit o.ft.fmt ((element o.ft.fmt.width j (s.gr th o.a)).getLsbD (o.ft.fmt.man - 1)) (value o.ft.fmt j (s.gr th o.a)))) ∧
    (Carries s (.rnd o) → ∃ t v, exec (.rnd o) s = .next t ∧ WritesReg s (.rnd o) o.d v t ∧
      ∀ th ∈ s.active, ∀ j < 64 / o.ft.fmt.width, element o.ft.fmt.width j (v th) =
        BitVec.ofNat _ (roundF o.ft.fmt .rn (integral s.mode (value o.ft.fmt j (s.gr th o.a)))))

end Sys2Proof.Claims

/-- R280, R119, R122, R124: the floating-point operations of format A complete: each element of D is the exact result of the
elements of A, B and D, rounded once under the mode in force. R282, R283: `class` writes for each element the mask with the one
bit of Table 12-3, and `rnd` the integral value under the mode. -/
def Obligations.FloatOperations : Prop :=
  Claims.FloatArithmetic ∧ Claims.ClassAndRound

/-- R284, R286: the compares write their predicate from the compared values, a NaN making only ne and un true; `plop` looks its
three predicates up in its table. -/
def Obligations.ComparesAndPredicates : Prop :=
  (∀ (o : OpCmp) (s : State) i f, (i, f) ∈ compareTable o → Carries s i →
    ∃ t, exec i s = .next t ∧ WritesPred s i o.pd (fun th => f (s.gr th o.a) (s.gr th o.b)) t) ∧
  (∀ (o : OpPlop) (s : State), Carries s (.plop o) →
    ∃ t, exec (.plop o) s = .next t ∧ WritesPred s (.plop o) o.pd
      (fun th => o.lut.getLsbD ((if s.pr th o.pa then 4 else 0) + (if s.pr th o.pb then 2 else 0) + (if s.pr th o.pc then 1 else 0))) t)

namespace Sys2Proof.Claims

/-- R287, R123: `cvt` converts element 0, and extends an integer result into the register by its sign. -/
def Conversions : Prop :=
  ∀ (o : OpCvt) (s : State), Carries s (.cvt o) →
    ∃ t, exec (.cvt o) s = .next t ∧ WritesReg s (.cvt o) o.d (fun th => converted o.src o.dst s.mode s.ftz (s.gr th o.a)) t

/-- R288, R289, R290: special functions and the log-domain instructions complete, with the results of Tables 12-6 and 12-7. -/
def SpecialFunctions : Prop :=
  (∀ (o : Op2F) (s : State) i f, (i, f) ∈ specialTable o s.mode s.ftz → Carries s i →
    ∃ t v, exec i s = .next t ∧ WritesReg s i o.d v t ∧
      ∀ th ∈ s.active, ∀ j < 64 / o.ft.fmt.width, element o.ft.fmt.width j (v th) = BitVec.ofNat _ (f (value o.ft.fmt j (s.gr th o.a)))) ∧
  (∀ (u : Op2F) (b : Op2) (x : Op3X) (s : State) i d f, (i, d, f) ∈ logTable u b x s → Carries s i →
    ∃ t, exec i s = .next t ∧ WritesReg s i d (fun th => BitVec.ofNat 64 (f th)) t)

end Sys2Proof.Claims

/-- R287, R123: `cvt` converts element 0, and extends an integer result into the register by its sign. R288, R289, R290: special
functions and the log-domain instructions complete, with the results of Tables 12-6 and 12-7. -/
def Obligations.ConversionsAndSpecialFunctions : Prop :=
  Claims.Conversions ∧ Claims.SpecialFunctions

/-- R267: each 16-bit form has the effect that Table 11-7 gives, on whole registers or on their elements. -/
def Obligations.ShortForms : Prop :=
  (∀ (o : OpS) (s : State) i f, (i, f) ∈ shortTable o → Carries s i →
    ∃ t, exec i s = .next t ∧ WritesReg s i o.d (fun th => f (s.gr th o.d) (s.gr th o.a.val)) t) ∧
  (∀ (o : OpSI) (s : State) i f, (i, f) ∈ shortImmTable o → Carries s i →
    ∃ t, exec i s = .next t ∧ WritesReg s i o.d (fun th => f (s.gr th o.d)) t) ∧
  (∀ (o : OpS) (s : State) i fmt f, (i, fmt, f) ∈ shortFloatTable o s.mode → Carries s i →
    ∃ t v, exec i s = .next t ∧ WritesReg s i o.d v t ∧
      ∀ th ∈ s.active, ∀ j < 64 / fmt.width, element fmt.width j (v th) =
        BitVec.ofNat _ (roundFlush fmt s.mode s.ftz (f (value fmt j (s.gr th o.d)) (value fmt j (s.gr th o.a.val)))))

/-! ### Control transfer and joins -/

namespace Sys2Proof.Claims

/-- R291: `nop` has no effect but that the group goes on. -/
def NopGoesOn : Prop :=
  ∀ s, Carries s .nop → ∃ t, exec .nop s = .next t ∧ GoesOn s .nop t ∧ Keeps s .nop (fun _ => []) t

end Sys2Proof.Claims

/-- R291, R292, R293: each thread of a `bra` goes to the target when its predicate says so and falls through otherwise; `call`
writes the return address and goes to its target where the guard is true; `jmp` goes to A where the guard is true. -/
def Obligations.BranchesCallsAndJumps : Prop :=
  (∀ (o : OpBra) (s : State), Carries s (.bra o) → ∃ t, exec (.bra o) s = .next t ∧
    MovesTo s (.bra o) (fun th => if s.pr th o.p ≠ o.neg then target s o.off else s.grp.cursor + 4) t ∧ Keeps s (.bra o) (fun _ => []) t) ∧
  (∀ (o : OpCall) (s : State), Carries s (.call o) → ∃ t, exec (.call o) s = .next t ∧
    MovesTo s (.call o) (fun th => if th ∈ s.active then target s o.off else s.grp.cursor + 4) t ∧
    (∀ th ∈ s.active, t.gr th o.d = BitVec.ofNat 64 (s.grp.cursor + 4)) ∧
    Keeps s (.call o) (fun th => if th ∈ s.active then [o.d.val] else []) t) ∧
  (∀ (o : OpJmp) (s : State), Carries s (.jmp o) → (∀ th ∈ s.active, jumpable (s.gr th o.a)) → ∃ t, exec (.jmp o) s = .next t ∧
    MovesTo s (.jmp o) (fun th => if th ∈ s.active then (s.gr th o.a).toNat else s.grp.cursor + 4) t ∧ Keeps s (.jmp o) (fun _ => []) t)

/-- R294: a thread that executes `exit` with a true guard has Exited, or is Blocked while a completion flag is not zero; the
others of its group go on. For threads outside handlers with no region or query, that take part in no item, whose joins stay Open, and whose
team, if it is not the management core's, still has a thread that runs. -/
def Obligations.ExitEndsThreads : Prop :=
  ∀ s, Carries s .exit →
    (∀ th ∈ s.active, (s.thread th).entered = [] ∧ (s.thread th).region = none ∧ (s.thread th).query = none ∧ itemsOf s th = [] ∧
      StaysOpen s (s.thread th).gang s.active ∧ (s.teamIdOf th = 0 ∨ hasCards s (s.teamIdOf th) = false ∧
        ∃ u ∈ teamThreads s (s.teamIdOf th), u ∉ s.active ∧ (s.thread u).run = .ready)) →
    ∃ t, exec .exit s = .next t ∧ t.grp = Group.empty ∧
      (∀ th ∈ s.active, (t.thread th).run = if (s.thread th).flagsClear then .exited else .blocked .exiting) ∧
      (∀ th ∈ s.grp.threads, th ∉ s.active → (t.thread th).run = .ready ∧ (t.thread th).pc = s.grp.cursor + 4) ∧
      (∀ th, th ∉ s.grp.threads → t.thread th = s.thread th) ∧ SameDevice s t

namespace Sys2Proof.Claims

/-- R296: `jset` declares the join of each gang from A of the participant at the lowest position, at the occupied positions of
the gang; it is Complete when it expects nobody, Abandoned when all whom it expects have Exited, and Open otherwise. For joins
without signatures, in gangs of resident teams where no thread waits. -/
def JsetDeclares : Prop :=
  ∀ (o : OpJset) (s : State), Carries s (.jset o) →
    (∀ g, participants s g ≠ [] → (joinOf s g o.n).sigs = [] ∧ NoWaiters s g ∧ o.n.val < (s.gang g).joins.length ∧
      (s.team (s.gang g).team).res = .resident) →
    ∃ t, exec (.jset o) s = .next t ∧ GoesOn s (.jset o) t ∧ RegFrame s (.jset o) (fun _ => []) t ∧
      (∀ th, (t.thread th).p = (s.thread th).p) ∧ SameThreads s t ∧ SameElse s t ∧
      (∀ g, SameButJoins s t g ∧ ∀ m, (m ≠ o.n.val ∨ participants s g = []) → joinOf t g m = joinOf s g m) ∧
      ∀ g th rest, participants s g = th :: rest →
        (∀ p, bit (joinOf t g o.n).expected p = (decide (p < (s.gang g).width) && (s.gr th o.a).getLsbD p && (nth (s.gang g).at_ p none).isSome)) ∧
        (joinOf t g o.n).arrived = 0 ∧ (joinOf t g o.n).sigs = [] ∧
        (joinOf t g o.n).st = settledState s g (joinOf t g o.n).pending

/-- R297, R40: `jarrive` records the positions of a gang's participants that the Open join expects, all together, and then
completes it when nobody is pending. For joins without signatures, in gangs of resident teams where no
thread waits. -/
def JarriveRecords : Prop :=
  ∀ (n : JReg) (s : State), Carries s (.jarrive n) →
    (∀ g, participants s g ≠ [] → (joinOf s g n).sigs = [] ∧ NoWaiters s g ∧ n.val < (s.gang g).joins.length ∧
      (s.team (s.gang g).team).res = .resident) →
    ∃ t, exec (.jarrive n) s = .next t ∧ GoesOn s (.jarrive n) t ∧ RegFrame s (.jarrive n) (fun _ => []) t ∧
      (∀ th, (t.thread th).p = (s.thread th).p) ∧ SameThreads s t ∧ SameElse s t ∧
      (∀ g, SameButJoins s t g ∧
        ∀ m, (m ≠ n.val ∨ participants s g = [] ∨ (joinOf s g n).st ≠ .opened) → joinOf t g m = joinOf s g m) ∧
      ∀ g, participants s g ≠ [] → (joinOf s g n).st = .opened →
        (joinOf t g n).expected = (joinOf s g n).expected ∧ (joinOf t g n).sigs = [] ∧
        (∀ p < 64, bit (joinOf t g n).arrived p = (bit (joinOf s g n).arrived p ||
          (bit (joinOf s g n).expected p && (participants s g).any fun th => (s.thread th).pos == p))) ∧
        (joinOf t g n).st = settledState s g (joinOf t g n).pending

/-- R298: `jwait` writes its status and goes on where the join is not Open, 0 for an Abandoned join and 1 for any other; where
it is Open the participants become Blocked on it. For gangs none of whose Open joins settles by it. -/
def JwaitReadsOrBlocks : Prop :=
  ∀ (o : OpJwait) (s : State), Carries s (.jwait o) →
    ((∀ g, participants s g ≠ [] → (joinOf s g o.n).st ≠ .opened ∧ StaysOpen s g []) →
      ∃ t, exec (.jwait o) s = .next t ∧
        WritesPred s (.jwait o) o.p (fun th => (joinOf s (s.thread th).gang o.n).st != .abandoned) t) ∧
    ((∀ g, participants s g ≠ [] → (joinOf s g o.n).st = .opened ∧ StaysOpen s g s.active) →
      ∃ t, exec (.jwait o) s = .next t ∧ BlocksAt s (.jwait o) s.active (fun _ => .join o.n o.p) t ∧ SameDevice s t)

end Sys2Proof.Claims

/-- R296: `jset` declares the join of each gang from A of the participant at the lowest position, at the occupied positions of
the gang; it is Complete when it expects nobody, Abandoned when all whom it expects have Exited, and Open otherwise. For joins
without signatures, in gangs of resident teams where no thread waits. R297, R40: `jarrive` records the positions of a gang's participants that the
Open join expects, all together, and then completes it when nobody is pending. For joins without signatures, in gangs of resident teams where
no thread waits. R298: `jwait` writes its status and goes on where the join is not Open, 0 for an Abandoned join and 1 for any
other; where it is Open the participants become Blocked on it. For gangs none of whose Open joins settles by it. -/
def Obligations.Joins : Prop :=
  Claims.JsetDeclares ∧ Claims.JarriveRecords ∧ Claims.JwaitReadsOrBlocks

/-! ### Cross-lane and uniform -/

namespace Sys2Proof.Claims

/-- R299, R300, R301: a shuffle gives each participant, for each element, the element of A that its flat index names among the
gang's participants, or its own where there is none; all sources are read before any D is written (R275). -/
def Shuffles : Prop :=
  ∀ (o : Op3) (m : OpShfli) (s : State) i w d a src, (i, w, d, a, src) ∈ shuffleTable o m s → Carries s i →
    ∃ t v, exec i s = .next t ∧ WritesReg s i d v t ∧ ∀ th ∈ s.active, ∀ j < 64 / w.size,
      element w.size j (v th) = (flatElement s (s.thread th).gang w.size a (src th (64 / w.size) j)).getD (element _ j (s.gr th a))

/-- R302, R303, R304: `bcast` gives A of the named position's participant; `ballot` and `match` give masks of the positions of
the participants whose predicate is true, or whose A equals the thread's own; the votes write one predicate for all. -/
def BroadcastsVotesAndMatches : Prop :=
  (∀ (o : OpBcast) (s : State), Carries s (.bcast o) → ∃ t, exec (.bcast o) s = .next t ∧
    WritesReg s (.bcast o) o.d (fun th => s.gr ((holder s (s.thread th).gang o.p).getD th) o.a) t) ∧
  (∀ (o : OpBallot) (s : State), Carries s (.ballot o) → ∃ t v, exec (.ballot o) s = .next t ∧ WritesReg s (.ballot o) o.d v t ∧
    ∀ th ∈ s.active, ∀ p < 64, (v th).getLsbD p =
      (participants s (s.thread th).gang).any fun u => (s.thread u).pos == p && s.pr u o.n) ∧
  (∀ (o : Op2W) (s : State), Carries s (.matchOp o) → ∃ t v, exec (.matchOp o) s = .next t ∧ WritesReg s (.matchOp o) o.d v t ∧
    ∀ th ∈ s.active, ∀ p < 64, (v th).getLsbD p =
      (participants s (s.thread th).gang).any fun u =>
        (s.thread u).pos == p && element o.wid.size 0 (s.gr u o.a) == element o.wid.size 0 (s.gr th o.a)) ∧
  (∀ (o : OpVote) (s : State) i f, (i, f) ∈ voteTable o → Carries s i → ∃ t, exec i s = .next t ∧
    WritesPred s i o.d (fun th => f ((participants s (s.thread th).gang).map fun u => s.pr u o.a)) t)

/-- R305, R131: `reduce` combines each element over the gang's positions in the fixed tree, absent positions left out, and gives
every participant the result. -/
def Reductions : Prop :=
  ∀ (o : OpRed) (s : State) i f, (i, f) ∈ reduceTable o s.mode s.ftz → Carries s i →
    let n := (tyNum o.ty).width
    ∃ t v, exec i s = .next t ∧ WritesReg s i o.d v t ∧ ∀ th ∈ s.active, ∀ j < 64 / n,
      element n j (v th) = BitVec.ofNat n ((tree f (fun p => if p < (s.gangOf th).width
        then (holder s (s.thread th).gang p).map fun u => (element n j (s.gr u o.a)).toNat else none) (Nat.log2 (s.gangOf th).width) 0).getD 0)

end Sys2Proof.Claims

/-- R299, R300, R301: a shuffle gives each participant, for each element, the element of A that its flat index names among the
gang's participants, or its own where there is none; all sources are read before any D is written (R275). R302, R303, R304:
`bcast` gives A of the named position's participant; `ballot` and `match` give masks of the positions of the participants whose
predicate is true, or whose A equals the thread's own; the votes write one predicate for all. R305, R131: `reduce` combines each
element over the gang's positions in the fixed tree, absent positions left out, and gives every participant the result. -/
def Obligations.CrossLaneInstructions : Prop :=
  Claims.Shuffles ∧ Claims.BroadcastsVotesAndMatches ∧ Claims.Reductions

/-- R306, R307, R26: `xmov` copies a uniform register to each thread, or A of the lowest participant to its gang; a uniform
instruction writes its result once for each gang with a true guard in the group. -/
def Obligations.UniformRegisters : Prop :=
  (∀ (o : OpXg) (s : State), Carries s (.xmovG o) → ∃ t, exec (.xmovG o) s = .next t ∧
    WritesReg s (.xmovG o) o.d (fun th => s.ur th o.a) t) ∧
  (∀ (o : OpXw) (s : State), Carries s (.xmovW o) → ∃ t v, exec (.xmovW o) s = .next t ∧ WritesUniform s (.xmovW o) o.d v t ∧
    ∀ g th rest, participants s g = th :: rest → v g = s.gr th o.a) ∧
  (∀ (o : OpU3) (k : OpUI) (l : OpUL) (s : State) i d f, (i, d, f) ∈ uniformTable o k l → Carries s i → ∃ t, exec i s = .next t ∧
    WritesUniform s i d (fun g => f fun n => vget (s.gang g).w n 0) t)

/-! ### Memory -/

namespace Sys2Proof.Claims

/-- R309, R310, R311, R91: a load of one thread reads little-endian bytes at its address, extended into D, from its cluster's copies of
words that it does not own or from memory; memory is as its translation leaves it; a clearing load empties its granule. A consuming
load of an empty granule leaves its thread Blocked (R68). -/
def LoadsOfAThread : Prop :=
  (∀ (o : OpLd) (s : State) th i z f s1 k, (i, z, f) ∈ loadTable o → LoadsAt s i th o.q o.sp (address (s.gr th o.a) o.off z) z s1 k →
    ∃ t bs, exec i s = .next t ∧ Settles s i th [o.d.val] t ∧ (bs = seenBytes s1 (s.clusterOf th) k z ∨ bs = readCells s1.mem.cells k z) ∧
      t.gr th o.d = f (natOfBytes bs) ∧ t.mem.cells = s1.mem.cells ∧ t.mem.full = fullAfter o.q s1.mem.full k) ∧
  (∀ (o : OpLdq) (s : State) th s1 k, LoadsAt s (.ldq o) th o.q o.sp (address (s.gr th o.a) o.off 16) 16 s1 k →
    ∃ t bs, exec (.ldq o) s = .next t ∧ Settles s (.ldq o) th [2 * o.d.val, 2 * o.d.val + 1] t ∧
      (bs = seenBytes s1 (s.clusterOf th) k 16 ∨ bs = readCells s1.mem.cells k 16) ∧
      t.gr th (2 * o.d.val) = BitVec.ofNat 64 (natOfBytes bs) ∧ t.gr th (2 * o.d.val + 1) = BitVec.ofNat 64 (natOfBytes bs / 2 ^ 64) ∧
      t.mem.cells = s1.mem.cells ∧ t.mem.full = fullAfter o.q s1.mem.full k) ∧
  (∀ (o : OpLd) (s : State) th i z f k, (i, z, f) ∈ loadTable o → Alone s i th → o.q = .fe ∨ o.q = .fec →
    let ea := address (s.gr th o.a) o.off z
    ea % z = 0 → keyNow (startIssue i s) th o.sp ea z = some k → granuleFull s k = false → beforeFill s k = none →
    ∃ t kind, exec i s = .next t ∧ t.mem = s.mem ∧
      BlocksAt s i [th] (fun _ => .granule (k / 16 * 16) s.sched.order (decide (o.q = .fec)) ea kind) t)

/-- R58, R310: a plain or acquiring load of a group in local memory gives each thread the bytes at its own address. -/
def LocalLoadsOfAGroup : Prop :=
  ∀ (o : OpLd) (s : State) i z f (key : Nat → Nat), (i, z, f) ∈ loadTable o → Carries s i → o.sp = .lo → (o.q = .plain ∨ o.q = .acq) →
    s.sched.defer = [] →
    (∀ th ∈ s.active, s.accsOf th = [] ∧ address (s.gr th o.a) o.off z % z = 0 ∧
      localKey s th (address (s.gr th o.a) o.off z) z = some (key th) ∧ isSram (key th) = true ∧ poisonFlt s (key th) z = none) →
    ∃ t, exec i s = .next t ∧ WritesReg s i o.d (fun th => f (natOfBytes (readCells s.mem.cells (key th) z))) t

/-- R314, R126: the realigning load puts the 32 six-bit elements of block B into the slots of a pair of words, and zeros in all
other bits. -/
def RealigningLoad : Prop :=
  ∀ (o : OpLdrl) (s : State) th s1 ws, Alone s (.ldrl o) th → (s.gr th o.a).toNat % 16 = 0 →
    rejectedAtIssue (startIssue (.ldrl o) s) th o.sp (s.gr th o.a).toNat 48 = false →
    let b := (s.gr th o.b).toNat
    realignWords (startIssue (.ldrl o) s) th o.sp (s.gr th o.a).toNat (32 * b / 21) (realignRange b) = (s1, .ok ws) →
    ∃ t, exec (.ldrl o) s = .next t ∧ Settles s (.ldrl o) th ((List.range 4).map (4 * o.d.val + ·)) t ∧ t.mem.cells = s1.mem.cells ∧
      (∀ e < 32, bits (groupNat t th (4 * o.d.val) 4) (fp6Place e + 5) (fp6Place e) =
        bits (nth ws (fp6Word b e) 0) (6 * fp6Slot b e + 5) (6 * fp6Slot b e)) ∧
      ∀ n < 256, (∀ e < 32, n < fp6Place e ∨ fp6Place e + 6 ≤ n) → bit (groupNat t th (4 * o.d.val) 4) n = false

end Sys2Proof.Claims

/-- R309, R310, R311, R91: a load of one thread reads little-endian bytes at its address, extended into D, from its cluster's copies
of words that it does not own or from memory; memory is as its translation leaves it; a clearing load empties its granule. A
consuming load of an empty granule leaves its thread Blocked (R68). R58, R310: a plain or acquiring load of a group in local
memory gives each thread the bytes at its own address. R314, R126: the realigning load puts the 32 six-bit elements of block B
into the slots of a pair of words, and zeros in all other bits. It rests on choices of the model (logs 4, 22 and 56). -/
def Obligations.LoadsReadBytes : Prop :=
  Claims.LoadsOfAThread ∧ Claims.LocalLoadsOfAGroup ∧ Claims.RealigningLoad

namespace Sys2Proof.Claims

/-- R309, R312: a store of one thread writes the low bytes of its source at its address and changes no other byte; a fill store
also makes its granule full, and the threads Blocked on it are to issue their loads again in the order in which they blocked
(R67, R68). -/
def StoresOfAThread : Prop :=
  (∀ (o : OpSt) (s : State) th i z s1 k, (i, z) ∈ storeTable o → StoresAt s i th o.sp (address (s.gr th o.a) o.off z) z s1 k →
    ∃ t, exec i s = .next t ∧ Stored s1.mem.cells t.mem.cells k (bytesOfNat (s.gr th o.s).toNat z) ∧ Settles s i th [] t ∧
      (o.q ≠ .fill → t.mem.full = s1.mem.full) ∧ (o.q = .fill → granuleFull t k = true ∧ WakesGranule s (k / 16 * 16) t)) ∧
  (∀ (o : OpStq) (s : State) th s1 k, StoresAt s (.stq o) th o.sp (address (s.gr th o.a) o.off 16) 16 s1 k →
    ∃ t, exec (.stq o) s = .next t ∧
      Stored s1.mem.cells t.mem.cells k
        (bytesOfNat ((s.gr th (2 * o.s.val)).toNat + 2 ^ 64 * (s.gr th (2 * o.s.val + 1)).toNat) 16) ∧
      Settles s (.stq o) th [] t ∧ (o.q ≠ .fill → t.mem.full = s1.mem.full) ∧
      (o.q = .fill → granuleFull t k = true ∧ WakesGranule s (k / 16 * 16) t))

/-- R66, R94: the plain and releasing stores of a group in local memory are performed in ascending lane, so that the highest lane's
bytes stand where several write. -/
def LocalStoresOfAGroup : Prop :=
  ∀ (o : OpSt) (s : State) i z (key : Nat → Nat), (i, z) ∈ storeTable o → Carries s i → o.sp = .lo → o.q ≠ .fill → s.sched.defer = [] →
    IssuedBefore s → (∀ th ∈ s.active, s.accsOf th = [] ∧ address (s.gr th o.a) o.off z % z = 0 ∧
      localKey s th (address (s.gr th o.a) o.off z) z = some (key th) ∧ isSram (key th) = true) →
    ∃ t, exec i s = .next t ∧ GoesOn s i t ∧ RegFrame s i (fun _ => []) t ∧ (∀ u, (t.thread u).p = (s.thread u).p) ∧ SameThreads s t ∧
      t.mem.cells = s.active.foldl (fun m th => writeCells m (key th) (bytesOfNat (s.gr th o.s).toNat z)) s.mem.cells

end Sys2Proof.Claims

/-- R309, R312: a store of one thread writes the low bytes of its source at its address and changes no other byte; a fill store
also makes its granule full, and the threads Blocked on it are to issue their loads again in the order in which they blocked
(R67, R68). R66, R94: the plain and releasing stores of a group in local memory are performed in ascending lane, so that the
highest lane's bytes stand where several write. It rests on choices of the model (log 4). -/
def Obligations.StoresWriteBytes : Prop :=
  Claims.StoresOfAThread ∧ Claims.LocalStoresOfAGroup

/-- R315, R316: an atomic of one thread stores what Table 13-3 gives, and `atom` writes the old value to D; a cas that fails
stores nothing. Where its line is cached or a miss entry is free (R85), and no codebook encodes it. It rests on choices of the
model (log 4). -/
def Obligations.AtomicsUpdateMemory : Prop :=
  ∀ (o : OpAtom) (s : State) th s1 k i, i = .atom o ∨ i = .ared o → Alone s i th →
    let n := if o.w64 then 64 else 32
    resolve (startIssue i s) th (spaceOf o.sp) (s.gr th o.a).toNat (n / 8) .store = (s1, .ok k) →
    rejectedAtIssue (startIssue i s) th (spaceOf o.sp) (s.gr th o.a).toNat (n / 8) = false → isView k = false →
    (s.gr th o.a).toNat % (n / 8) = 0 → (isPeer k → o.op = .add ∨ o.op = .exch ∨ o.op = .cas) → poisonFlt s1 k (n / 8) = none →
    let x := BitVec.ofNat n (readNat s1.mem.cells k (n / 8))
    ∃ t, exec i s = .next t ∧ Settles s i th (if i = .atom o then [o.d.val] else []) t ∧
      (i = .atom o → t.gr th o.d = x.zeroExtend 64) ∧
      match atomic o.op n x ((s.gr th o.d).setWidth n) ((s.gr th (o.d.val + 1)).setWidth n) with
      | some y => Stored s1.mem.cells t.mem.cells k (bytesOfNat y.toNat (n / 8))
      | none => t.mem.cells = s1.mem.cells

namespace Sys2Proof.Claims

/-- R318, R97, R340: the fences and `pref` write nothing; an acquire drops what its threads' clusters hold of words that they do
not own, and changes nothing else. -/
def FencesAndPrefetch : Prop :=
  (∀ s i, (i = .fenceRel ∨ ∃ o, i = .pref o) → Carries s i → ∃ t, exec i s = .next t ∧ GoesOn s i t ∧ Keeps s i (fun _ => []) t) ∧
  (∀ s i, (i = .fenceAcq ∨ i = .fenceAr) → Carries s i → ∃ t, exec i s = .next t ∧ GoesOn s i t ∧ Acquires s i (fun _ => []) t)

end Sys2Proof.Claims

/-- R291: `nop` has no effect but that the group goes on. R318, R97, R340: the fences and `pref` write nothing; an acquire drops
what its threads' clusters hold of words that they do not own, and changes nothing else. -/
def Obligations.FencesPrefetchAndNop : Prop :=
  Claims.NopGoesOn ∧ Claims.FencesAndPrefetch

/-! ### Barriers, barrier objects and waits -/

namespace Sys2Proof.Claims

/-- R319: a thread that executes `bar` or `bar.g` outside a handler is Blocked there, while another thread of its team still runs. -/
def BarriersBlock : Prop :=
  ∀ s i b, (i = .bar ∧ b = false) ∨ (i = .barG ∧ b = true) → Carries s i →
    (∀ th ∈ s.active, (s.thread th).entered = [] ∧ hasCards s (s.teamIdOf th) = false ∧
      ∃ u ∈ teamThreads s (s.teamIdOf th), u ∉ s.active ∧ (s.thread u).run = .ready) →
    ∃ t, exec i s = .next t ∧ BlocksAt s i s.active (fun _ => .bar b) t ∧ t.mem = s.mem ∧ t.clusters = s.clusters ∧
      ∀ th ∈ s.active, ∀ T, s.teams.get? (s.teamIdOf th) = some T →
        (t.team (s.teamIdOf th)).arrivals.get? (s.thread th).gang = some (s.nowOf th)

/-- R319, R156: when the last live threads of a team arrive, its barrier opens: each of its gangs with a live thread stands in one
wave, no wave leaves in this front cycle, and every wave but those of an unlimited WAVE holds at most WAVE gangs. -/
def LastArrivalOpensTheBarrier : Prop :=
  ∀ s i tm T, i = .bar ∨ i = .barG → Carries s i → s.active ≠ [] → s.teams.get? tm = some T → T.waves = [] →
    (∀ th ∈ s.active, s.teamIdOf th = tm ∧ th ∈ teamThreads s tm ∧ (s.thread th).entered = []) → hasCards s tm = false →
    (∀ u ∈ teamThreads s tm, u ∈ s.active ∨ (s.thread u).run = .exited ∨ (s.thread u).atBar = true) →
    ∃ t, exec i s = .next t ∧ t.sched.agenda = s.sched.agenda ++ [.barrierWave] ∧
      ((t.team tm).waves.flatMap (·.2)).Perm (T.gangs.filter fun g => (threadsOf (s.gang g)).any fun u => (s.thread u).run != .exited) ∧
      ∀ w ∈ (t.team tm).waves, s.nowAt (T.cores.head?.getD 0) < w.1 ∧
        ((s.cluster (T.cores.head?.getD 0 / 16)).wave ≠ 0 → w.2.length ≤ (s.cluster (T.cores.head?.getD 0 / 16)).wave)

/-- R156: every wave that is due departs: its threads Blocked at the barrier go on behind it, and later waves stay. -/
def BarrierWavesDepart : Prop :=
  ∀ s, ∃ t, exec .barrierWave s = .next t ∧
    (∀ tm T, s.teams.get? tm = some T → T.res = .resident →
      (t.team tm).waves = T.waves.filter (fun w => decide (s.nowAt (T.cores.head?.getD 0) < w.1)) ∧
      ∀ w ∈ T.waves, w.1 ≤ s.nowAt (T.cores.head?.getD 0) → ∀ g ∈ w.2, ∀ th ∈ threadsOf (s.gang g), (s.thread th).atBar = true →
        s.threads.get? th ≠ none → (t.thread th).run = .ready ∧ (t.thread th).pc = (s.thread th).after) ∧
    (∀ th, (s.thread th).atBar = false → t.thread th = s.thread th) ∧ t.mem = s.mem

end Sys2Proof.Claims

/-- R319: a thread that executes `bar` or `bar.g` outside a handler is Blocked there, while another thread of its team still
runs. R319, R156: when the last live threads of a team arrive, its barrier opens: each of its gangs with a live thread stands in
one wave, no wave leaves in this front cycle, and every wave but those of an unlimited WAVE holds at most WAVE gangs. R156:
every wave that is due departs: its threads Blocked at the barrier go on behind it, and later waves stay. -/
def Obligations.TeamBarriers : Prop :=
  Claims.BarriersBlock ∧ Claims.LastArrivalOpensTheBarrier ∧ Claims.BarrierWavesDepart

/-- R321, R322, R104, R105: an arrival gives D the phase, and counts down ARRIVE and up BYTES, the phase turning when both come to
zero, for an object that no sensor window is bound to; `bobj.init` sets the counts and the phase. -/
def Obligations.BarrierObjects : Prop :=
  (∀ (s : State) th k i a d n, (∃ o : Op2, i = .bobjArrive o ∧ a = o.a ∧ d = o.d ∧ n = 0) ∨
      (∃ o : Op3X, i = .bobjExpect o ∧ a = o.a ∧ d = o.d ∧ n = (s.gr th o.b).toNat % 2 ^ 32) → Alone s i th →
    bobjKey s th (s.gr th a) = .ok k → windowsAt s k = [] →
    (readBobj s k).arrive ≠ 0 → (readBobj s k).bytes + n ≤ 2 ^ 31 - 1 →
    ∃ t, exec i s = .next t ∧ Settles s i th [d.val] t ∧ t.gr th d = (if (readBobj s k).phase then 1 else 0) ∧
      Stored s.mem.cells t.mem.cells k (bytesOfNat (arrivedBobj (readBobj s k) n).toNat 16)) ∧
  (∀ (o : OpAB) (s : State) th k, Alone s (.bobjInit o) th → bobjKey s th (s.gr th o.a) = .ok k →
    let v := (s.gr th o.b).toNat
    ∃ t, exec (.bobjInit o) s = .next t ∧ Settles s (.bobjInit o) th [] t ∧
      Stored s.mem.cells t.mem.cells k (bytesOfNat
        { readBobj s k with expect := v % 2 ^ 32, arrive := v % 2 ^ 32, bytes := 0, phase := (s.gr th o.b).getLsbD 32 }.toNat 16))

namespace Sys2Proof.Claims

/-- R323, R324, R92: a wait whose test holds gives D what it read and drops its cluster's copies; one whose test fails blocks its
thread; the re-test lets the thread go on when the test has come to hold. -/
def WaitsOnWords : Prop :=
  (∀ (o : Op3X) (s : State) th i w f s1 k, (i, w, f) ∈ waitTable o → Alone s i th → (s.gr th o.a).toNat % 8 = 0 →
    resolve (startIssue i s) th .gl (s.gr th o.a).toNat 8 .load = (s1, .ok k) → poisonFlt s1 k 8 = none →
    let v := BitVec.ofNat 64 (readNat s1.mem.cells k 8)
    if f v (s.gr th o.b) then ∃ t, exec i s = .next t ∧ Settles s i th [o.d.val] t ∧ t.gr th o.d = v ∧ t.mem = s1.mem ∧
      (s.clusterOf th < 18 → (t.cluster (s.clusterOf th)).copies = [])
    else ∃ t, exec i s = .next t ∧ BlocksAt s i [th] (fun _ => w (s.gr th o.a) (s.gr th o.b) o.d.val) t ∧ t.mem = s1.mem) ∧
  (∀ (o : Op3X) (s : State) th k, Alone s (.waitaPhase o) th → bobjKey s th (s.gr th o.a) = .ok k → poisonFlt s k 16 = none →
    let p := (readBobj s k).phase
    if p ≠ (s.gr th o.b).getLsbD 0 then ∃ t, exec (.waitaPhase o) s = .next t ∧ Settles s (.waitaPhase o) th [o.d.val] t ∧
      t.gr th o.d = (if p then 1 else 0) ∧ t.mem = s.mem ∧ (s.clusterOf th < 18 → (t.cluster (s.clusterOf th)).copies = [])
    else ∃ t, exec (.waitaPhase o) s = .next t ∧
      BlocksAt s (.waitaPhase o) [th] (fun _ => .waitaPhase (s.gr th o.a) (s.gr th o.b) o.d.val) t ∧ t.mem = s.mem) ∧
  (∀ s th x a b d k, s.threads.get? th = some x → x.run = .blocked (.waitaPhase a b d) → (s.teamOf th).res = .resident →
    bobjKey s th a = .ok k → poisonFlt s k 16 = none → d < 64 → d ∉ x.hintNow →
    let p := (readBobj s k).phase
    ∃ t, exec (.waitaRetest th) s = .next t ∧ (∀ u, u ≠ th → t.thread u = s.thread u) ∧
      if p ≠ b.getLsbD 0 then (t.thread th).run = .ready ∧ (t.thread th).pc = x.after ∧ (d ∉ x.hintEnd → t.gr th d = if p then 1 else 0) ∧
        (s.clusterOf th < 18 → (t.cluster (s.clusterOf th)).copies = [])
      else t = s)

/-- R325, R92: `waitm` lets a thread go on, as an acquire, when the tile that its handle names has all chunks of the mask filled,
and blocks it otherwise. -/
def WaitmTestsTheBitmap : Prop :=
  ∀ (o : OpHA) (s : State) (tile : Nat → Nat) (T : Nat → Tile), Carries s (.waitm o) →
    (∀ th ∈ s.active, vget (s.gangOf th).h o.h none = some (tile th) ∧ s.tiles.get? (tile th) = some (T th) ∧
      (s.gr th o.a).toNat < 2 ^ min (T th).chunks.length 64) →
    let full (th : Nat) : Bool := (List.range 64).all fun k => !((s.gr th o.a).getLsbD k) || bit (T th).bitmap k
    ((∀ th ∈ s.active, full th = true) → ∃ t, exec (.waitm o) s = .next t ∧ GoesOn s (.waitm o) t ∧ Acquires s (.waitm o) (fun _ => []) t) ∧
    ((∀ th ∈ s.active, full th = false) → ∃ t, exec (.waitm o) s = .next t ∧
      BlocksAt s (.waitm o) s.active (fun th => .waitm o.h (s.gr th o.a)) t ∧ SameDevice s t)

end Sys2Proof.Claims

/-- R323, R324, R92: a wait whose test holds gives D what it read and drops its cluster's copies; one whose test fails blocks its
thread; the re-test lets the thread go on when the test has come to hold. R325, R92: `waitm` lets a thread go on, as an acquire,
when the tile that its handle names has all chunks of the mask filled, and blocks it otherwise. -/
def Obligations.WaitsTestAndBlock : Prop :=
  Claims.WaitsOnWords ∧ Claims.WaitmTestsTheBitmap

/-! ### System instructions -/

/-- R326, R327, R328: `pop` takes the oldest entry of a FIFO into its registers with PD 1, gives 0 or 1 with PD 0 at an empty queue
whose producer is closed or in a draining group, and blocks at an empty queue otherwise; `push` appends its registers, extended
with zeros, and blocks at a full queue. For FIFOs that no other thread waits at, and a thread that owes no hint of an instruction
that it was Blocked at. -/
def Obligations.FifoQueues : Prop :=
  (∀ (o : OpFifo) (s : State) th inst st group I q, Alone s (.pop o) th → AtFifo s th o.f (o.n.val + 1) true inst st group I q →
    q.def_.prod ≠ 9 → q.poppers = [] → q.pushers = [] → (s.thread th).hintEnd = [] →
    (isDraining I st group = true ∨ (q.entries = [] ∧ producerClosed I q = true) →
      ∃ t, exec (.pop o) s = .next t ∧ PassesOn s (.pop o) t ∧
        t.gr th o.d = (if isDraining I st group then 1 else 0) ∧ (o.pd.val ≠ 15 → t.pr th o.pd = false) ∧ t.insts = s.insts ∧ t.mem = s.mem) ∧
    (∀ e rest, isDraining I st group = false → q.entries = e :: rest → ∃ t, exec (.pop o) s = .next t ∧ GoesOn s (.pop o) t ∧
      (∀ k ≤ o.n.val, o.d.val + k < 64 → t.gr th (o.d + k) = BitVec.ofNat 64 (natOfBytes ((e.take (8 * (o.n.val + 1))).drop (8 * k)))) ∧
      (o.pd.val ≠ 15 → t.pr th o.pd = true) ∧
      t.insts.get? inst = some { I with fifos := I.fifos.set o.f { q with entries := rest } } ∧ t.mem = s.mem) ∧
    (isDraining I st group = false → q.entries = [] → producerClosed I q = false → ∃ t, exec (.pop o) s = .next t ∧
      BlocksAt s (.pop o) [th] (fun _ => .pop o.f (o.n.val + 1) o.d o.pd) t ∧
      t.insts.get? inst = some { I with fifos := I.fifos.set o.f { q with poppers := [th] } })) ∧
  (∀ (o : OpFifo) (s : State) th inst st group I q, Alone s (.push o) th → AtFifo s th o.f (o.n.val + 1) false inst st group I q →
    q.poppers = [] → q.pushers = [] →
    (q.entries.length < q.def_.depth → ∃ t, exec (.push o) s = .next t ∧ GoesOn s (.push o) t ∧
      (∀ r, r ∉ poisonedBy s (.push o) th → t.gr th r = s.gr th r) ∧ (o.pd.val ≠ 15 → t.pr th o.pd = true) ∧ t.mem = s.mem ∧
      t.insts.get? inst = some { I with fifos := I.fifos.set o.f { q with entries := q.entries ++
        [((List.range (o.n.val + 1)).flatMap fun k => bytesOfNat (s.gr th (o.d + k)).toNat 8) ++
          List.replicate (16 * 2 ^ q.def_.esize - 8 * (o.n.val + 1)) 0] } }) ∧
    (q.def_.depth ≤ q.entries.length → ∃ t, exec (.push o) s = .next t ∧
      BlocksAt s (.push o) [th] (fun _ => .push o.f (o.n.val + 1) o.d o.pd) t ∧
      t.insts.get? inst = some { I with fifos := I.fifos.set o.f { q with pushers := [th] } }))

namespace Sys2Proof.Claims

/-- A thread's core holds a translation of an address to the key k of device memory, not compressed, which permits the use and needs no
mark (R76, R77). -/
structure Cached (s : State) (th va : Nat) (u : Use) (k : Nat) : Prop where
  space : s.isMgmt th = false ∧ va < 2 ^ 52
  hit : ∃ e, tlbHit s (s.coreOf th) (s.ctxOf th) va = some e ∧ bits e.value 59 58 = 0 ∧ touched e.value u = e.value ∧
    leafDenies e.value (decide (s.levelOf th = .sup)) u = false ∧ k = leafKey (s.ctx (s.ctxOf th)) (levelOfSize e.size) e.value va

/-- A queue descriptor at a virtual address a and key k of a thread (Table 6-1): its ring word q, its WRIDX i and its RDIDX r can be
read, and WRIDX written. -/
structure DescriptorHolds (s : State) (th a k q i r : Nat) : Prop where
  aligned : a % 32 = 0 ∧ a + 32 ≤ 2 ^ 52 ∧ k + 32 ≤ 2 ^ 48
  ring : Cached s th (a + 8) .load (k + 8) ∧ readNat s.mem.cells (k + 8) 8 = q
  wridx : Cached s th (a + 16) .store (k + 16) ∧ readNat s.mem.cells (k + 16) 8 = i
  rdidx : Cached s th (a + 24) .load (k + 24) ∧ readNat s.mem.cells (k + 24) 8 = r
  sound : ∀ j, 1 ≤ j → j ≤ 3 → poisonFlt s (k + 8 * j) 8 = none
  settled : s.sched.choices = []

/-- The ring that a ring word names has room for index i when RDIDX is r (R137). -/
def hasRoom (q i r : Nat) : Prop := (BitVec.ofNat 64 i - BitVec.ofNat 64 r).toNat < 2 ^ bits q 17 13

/-- The slot of index i of the ring of a ring word stands at key ks, and a thread can write it. -/
structure SlotAt (s : State) (th q i ks : Nat) : Prop where
  place : Cached s th (64 * bits q 63 18 + 64 * (i % 2 ^ bits q 17 13)) .store ks ∧ ks + 64 ≤ 2 ^ 48
  sound : unreachable s ks = false ∧ metadataFlt s ks = none

/-- The 64 bytes of a packet from its words. -/
def packetBytes (l : List Word) : List Byte := l.flatMap fun w => bytesOfNat w.toNat 8

/-- R329, R137: a `qpost` whose packet has a TYPE claims the index i that WRIDX holds, which rises by 1; where the ring has room it
writes the packet to the slot of that index, and gives D the index; where it has none its thread waits, and goes on with the packet
written once there is room. -/
def QpostClaimsAndWrites : Prop :=
  (∀ (o : OpQpost) (s : State) th k q i r, Alone s (.qpost o) th → (s.gr th (8 * o.b.val)).toNat % 256 ≠ 0 →
    DescriptorHolds s th (s.gr th o.a).toNat k q i r →
    let packet := (List.range 8).map fun j => s.gr th (8 * o.b.val + j)
    let claimed := writeCells s.mem.cells (k + 16) (bytesOfNat (i + 1) 8)
    (∀ ks, hasRoom q i r → SlotAt s th q i ks → ∃ t, exec (.qpost o) s = .next t ∧ Settles s (.qpost o) th [o.d.val] t ∧
      t.gr th o.d = BitVec.ofNat 64 i ∧ t.mem.cells = writeCells claimed ks (packetBytes packet)) ∧
    (¬hasRoom q i r → ∃ t, exec (.qpost o) s = .next t ∧ t.mem.cells = claimed ∧
      BlocksAt s (.qpost o) [th] (fun _ => .post (s.gr th o.a).toNat i q packet o.d) t)) ∧
  (∀ (s : State) th x a i q packet d k r, s.threads.get? th = some x → x.run = .blocked (.post a i q packet d) →
    (s.teamOf th).res = .resident → a % 32 = 0 → a + 32 ≤ 2 ^ 52 → Cached s th (a + 24) .load (k + 24) → k + 32 ≤ 2 ^ 48 →
    readNat s.mem.cells (k + 24) 8 = r → poisonFlt s (k + 24) 8 = none → s.sched.choices = [] → d < 64 → d ∉ x.hintNow →
    (∀ ks, hasRoom q i r → SlotAt s th q i ks → ∃ t, exec (.waitaRetest th) s = .next t ∧ (t.thread th).run = .ready ∧
      (t.thread th).pc = x.after ∧ (d ∉ x.hintEnd → t.gr th d = BitVec.ofNat 64 i) ∧ t.mem.cells = writeCells s.mem.cells ks (packetBytes packet) ∧
      ∀ u, u ≠ th → t.thread u = s.thread u) ∧
    (¬hasRoom q i r → ∃ t, exec (.waitaRetest th) s = .next t ∧ t.threads = s.threads ∧ t.mem = s.mem))

/-- R330: the packet p that a thread's kick of packet w forks: its team-local addresses are made absolute, and no other bit differs. -/
structure MadeAbsolute (s : State) (th w p : Nat) : Prop where
  src : bits p 319 256 = (bits w 319 256 + if bits w 39 37 = 1 then s.clusterOf th * 2 ^ 23 + (s.teamOf th).localBase else 0) % 2 ^ 64
  dst : bits p 255 192 = (bits w 255 192 + if bits w 42 40 = 1 then s.clusterOf th * 2 ^ 23 + (s.teamOf th).localBase else 0) % 2 ^ 64
  obj : bits p 63 44 = (bits w 63 44 + if bit w 43 then (s.teamOf th).localBase / 16 else 0) % 2 ^ 20
  rest : ∀ n < 512, n < 192 ∨ 320 ≤ n → n < 44 ∨ 64 ≤ n → bit p n = bit w n

/-- R330, R107, R256, R215: a kick of a copy or gather packet with legal fields, while its core's engine holds fewer than 512
operations, forks one operation with the packet's team-local fields made absolute, counted on the selected flag; at a full engine
its thread waits to issue it again. -/
def CopyForksAnOperation : Prop :=
  ∀ (o : OpCopy) (s : State) th, Alone s (.copy o) th →
    let w := groupNat s th (8 * o.a.val) 8
    kickBad w = false → kickRange s th w = none →
    (engineLoad s (s.coreOf th) < 512 → ∃ t p, exec (.copy o) s = .next t ∧ MadeAbsolute s th w p ∧
      Forks s (.copy o) (some o.fs)
        (if bits w 7 0 = 0x11 then .gather p (bits p 319 256) (bits p 255 192) else .copy p (bits p 319 256) (bits p 255 192)) [] [] s t) ∧
    (512 ≤ engineLoad s (s.coreOf th) → ∃ t, exec (.copy o) s = .next t ∧ t.ops = s.ops ∧ t.mem = s.mem ∧ t.grp = Group.empty ∧
      { t.thread th with since := 0, after := 0 } = { s.thread th with since := 0, after := 0 } ∧
      (t.core (s.coreOf th)).kicks = (s.core (s.coreOf th)).kicks.filter (fun e => e.1 != th) ++ [(th, (s.thread th).pc)])

end Sys2Proof.Claims

/-- R329, R137: a `qpost` whose packet has a TYPE claims the index i that WRIDX holds, which rises by 1; where the ring has room it
writes the packet to the slot of that index, and gives D the index; where it has none its thread waits, and goes on with the
packet written once there is room. For a descriptor and a slot in device memory whose translations its core holds. R330, R107,
R256, R215: a kick of a copy or gather packet with legal fields, while its core's engine holds fewer than 512 operations, forks
one operation with the packet's team-local fields made absolute, counted on the selected flag; at a full engine its thread waits
to issue it again. It rests on choices of the model (logs 5 and 26). -/
def Obligations.QueuePostsAndCopies : Prop :=
  Claims.QpostClaimsAndWrites ∧ Claims.CopyForksAnOperation

namespace Sys2Proof.Claims

/-- R332, R31: `grow` gives each participant the team count that it found and raises it by A, in ascending lane. -/
def GrowRaisesTheTeamCount : Prop :=
  ∀ (o : Op2) (s : State) gr G, Carries s (.grow o) → s.grids.get? gr = some G →
    (∀ th ∈ s.active, (s.teamOf th).grid = gr ∧ growBad s th = false) →
    G.n + (s.active.map fun th => (s.gr th o.a).toNat).sum < 2 ^ 32 → ∃ t, exec (.grow o) s = .next t ∧ GoesOn s (.grow o) t ∧
      RegFrame s (.grow o) (fun th => if th ∈ s.active then [o.d.val] else []) t ∧
      (∀ pre th post, s.active = pre ++ th :: post → t.gr th o.d = BitVec.ofNat 64 (G.n + (pre.map fun u => (s.gr u o.a).toNat).sum)) ∧
      t.grids.get? gr = some { G with n := G.n + (s.active.map fun th => (s.gr th o.a).toNat).sum } ∧ t.mem = s.mem

/-- R336: `smov` gives D the special register that it names, zero-extended. -/
def SpecialRegisters : Prop :=
  ∀ (o : OpSmov) (s : State), Carries s (.smov o) → ∃ t, exec (.smov o) s = .next t ∧
    WritesReg s (.smov o) o.d (fun th => BitVec.ofNat 64 (specialValue s th o.n)) t

end Sys2Proof.Claims

/-- R332, R31: `grow` gives each participant the team count that it found and raises it by A, in ascending lane. R336: `smov`
gives D the special register that it names, zero-extended. -/
def Obligations.GrowAndSpecialRegisters : Prop :=
  Claims.GrowRaisesTheTeamCount ∧ Claims.SpecialRegisters

namespace Sys2Proof.Claims

/-- R337, R339: `mrd` gives D the register that A addresses and `mwr` writes it, for a thread whose level or core may; both drop
their cluster's copies, as a fence does. -/
def ManagementRegisterAccess : Prop :=
  (∀ (o : Op2) (s : State) th m, Alone s (.mrd o) th → mDenied s th (s.gr th o.a) false = none → mAddrOf (s.gr th o.a).toNat = some m →
    ∃ t, exec (.mrd o) s = .next t ∧ Settles s (.mrd o) th [o.d.val] t ∧ t.gr th o.d = (readReg s m).2 ∧ t.mem = s.mem) ∧
  (∀ (o : OpAB) (s : State) th m, Alone s (.mwr o) th → mDenied s th (s.gr th o.a) true = none → mAddrOf (s.gr th o.a).toNat = some m →
    let u := writeReg (acquire s (s.clusterOf th)) m (s.gr th o.b) (s.isMgmt th)
    ∃ t, exec (.mwr o) s = .next t ∧ Settles s (.mwr o) th [] t ∧ t.mgmt = u.mgmt ∧ t.clusters = u.clusters ∧ t.mem = u.mem ∧
      ∀ x, m.block ≠ 4 → t.ctx x = u.ctx x)

/-- R9, R10, R337: a register of the management address map that the management core writes reads back as the written value at the
bits that its table defines, and as zero at the others. -/
def RegistersKeepTheirFields : Prop :=
  ∀ (s : State) cl n x C a mask v, cl < 18 → n < 16 → x < 2 ^ 12 → s.ctxs.get? x = some C → clusterOut s cl = false →
    (s.cluster cl).memoTable.length = 16 → (a, mask) ∈ fieldTable cl n x →
    (readReg (writeReg s a v true) a).2 = v &&& mask

end Sys2Proof.Claims

/-- R337, R339: `mrd` gives D the register that A addresses and `mwr` writes it, for a thread whose level or core may; both drop
their cluster's copies, as a fence does. R9, R10, R337: a register of the management address map that the management core writes
reads back as the written value at the bits that its table defines, and as zero at the others. -/
def Obligations.ManagementRegisters : Prop :=
  Claims.ManagementRegisterAccess ∧ Claims.RegistersKeepTheirFields

/-- R333, R54: `yield` acts as nop for threads in handlers and of urgent, stage and batch teams, and in a context without a save
area; otherwise it suspends its team into the lowest free slot that is large enough. It rests on choices of the model (log 32). -/
def Obligations.YieldSuspendsTheTeam : Prop :=
  (∀ s, Carries s .yield → (∀ th ∈ s.active, yields s th = false ∨ (s.ctx (s.ctxOf th)).saveArea = 0) →
    ∃ t, exec .yield s = .next t ∧ GoesOn s .yield t ∧ Keeps s .yield (fun _ => []) t) ∧
  (∀ s tm T s1 size n busy k, Carries s .yield → s.active ≠ [] → (∀ th ∈ s.active, yields s th = true ∧ s.teamIdOf th = tm) →
    s.teams.get? tm = some T → T.res = .resident → T.waves = [] → s.accs = [] →
    saveHeader (issue .yield (fun st _ => Out.ok st) s) (s.grid T.grid).ctx = (s1, some (size, n, busy)) →
    k < min n 64 → bit busy k = false → (∀ j < k, bit busy j = true) → (sectionOffsets 256 (sectionSizes s1 tm)).2 ≤ size →
    ∃ t, exec .yield s = .next t ∧ GoesOn s .yield t ∧ (t.team tm).res = .yielding k ∧
      t.sched.agenda = s.sched.agenda ++ [.yieldSaveComplete])

/-! ### Exceptions -/

/-- R334, R423, R430: every thread that executes `trap #c` with a true guard enters its kernel's handler with the Software cause, c as
INFO, and the address behind the trap word to return to. -/
def Obligations.TrapEntersTheHandler : Prop :=
  ∀ (c : BitVec 16) (s : State) g G h, OneGang s (.trap c) g → AtRest s g G → (∀ th ∈ s.active, InPlace s g th) → KernelHandlerAt s G.team h →
    ∃ t, exec (.trap c) s = .next t ∧
      EntersHandler s g s.active cSoft (c.setWidth 64) s.grp.pc (s.grp.cursor + 4) false h t ∧ LeavesOthers s (.trap c) s.active t

namespace Sys2Proof.Claims

/-- R309, R423: threads whose load or store address is not a multiple of the access size enter their kernel's handler with the
alignment cause, INFO being the address of the one at the lowest position, and nothing is loaded or stored. -/
def MisalignedAccessesTrap : Prop :=
  ∀ (s : State) g G h i (ea : Nat → Nat), OneGang s i g → AtRest s g G → (∀ th ∈ s.active, InPlace s g th) → KernelHandlerAt s G.team h →
    ((∃ (o : OpLd) (z : Nat) (f : Nat → Word), (i, z, f) ∈ loadTable o ∧
        ∀ th ∈ s.active, ea th = address (s.gr th o.a) o.off z ∧ ea th % z ≠ 0) ∨
      (∃ (o : OpSt) (z : Nat), (i, z) ∈ storeTable o ∧ ∀ th ∈ s.active, ea th = address (s.gr th o.a) o.off z ∧ ea th % z ≠ 0)) →
    ∃ t, exec i s = .next t ∧ EntersHandler s g s.active cAlign (BitVec.ofNat 64 (ea (s.active.head?.getD 0))) s.grp.pc (s.grp.cursor + 4) false h t ∧
      LeavesOthers s i s.active t ∧ ∃ m, (s.setMem m).mem.cells = t.mem.cells ∧ kernelHandler s G.team = (s.setMem m, some h)

/-- R266, R502, R504: a thread for which the encoding cause arises enters its kernel's handler without any effect of the
instruction, whichever encoded instruction it is; INFO is the first 32 bits at the entry's PC. -/
def EncodingCauseTraps : Prop :=
  ∀ (s : State) g G h i, i.encoded = true → (∀ neg p, i ≠ .guardPrefix neg p) → (∀ z m, i ≠ .modePrefix z m) →
    s.grp.threads.Pairwise (fun a b => s.laneOf a < s.laneOf b) → s.grp.threads ≠ [] →
    (∀ th ∈ s.grp.threads, (s.thread th).run = .ready ∧ encodingBad s i th = true ∧ InPlace s g th) → AtRest s g G →
    KernelHandlerAt s G.team h →
    ∃ t info, exec i s = .next t ∧ EntersHandler s g s.grp.threads cEncoding info s.grp.pc (s.grp.cursor + i.len) false h t ∧
      t.grp = Group.empty ∧ (∀ th, th ∉ s.grp.threads → t.thread th = s.thread th) ∧
      info = encodingInfo (startIssue i s) (s.grp.threads.head?.getD 0) s.grp.pc

end Sys2Proof.Claims

/-- R309, R423: threads whose load or store address is not a multiple of the access size enter their kernel's handler with the
alignment cause, INFO being the address of the one at the lowest position, and nothing is loaded or stored. R266, R502, R504: a
thread for which the encoding cause arises enters its kernel's handler without any effect of the instruction, whichever encoded
instruction it is; INFO is the first 32 bits at the entry's PC. -/
def Obligations.MisalignedAndIllegalInstructionsTrap : Prop :=
  Claims.MisalignedAccessesTrap ∧ Claims.EncodingCauseTraps

/-- R335, R431, R253: a thread that executes `tret` in its gang's handler goes to the even address in w28 at the level that it left; when
the last named thread has done so, w28 to w31 hold what the trap frame kept and the delivery ends. It rests on choices of the
model (log 15). -/
def Obligations.TretReturns : Prop :=
  ∀ s g G d, OneGang s .tret g → s.gangs.get? g = some G → G.nested = none → G.delivery = some d → G.queue = [] →
    (vget G.w 28 0).getLsbD 0 = false → (∀ th ∈ s.active, th ∈ d.left ∧ (s.thread th).entered ≠ []) →
    let dest := (vget G.w 28 0).toNat % 2 ^ 52
    ∃ t, exec .tret s = .next t ∧ t.grp = Group.empty ∧
      (∀ th ∈ s.active, (t.thread th).run = .ready ∧ (t.thread th).pc = dest ∧ (t.thread th).entered = (s.thread th).entered.tail ∧
        (t.thread th).clause = ((s.thread th).entered.head?.bind (·.back)).filter fun c => decide (c.hdr + 4 ≤ dest ∧ dest < c.fin)) ∧
      (∀ th, th ∉ s.grp.threads → t.thread th = s.thread th) ∧
      if (∀ th ∈ d.left, th ∈ s.active)
      then (t.gang g).delivery = none ∧ ∀ k < 4, vget (t.gang g).w (28 + k) 0 = vget (if d.sup then G.frameS else G.frameK) k 0
      else (∃ l, (t.gang g).delivery = some ⟨d.sup, l, d.named⟩ ∧ ∀ th, th ∈ l ↔ th ∈ d.left ∧ th ∉ s.active) ∧ (t.gang g).w = G.w

namespace Sys2Proof.Claims

/-- R426, R427, R430: raised entries enter their gang's queue in order; the head entry is delivered when no handler runs in the gang,
to the kernel's handler, or to the supervisor's for a cause of that level. -/
def TrapQueue : Prop :=
  (∀ s g G, s.gangs.get? g = some G → s.accs = [] → G.undo = [] → ∃ t, exec (.trapEntryQueue g) s = .next t ∧
    t.gang g = { G with queue := G.queue ++ G.raised.map (·.entry), raised := [] } ∧ t.threads = s.threads ∧ t.mem = s.mem) ∧
  (∀ s g G e rest h who, s.gangs.get? g = some G → G.queue = e :: rest → G.delivery = none → G.nested = none → G.nestq = [] →
    (s.team G.team).res = .resident → (∀ th ∈ who, InPlace s g th) → G.width ≤ 64 →
    (∀ p < G.width, bit e.mask p = who.any fun th => (s.thread th).pos == p) → (∀ p, G.width ≤ p → bit e.mask p = false) →
    (if causeIsSup e.cause then SupHandlerAt s (s.grid (s.team G.team).grid).ctx h else KernelHandlerAt s G.team h) →
    ∃ t, exec (.trapDelivery g) s = .next t ∧ EntersHandler s g who e.cause e.info e.pc e.after (causeIsSup e.cause) h t ∧
      (t.gang g).queue = rest ∧ ∀ th, th ∉ who → t.thread th = s.thread th)

/-- R449: an asynchronous cause that a thread holds names it at its next instruction boundary, and it enters its kernel's handler
with that cause and the INFO of the failure. -/
def AsynchronousCauseIsNamed : Prop :=
  ∀ s g G th x f cause info more h, s.threads.get? th = some x → x.held = [⟨f, cause, info, more, [], none⟩] → AtRest s g G → InPlace s g th →
    x.run = .ready → th ∉ s.grp.threads → s.grp2 = none → causeIsSup cause = false → KernelHandlerAt s G.team h →
    (∀ u ∈ threadsOf G, u ≠ th → (s.thread u).held = []) →
    ∃ t, exec (.asyncTrapEntry th) s = .next t ∧ EntersHandler s g [th] cause info x.pc x.pc false h t ∧
      (t.thread th).held = [] ∧ ∀ u, u ≠ th → t.thread u = s.thread u

end Sys2Proof.Claims

/-- R426, R427, R430: raised entries enter their gang's queue in order; the head entry is delivered when no handler runs in the
gang, to the kernel's handler, or to the supervisor's for a cause of that level. R449: an asynchronous cause that a thread holds
names it at its next instruction boundary, and it enters its kernel's handler with that cause and the INFO of the failure. -/
def Obligations.TrapQueueAndDelivery : Prop :=
  Claims.TrapQueue ∧ Claims.AsynchronousCauseIsNamed

/-! ### Tiles -/

namespace Sys2Proof.Claims

/-- No thread of a gang is Blocked. -/
def NoneBlocked (s : State) (g : Nat) : Prop := ∀ th ∈ threadsOf (s.gang g), (s.thread th).run = .ready ∨ (s.thread th).run = .exited

/-- A gang-wide instruction on tiles that has gone on: registers but hints, predicates and the rest of every thread are as before, and
so are operations in flight and everything of a gang but its handles and offers. -/
structure TileFrame (s : State) (i : Instr) (t : State) : Prop where
  goes : GoesOn s i t
  regs : RegFrame s i (fun _ => []) t
  preds : ∀ th, (t.thread th).p = (s.thread th).p
  threads : SameThreads s t
  ops : t.ops = s.ops
  gangs : ∀ x, { t.gang x with undo := [], h := (s.gang x).h, offers := (s.gang x).offers } = { s.gang x with undo := [] }

/-- The handle of gang g holds v, and every other handle what it held. -/
def HandleIs (s : State) (g h : Nat) (v : Option Nat) (t : State) : Prop :=
  vget (t.gang g).h h none = v ∧ ∀ x n, (x ≠ g ∨ n ≠ h) → vget (t.gang x).h n none = vget (s.gang x).h n none

/-- R350: a tile just allocated to gang g. -/
def newTile (core ctx : Nat) (cs : List Nat) (int : Bool) (key g : Nat) : Tile :=
  ⟨core, ctx, cs, 2 ^ min cs.length 64 - 1, [], int, key, some g, false⟩

/-- Table 14-1: the word that tqry gives. -/
def tileWord (s : State) (g h : Nat) : Word :=
  let offers := BitVec.ofNat 64 (s.gang g).offers.length <<< 58
  match tileAt s g h with
  | none => offers
  | some (id, T) => 1#64 <<< 63 + (if T.int then 1#64 <<< 62 else 0) + (if T.key ≠ 0 then 1#64 <<< 61 else 0) + offers +
      BitVec.ofNat 64 (min 255 (opsOnTile s id).length) <<< 50 + BitVec.ofNat 64 T.permits.length <<< 43 + BitVec.ofNat 64 T.chunks.length

/-- R350, R70: `talloc` names a new tile of the chunks that A asks for by its handle, charged to the gang, the bits of its chunks
set; chunks with `.z`, or last held by another context, are zeroed, and no other byte changes. -/
def TallocMakesATile : Prop :=
  ∀ (o : OpTalloc) (s : State) g cs, OneGang s (.talloc o) g → NoneBlocked s g →
    let a := leadReg s s.active o.a
    let core := (s.gang g).core
    tallocBad s g o.h a = false → takeChunks s g (bits a 9 0) = some cs →
    ∃ t, exec (.talloc o) s = .next t ∧ TileFrame s (.talloc o) t ∧ HandleIs s g o.h (some s.sched.nextId) t ∧
      t.tiles = s.tiles.set s.sched.nextId (newTile core (gangCtx s g) cs (bit a 15) (bits a 63 32) g) ∧
      ∀ x, readCell x t.mem.cells = if cs.any (fun c => zeroes s o.z core (gangCtx s g) c &&
        decide (tileKey core c 0 ≤ x ∧ x < tileKey core c 0 + 512)) then 0 else readCell x s.mem.cells

/-- R351: `tfree` ends the handle and the drain key; a tile with nothing left on it returns its chunks at once, and the group waits
for any other. A freed tile returns when its last operation and permit are complete, and the threads that wait go on. -/
def TfreeReleasesATile : Prop :=
  (∀ (h : Handle) (s : State) g id T, OneGang s (.tfree h) g → NoneBlocked s g → tileAt s g h = some (id, T) →
    (T.permits = [] ∧ opsOnTile s id = [] → ∃ t, exec (.tfree h) s = .next t ∧ TileFrame s (.tfree h) t ∧ HandleIs s g h none t ∧
      t.tiles = s.tiles.del id ∧ t.mem.cells = s.mem.cells) ∧
    (¬(T.permits = [] ∧ opsOnTile s id = []) → ∃ t, exec (.tfree h) s = .next t ∧ HandleIs s g h none t ∧
      BlocksAt s (.tfree h) s.active (fun _ => .tfree id) t ∧ t.tiles = s.tiles.set id { T with freed := true, key := 0 } ∧ t.mem = s.mem)) ∧
  (∀ s, ∃ t, exec .tileRelease s = .next t ∧ t.mem.cells = s.mem.cells ∧
    (∀ id T, s.tiles.get? id = some T →
      t.tiles.get? id = if T.freed && T.permits.isEmpty && (opsOnTile s id).isEmpty then none else some T) ∧
    ∀ th x id T, s.threads.get? th = some x → x.run = .blocked (.tfree id) → s.tiles.get? id = some T → T.freed = true → T.permits = [] →
      opsOnTile s id = [] → (t.thread th).run = .ready ∧ (t.thread th).pc = x.after)

/-- R352, R353: `thand` offers the handle's tile to the gang that A numbers, which may hold four offers, and ends the handle; `tacc` takes
the oldest offer of an ended front cycle from the sender that A asks for, with the charge, as an acquire, or blocks. R355: `tqry`
gives the word of Table 14-1. -/
def HandoverOfTiles : Prop :=
  (∀ (o : OpHA) (s : State) g tg id T, OneGang s (.thand o) g → NoneBlocked s g →
    let a := leadReg s s.active o.a
    a < 2 ^ 16 → gangNumbered s (s.gang g).team (s.gang g).core a = some tg → s.gangs.get? tg ≠ none → tileAt s g o.h = some (id, T) →
    (s.gang tg).offers.length < 4 →
    ∃ t, exec (.thand o) s = .next t ∧ TileFrame s (.thand o) t ∧ HandleIs s g o.h none t ∧ t.tiles = s.tiles ∧ t.mem = s.mem ∧
      (t.gang tg).offers.Perm (⟨id, (s.gang g).num, s.nowAt (s.gang g).core⟩ :: (s.gang tg).offers) ∧
      ∀ x, x ≠ tg → (t.gang x).offers = (s.gang x).offers) ∧
  (∀ (o : OpHA) (s : State) g, OneGang s (.tacc o) g → NoneBlocked s g →
    let a := leadReg s s.active o.a
    a < 2 ^ 16 → vget (s.gang g).h o.h none = none →
    let past (f : Offer) := decide (f.since < s.nowAt (s.gang g).core)
    (∀ of T, (s.gang g).offers.find? (fun f => (a == 0xFFFF || f.sender == a) && past f) = some of → s.tiles.get? of.tile = some T →
      ∃ t, exec (.tacc o) s = .next t ∧ TileFrame s (.tacc o) t ∧ HandleIs s g o.h (some of.tile) t ∧ t.mem = s.mem ∧
        ((s.gang g).core < 288 → (t.cluster ((s.gang g).core / 16)).copies = []) ∧
        (t.gang g).offers = (s.gang g).offers.erase of ∧ t.tiles = s.tiles.set of.tile { T with charge := some g }) ∧
    ((s.gang g).offers.all (fun f => a != 0xFFFF && f.sender != a || !past f) = true →
      ∃ t, exec (.tacc o) s = .next t ∧ BlocksAt s (.tacc o) s.active (fun _ => .tacc o.h a s.sched.order) t ∧ SameDevice s t)) ∧
  (∀ (o : OpTqry) (s : State), Carries s (.tqry o) → ∃ t, exec (.tqry o) s = .next t ∧
    WritesReg s (.tqry o) o.a (fun th => tileWord s (s.thread th).gang o.h) t)

end Sys2Proof.Claims

/-- R350, R70: `talloc` names a new tile of the chunks that A asks for by its handle, charged to the gang, the bits of its
chunks set; chunks with `.z`, or last held by another context, are zeroed, and no other byte changes. R351: `tfree` ends the
handle and the drain key; a tile with nothing left on it returns its chunks at once, and the group waits for any other. A freed
tile returns when its last operation and permit are complete, and the threads that wait go on. R352, R353: `thand` offers the
handle's tile to the gang that A numbers, which may hold four offers, and ends the handle; `tacc` takes the oldest offer of an
ended front cycle from the sender that A asks for, with the charge, as an acquire, or blocks. R355: `tqry` gives the word of
Table 14-1. It rests on choices of the model (logs 9, 17 and 36). -/
def Obligations.TilesAreMadeReleasedAndHandedOver : Prop :=
  Claims.TallocMakesATile ∧ Claims.TfreeReleasesATile ∧ Claims.HandoverOfTiles

namespace Sys2Proof.Claims

/-- A gang-wide instruction whose handles name the tiles `ids`, which are listed. -/
def HandlesName (s : State) (g : Nat) (l : List (Nat × Nat × Tile)) : Prop :=
  ∀ e ∈ l, vget (s.gang g).h e.1 none = some e.2.1 ∧ s.tiles.get? e.2.1 = some e.2.2

/-- Tables 14-2 to 14-5: the operations on one or two tiles that read no memory at their issue, with the tiles that they name, the
flag that counts them, the conditions on their operands, and the operation that they fork on tiles x and y. -/
def tileTable (z : Handle) (c : OpTcvt) (h : OpDrainH) (p : OpDrainP) (b : OpDrainB) (s : State) (x y : Nat) (X Y : Tile) :
    List (Instr × List (Nat × Nat × Tile) × Option Bool × Prop × Job × List Nat × List Nat) :=
  let a := leadReg s s.active p.a
  [ (.tzero z, [(z, x, X)], none, True, .tzero x, [], [x]),
    (.tcvt c, [(c.ta, x, X), (c.td, y, Y)], some c.fs, x ≠ y ∧ cvtBytes c.t X.chunks.length ≤ 512 * Y.chunks.length, .tcvt x y c.t c.mode, [x], [y]),
    (.tdrainH h, [(h.ta, x, X), (h.td, y, Y)], some h.fs, x ≠ y ∧ X.chunks.length ≤ Y.chunks.length, .drainH x y, [x], [y]),
    (.tdrainPeer p, [(p.ta, x, X)], some p.fs, bits a 31 9 = 0, .drainPeer x (bits a 8 0) (bits a 63 32), [x], []),
    (.tdrainByp b, [(b.ta, x, X)], some b.fs, ∀ th ∈ s.active, (s.core (s.coreOf th)).selfTest = true, .drainByp x, [x], []) ]

/-- R349: a tile operation with no earlier conflicting one on its tiles completes without a failure: it leaves the table, the flags
that counted it fall by one each, and memory is `m`. For threads that do not wait to exit, and no freed tile. -/
structure TileOpReady (s : State) (op : Nat) (x : Op) : Prop where
  listed : s.ops.get? op = some x
  free : scoreboardFree s op x = true
  noQueue : x.qid = none
  running : ∀ d ∈ x.decs, (s.thread d.1).run = .ready
  kept : ∀ e ∈ s.tiles, e.2.freed = false

/-- What the end of a tile operation leaves. -/
structure OpEnds (s : State) (op : Nat) (x : Op) (t : State) : Prop where
  ops : t.ops = s.ops.del op
  flags : ∀ th n, vget (t.thread th).f n 0 = vget (s.thread th).f n 0 - x.decs.count (th, n)
  threads : ∀ th, { t.thread th with f := (s.thread th).f } = s.thread th

/-- A tile of distinct chunks, none of them poisoned. -/
def Sound (s : State) (T : Tile) : Prop := T.chunks.Nodup ∧ ∀ c ∈ T.chunks, c < 512 ∧ poisonAt s.mem (tileKey T.core c 0) 512 = none

/-- Word j of a tile. -/
def tileWord32 (s : State) (T : Tile) (j : Nat) : Nat := readNat s.mem.cells (T.key_ (4 * j)) 4

/-- Element j of a tile: FP6 elements in pairs of words for 32 of them, others packed (R125, R126). -/
def tileElem (s : State) (T : Tile) (e : Elem) (j : Nat) : Nat :=
  let n := (elemNum e).width
  if e = .e3m2 ∨ e = .e2m3 then readNat s.mem.cells (T.key_ (32 * (j / 32))) 32 / 2 ^ fp6Place (j % 32) % 64
  else readNat s.mem.cells (T.key_ (n * j / 8)) ((n + 7) / 8) / 2 ^ (n * j % 8) % 2 ^ n

/-- The FP32 value that scaleacc gives an element from the codes of its scales, of P and of D (R365, R130). -/
def scaled (o : OpScale) (sa sb p d : Nat) : Nat :=
  let v := if o.i32 then Fl.scaled (sextNat 32 p) (-12) else decodeF fFP32 p
  roundF fFP32 o.mode (Fl.add o.mode (decodeF fFP32 d) (scaleProduct o.ua o.ub (scaleOf o.ua sa) (scaleOf o.ub sb) v))

end Sys2Proof.Claims

/-- R347, R356, R357, R365 to R368: the instructions on tiles fork one operation of their gang, counted on the selected flag. A
transfer names the bytes that its range translates to at issue, and `scaleacc` the scales that it read there. It rests on
choices of the model (log 5). -/
def Obligations.TileInstructionsFork : Prop :=
  (∀ z c h p b s x y X Y g i hs fs ok job reads writes,
    (i, hs, fs, ok, job, reads, writes) ∈ tileTable z c h p b s x y X Y → OneGang s i g → HandlesName s g hs → ok →
    ∃ t, exec i s = .next t ∧ Forks s i fs job reads writes s t) ∧
  (∀ (o : OpTmem) (s : State) g id T s1 keys (store : Bool), let i := if store then Instr.tst o else .tld o
    OneGang s i g → HandlesName s g [(o.h, id, T)] → leadReg s s.active o.a % 16 = 0 →
    rangeKeys (startIssue i s) (s.active.head?.getD 0) o.sp (leadReg s s.active o.a) (512 * T.chunks.length) (if store then .store else .load) =
      (s1, .ok keys) →
    ∃ t, exec i s = .next t ∧
      Forks s i (some o.fs) (if store then .tst id keys else .tld id keys) (if store then [id] else []) (if store then [] else [id]) s1 t) ∧
  (∀ (o : OpScale) (s : State) g ip id P D s1 keys, OneGang s (.scaleacc o) g → HandlesName s g [(o.ta, ip, P), (o.td, id, D)] →
    D.chunks.length = P.chunks.length → P.chunks.length ≤ (s.gang g).width → leadReg s s.active o.a % 16 = 0 →
    rangeKeys (startIssue (.scaleacc o) s) (s.active.head?.getD 0) .lo (leadReg s s.active o.a) (128 + (s.gang g).width) .load = (s1, .ok keys) →
    (∀ k ∈ keys, poisonFlt s1 k.1 k.2 = none) →
    let rec_ := keys.flatMap fun k => readCells s1.mem.cells k.1 k.2
    scaleBad o.ua o.ub (128 * P.chunks.length / (s.gang g).width) (s.gang g).width rec_ = none →
    ∃ t, exec (.scaleacc o) s = .next t ∧
      Forks s (.scaleacc o) (some o.fs) (.scaleacc ip id o.i32 o.mode o.ua o.ub (s.gang g).width rec_) [ip, id] [id] s1 t)

namespace Sys2Proof.Claims

/-- R349, R356, R357, R365, R366, R368: what a tile operation leaves in its tiles when it completes: bytes loaded, stored, zeroed
or drained, elements converted, and scaled sums. -/
def TileOperations : Prop :=
  ∀ (s : State) op x, TileOpReady s op x → ∃ t, exec (.tileOperationCompletion op) s = .next t ∧
    (∀ id T keys, x.job = .tld id keys → s.tiles.get? id = some T → Sound s T → (unitsOf keys).length = 32 * T.chunks.length →
      (∀ k ∈ unitsOf keys, k + 16 ≤ 2 ^ 64 ∧ poisonFlt s k 16 = none) →
      OpEnds s op x t ∧ ∀ j < 512 * T.chunks.length,
        readCell (T.key_ j) t.mem.cells = readCell (nth (unitsOf keys) (j / 16) 0 + j % 16) s.mem.cells) ∧
    (∀ id T keys, x.job = .tst id keys → s.tiles.get? id = some T → Sound s T → (unitsOf keys).length = 32 * T.chunks.length →
      (unitsOf keys).Pairwise (fun a b => a + 16 ≤ b ∨ b + 16 ≤ a) →
      (∀ k ∈ unitsOf keys, k + 16 ≤ 2 ^ 64 ∧ unreachable s k = false ∧ metadataFlt s k = none) →
      OpEnds s op x t ∧ ∀ j < 512 * T.chunks.length,
        readCell (nth (unitsOf keys) (j / 16) 0 + j % 16) t.mem.cells = readCell (T.key_ j) s.mem.cells) ∧
    (∀ id T, x.job = .tzero id → s.tiles.get? id = some T →
      OpEnds s op x t ∧ ∀ j < 512 * T.chunks.length, readCell (T.key_ j) t.mem.cells = 0) ∧
    (∀ ia id X Y e m, x.job = .tcvt ia id e m → s.tiles.get? ia = some X → s.tiles.get? id = some Y → Sound s X → Sound s Y →
      cvtBytes e X.chunks.length ≤ 512 * Y.chunks.length →
      OpEnds s op x t ∧ ∀ j < 128 * X.chunks.length, tileElem t Y e j = convert (.fl fFP32) (elemNum e) m false (tileWord32 s X j)) ∧
    (∀ (o : OpScale) ip id P D w rec_, x.job = .scaleacc ip id o.i32 o.mode o.ua o.ub w rec_ → s.tiles.get? ip = some P →
      s.tiles.get? id = some D → Sound s P → Sound s D → D.chunks.length = P.chunks.length →
      OpEnds s op x t ∧ ∀ j < 128 * P.chunks.length, tileWord32 t D j =
        scaled o (nth rec_ (j / w) 0).toNat (nth rec_ (128 + j % w) 0).toNat (tileWord32 s P j) (tileWord32 s D j)) ∧
    (∀ ia id X Y, x.job = .drainH ia id → s.tiles.get? ia = some X → s.tiles.get? id = some Y → Sound s X → Sound s Y →
      X.chunks.length ≤ Y.chunks.length →
      OpEnds s op x t ∧ ∀ j < 512 * X.chunks.length, readCell (Y.key_ j) t.mem.cells = readCell (X.key_ j) s.mem.cells) ∧
    (∀ ia X, x.job = .drainByp ia → s.tiles.get? ia = some X → Sound s X →
      OpEnds s op x t ∧ t.mem = s.mem ∧ ∃ l, (t.core x.core).bypass = some l ∧ l.length = 512 * X.chunks.length ∧
        ∀ j < 512 * X.chunks.length, nth l j 0 = readCell (X.key_ j) s.mem.cells)

/-- R331, R224, R367: `permit` clears the bits of the chunks that B names and forks a push of each; a landing brings the chunk's 512
bytes, sets its bit and ends its permit; a peer drain adds its tile's words into the tile with the key. -/
def PushesAndPeerDrains : Prop :=
  (∀ (o : OpPermit) (s : State) g id T s1 ks, OneGang s (.permit o) g → HandlesName s g [(o.h, id, T)] →
    let b := leadReg s s.active o.b
    let n := bits b 14 8
    leadReg s s.active o.a % 512 = 0 → permitBad T b = false → permitsOn s T.core + n ≤ 256 →
    permitKeys (startIssue (.permit o) s) (s.active.head?.getD 0) (leadReg s s.active o.a) (List.range n) = (s1, .ok ks) →
    ∃ t T', exec (.permit o) s = .next t ∧ GoesOn s (.permit o) t ∧ RegFrame s (.permit o) (fun _ => []) t ∧ SameThreads s t ∧
      t.tiles.get? id = some T' ∧ T'.chunks = T.chunks ∧ T'.key = T.key ∧ T'.charge = T.charge ∧ T'.permits.length = T.permits.length + n ∧
      (∀ k < 64, bit T'.bitmap k = (bit T.bitmap k && !decide (bits b 5 0 ≤ k ∧ k < bits b 5 0 + n))) ∧
      ∀ k < n, ∃ op x sh, (bits b 5 0 + k, op) ∈ T'.permits ∧ t.ops.get? op = some x ∧
        x.job = .push id (bits b 5 0 + k) (nth ks k 0) sh ∧ x.decs = []) ∧
  (∀ (s : State) op x id chunk src sh T, s.ops.get? op = some x → x.job = .push id chunk src sh → x.qid = none → pushIsNext s op sh = true →
    s.tiles.get? id = some T → isView src = false → poisonFlt s src 512 = none → poisonFlt s (src + 256) 256 = none → chunk < 64 →
    (∀ e ∈ s.tiles, e.2.freed = false) → (∀ g, tileGang s id T = some g → NoneBlocked s g) →
    ∃ t, exec (.chunkPushLanding op) s = .next t ∧ t.ops = s.ops.del op ∧ t.threads = s.threads ∧
      (∀ j < 512, readCell (T.key_ (512 * chunk + j)) t.mem.cells = readCell (src + j) s.mem.cells) ∧
      ∃ m, t.tiles.get? id = some { T with permits := T.permits.filter (fun p => p.2 != op), bitmap := m } ∧
        ∀ k < 64, bit m k = (bit T.bitmap k || k == chunk)) ∧
  (∀ (s : State) op x ia X core key id D, TileOpReady s op x → x.job = .drainPeer ia core key → s.tiles.get? ia = some X → Sound s X →
    key ≠ 0 → s.tiles.find? (fun e => e.2.core == core && e.2.ctx == x.ctx && e.2.key == key && tilePlaced s e.1 e.2) = some (id, D) → Sound s D →
    X.chunks.length ≤ D.chunks.length →
    ∃ t, exec (.peerDrainAdd op) s = .next t ∧ OpEnds s op x t ∧ ∀ j < 128 * X.chunks.length,
      tileWord32 t D j = (if D.int then (tileWord32 s D j + tileWord32 s X j) % 2 ^ 32
        else roundF fFP32 .rn (Fl.add .rn (decodeF fFP32 (tileWord32 s D j)) (decodeF fFP32 (tileWord32 s X j)))))

end Sys2Proof.Claims

/-- R349, R356, R357, R365, R366, R368: what a tile operation leaves in its tiles when it completes: bytes loaded, stored,
zeroed or drained, elements converted, and scaled sums. R331, R224, R367: `permit` clears the bits of the chunks that B names
and forks a push of each; a landing brings the chunk's 512 bytes, sets its bit and ends its permit; a peer drain adds its tile's
words into the tile with the key. It rests on choices of the model (logs 5 and 36). -/
def Obligations.TileOperationsComplete : Prop :=
  Claims.TileOperations ∧ Claims.PushesAndPeerDrains

namespace Sys2Proof.Claims

/-- R361: the matrix instructions with what their signatures share. -/
def matrixTable (o : OpMma) (e : OpMma8) : List (Instr × MmaForm) :=
  [ (.mmaFa o, ⟨0x6A, o.el.code + (if o.sparse then 16 else 0), o.ta, o.td, o.el, o.n, o.b, false⟩),
    (.mmaFb o, ⟨0x6B, o.el.code + (if o.sparse then 16 else 0), o.ta, o.td, o.el, o.n, o.b, true⟩),
    (.mmaSp8Fa e, ⟨0x6C, e.el.code + 16, e.ta, e.td, e.el, e.n, e.b, false⟩),
    (.mmaSp8Fb e, ⟨0x6D, e.el.code + 16, e.ta, e.td, e.el, e.n, e.b, true⟩) ]

/-- The participants of a matrix instruction may all sign the join, which is Open and expects them, and count it on flags below 63. -/
structure MaySign (s : State) (i : Instr) (g : Nat) (f : MmaForm) (j : Join) : Prop where
  one : OneGang s i g
  join : f.n < (s.gang g).joins.length ∧ joinOf s g f.n = j ∧ j.st = .opened ∧ j.expected < 2 ^ 64 ∧ j.arrived < 2 ^ 64
  pending : ∀ th ∈ s.active, (s.thread th).pos ∈ j.pending
  agree : ∀ x ∈ j.sigs, f.agrees x = true
  spare : ∀ th ∈ s.active, columnSpare s th f.el f.b = none

/-- R361, R363: each participant of an `mma` signs the join with its column of B and counts on its flag. The signature that
completes the join makes the operation of all of them, at the end of its core's queue of matrix operations. -/
def MatrixInstructionsSign : Prop :=
  ∀ (o : OpMma) (e : OpMma8) (s : State) i f g j, (i, f) ∈ matrixTable o e → MaySign s i g f j →
    let sigs := j.sigs ++ s.active.map (signature f s)
    ((∃ p ∈ j.pending, ∃ u, nth (s.gang g).at_ p none = some u ∧ u ∉ s.active ∧ (∀ th ∈ s.active, (s.thread th).pos ≠ p) ∧
        (s.thread u).run = .ready) →
      ∃ t, exec i s = .next t ∧ GoesOn s i t ∧ RegFrame s i (fun _ => []) t ∧ (∀ th, (t.thread th).p = (s.thread th).p) ∧ t.ops = s.ops ∧
        t.mem = s.mem ∧ (joinOf t g f.n).st = .opened ∧ (joinOf t g f.n).sigs = sigs ∧ (joinOf t g f.n).expected = j.expected ∧
        (∀ p < 64, bit (joinOf t g f.n).arrived p = (bit j.arrived p || s.active.any fun th => (s.thread th).pos == p)) ∧
        ∀ th ∈ s.active, ∀ n < 12, vget (t.thread th).f n 0 = vget (s.thread th).f n 0 +
          (if flagOf (s.thread th) f.fs = some n then 1 else 0)) ∧
    ((∀ p ∈ j.pending, ∃ th ∈ s.active, (s.thread th).pos = p) → NoWaiters s g → (s.core (s.gang g).core).matq.length < 8 →
      ∀ ta td A D, vget (s.gang g).h f.ta none = some ta → vget (s.gang g).h f.td none = some td → s.tiles.get? ta = some A →
        s.tiles.get? td = some D → j.sigs = [] → shapeDetail f.fmt f.major A.chunks.length D.chunks.length (s.gang g).width (ta == td) = none →
      ∃ t id op, exec i s = .next t ∧ GoesOn s i t ∧ RegFrame s i (fun _ => []) t ∧ t.mem = s.mem ∧
        (joinOf t g f.n).st = .complete ∧ (joinOf t g f.n).sigs = [] ∧ t.ops.get? id = some op ∧
        op.job = .mma f.fmt f.major ta td (s.gang g).width g sigs (s.core (s.gang g).core).bypass ∧ op.writes = [td] ∧
        op.decs = s.active.filterMap (fun th => (flagOf (s.thread th) f.fs).map fun n => (th, n)) ∧
        (t.core (s.gang g).core).matq = (s.core (s.gang g).core).matq ++ [id] ∧ (t.core (s.gang g).core).bypass = none)

/-- R362, R363, R129: the head of a core's queue starts when its engine is free and no earlier conflicting operation is in flight;
its completion adds to each word (i, p) of D the exact sum of row i of A times the column that position p signed, rounded once,
and takes its count off every flag. For signed columns of distinct positions, with no fault in a row. -/
def MatrixQueueAndResults : Prop :=
  (∀ (s : State), ∃ t, exec .matrixOperationStart s = .next t ∧ t.ops = s.ops ∧ t.mem = s.mem ∧ ∀ core c id rest op,
    s.cores.get? core = some c → c.matq = id :: rest → s.ops.get? id = some op →
    (c.running = none → scoreboardFree s id op = true → t.core core = { c with running := some id, matq := rest }) ∧
    (c.running ≠ none ∨ scoreboardFree s id op = false → t.core core = c)) ∧
  (∀ (s : State) core id op fmt major ta td w g sigs latch A D, (s.core core).running = some id → s.ops.get? id = some op → op.qid = none →
    op.core = core → op.job = .mma fmt major ta td w g sigs latch → s.tiles.get? ta = some A → s.tiles.get? td = some D → A.core = D.core →
    Sound s A → Sound s D → (∀ c ∈ A.chunks, c ∉ D.chunks) → (∀ e ∈ s.tiles, e.2.freed = false) → (∀ d ∈ op.decs, (s.thread d.1).run = .ready) →
    let rows := rowCount fmt (isSp8 major) A.chunks.length
    (∀ i < rows, rowFault s A fmt major latch.isSome i = none) → (sigs.map (·.pos)).Nodup → (∀ x ∈ sigs, x.pos < w) →
    4 * rows * w ≤ 512 * D.chunks.length →
    ∃ t, exec (.matrixOperationCompletion core) s = .next t ∧ OpEnds s id op t ∧ (t.core core).running = none ∧
      (∀ i < rows, ∀ x ∈ sigs, tileWord32 t D (i * w + x.pos) =
        mmaElem (fmtElem fmt) (rowCodes s A fmt major latch i) (columnOf (fmtElem fmt) x) (tileWord32 s D (i * w + x.pos))) ∧
      (∀ i < rows, ∀ p < w, (∀ x ∈ sigs, x.pos ≠ p) → tileWord32 t D (i * w + p) = tileWord32 s D (i * w + p)) ∧
      ∀ a, (∀ c ∈ D.chunks, a < tileKey D.core c 0 ∨ tileKey D.core c 0 + 512 ≤ a) → readCell a t.mem.cells = readCell a s.mem.cells)

end Sys2Proof.Claims

/-- R361, R363: each participant of an `mma` signs the join with its column of B and counts on its flag. The signature that
completes the join makes the operation of all of them, at the end of its core's queue of matrix operations. R362, R363, R129:
the head of a core's queue starts when its engine is free and no earlier conflicting operation is in flight; its completion adds
to each word (i, p) of D the exact sum of row i of A times the column that position p signed, rounded once, and takes its count
off every flag. For signed columns of distinct positions, with no fault in a row. It rests on choices of the model (logs 5 and
37). -/
def Obligations.MatrixOperations : Prop :=
  Claims.MatrixInstructionsSign ∧ Claims.MatrixQueueAndResults

/-! ### Graphics -/

namespace Sys2Proof.Claims

/-- A·x + B·y + C as a rational, from three consecutive FP32 codes of a record. -/
def planeValue (l : List Fl) (k : Nat) (x y : Fl) : Rat :=
  ratOf (nth l (3 * k) .nan) * ratOf x + ratOf (nth l (3 * k + 1) .nan) * ratOf y + ratOf (nth l (3 * k + 2) .nan)

/-- R372: the pixel centre is inside edge k: E is positive, or zero on an edge that owns its line. -/
def covers (l : List Fl) (k : Nat) (x y : Fl) : Prop :=
  0 < planeValue l k x y ∨ planeValue l k x y = 0 ∧ (0 < ratOf (nth l (3 * k) .nan) ∨
    ratOf (nth l (3 * k) .nan) = 0 ∧ 0 < ratOf (nth l (3 * k + 1) .nan))

/-- R373: the interpolations, by the words of A and of B and the two registers after it. -/
def interpTable (o : Op3X) : List (Instr × (Word → (Nat → Word) → Word)) :=
  let attrs (b : Nat → Word) := (List.range 3).map fun k => f32 (b k).toNat
  let ws (b : Nat → Word) := (List.range 3).map fun k => f32 ((b k).toNat / 2 ^ 32)
  [ (.interpFlat o, fun _ b => let x := f32 (b 0).toNat
      BitVec.ofNat 64 (roundF fFP32 .rn (if x.isFinite then x else .nan))),
    (.interpLin o, fun a b => interpLinWord a.toNat (attrs b)), (.interpPersp o, fun a b => interpPerspWord a.toNat (attrs b) (ws b)) ]

/-- Table 15-2: the positions whose difference a thread at position p gets. -/
def derivFrom (y fine : Bool) (p : Nat) : Nat × Nat :=
  let q := p / 4 * 4
  let row := p / 2 % 2
  let col := p % 2
  if y then (q + 2 + (if fine then col else 0), q + (if fine then col else 0))
  else (q + 1 + (if fine then 2 * row else 0), q + (if fine then 2 * row else 0))

/-- A read of the resource descriptor that B names, by a thread alone. -/
def DescriptorAt (s : State) (i : Instr) (th : Nat) (b : Reg) (s1 : State) (r : Nat) : Prop :=
  Alone s i th ∧ readRes (startIssue i s) th (s.gr th b).toNat = (s1, .ok r)

/-- R377: the two texture reads. -/
def texTable (o : Op3X) : List (Instr × (State → Nat → Nat → Nat → Fl → Fl → State × Except Flt Nat)) :=
  [(.texs o, sampleTexs), (.texg o, sampleTexg)]

/-- The bytes of a texel's components (R376). -/
def texelBytesOf (fmt v : Nat) : List Byte :=
  (List.range (texelParts fmt).1).flatMap fun i => bytesOfNat (encodeComp fmt (v / 2 ^ (32 * i) % 2 ^ 32)) (texelParts fmt).2

/-- R372, R373, R374: `edge` gives the coverage of a pixel centre in bit 127 of its pair, with the depth and the two weights below;
`interp` gives an attribute at the weights of A; `deriv` gives the difference of A between two positions of a quad, and zero where
one of them does not take part. -/
def CoverageInterpolationAndDerivatives : Prop :=
  (∀ (o : Op3X) (s : State), Carries s (.edge o) → ∃ t, exec (.edge o) s = .next t ∧ GoesOn s (.edge o) t ∧
    Keeps s (.edge o) (fun th => if th ∈ s.active then [o.d.val, o.d.val + 1] else []) t ∧ ∀ th ∈ s.active,
      let x := f32 (s.gr th o.a).toNat
      let y := f32 ((s.gr th o.a).toNat / 2 ^ 32)
      let l := f32s (groupNat s th o.b 6) 12
      (t.gr th (o.d.val + 1)).toNat % 2 ^ 32 = code32 (planeAt l 3 x y) ∧
      ((x.isFinite = true ∧ y.isFinite = true ∧ ∀ v ∈ l, v.isFinite = true) →
        ((t.gr th (o.d.val + 1)).getLsbD 63 = true ↔ covers l 0 x y ∧ covers l 1 x y ∧ covers l 2 x y)) ∧
      (¬(x.isFinite = true ∧ y.isFinite = true ∧ ∀ v ∈ l, v.isFinite = true) → (t.gr th (o.d.val + 1)).getLsbD 63 = false)) ∧
  (∀ (o : Op3X) (s : State) i f, (i, f) ∈ interpTable o → Carries s i → ∃ t, exec i s = .next t ∧
    WritesReg s i o.d (fun th => f (s.gr th o.a) fun k => s.gr th (o.b.val + k)) t) ∧
  (∀ (o : OpDeriv) (s : State), Carries s (.deriv o) → ∃ t v, exec (.deriv o) s = .next t ∧ WritesReg s (.deriv o) o.d v t ∧
    ∀ th ∈ s.active, let p := derivFrom o.y o.fine (s.thread th).pos
      match holder s (s.thread th).gang p.1, holder s (s.thread th).gang p.2 with
      | some d, some e => ∀ j < 64 / o.ft.fmt.width, element o.ft.fmt.width j (v th) = BitVec.ofNat _ (roundF o.ft.fmt .rn
          (Fl.add .rn (value o.ft.fmt j (s.gr d o.a)) (value o.ft.fmt j (s.gr e o.a)).neg))
      | _, _ => v th = 0)

end Sys2Proof.Claims

/-- R375, R376, R377: a texture read gives the sample at finite coordinates and zero at others; `imld` gives the texel at
integer coordinates, and zero outside its level; `imst` stores the texel's bytes, and nothing outside its level. It rests on
choices of the model (logs 4 and 40). -/
def Obligations.TexturesAndImages : Prop :=
  (∀ (o : Op3X) (s : State) th i f s1 r, (i, f) ∈ texTable o → DescriptorAt s i th o.b s1 r →
    let u := f32 (s.gr th o.a).toNat
    let v := f32 ((s.gr th o.a).toNat / 2 ^ 32)
    (u.isFinite = false ∨ v.isFinite = false → ∃ t, exec i s = .next t ∧ Settles s i th [o.d.val, o.d.val + 1] t ∧
      t.gr th o.d = 0 ∧ t.gr th (o.d.val + 1) = 0 ∧ t.mem = s1.mem) ∧
    (∀ s2 x, u.isFinite = true → v.isFinite = true → f s1 th r (sampleLevel r (s.gr th (o.a.val + 1)).toNat) u v = (s2, .ok x) →
      ∃ t, exec i s = .next t ∧ Settles s i th [o.d.val, o.d.val + 1] t ∧ t.gr th o.d = BitVec.ofNat 64 x ∧
        t.gr th (o.d.val + 1) = BitVec.ofNat 64 (x / 2 ^ 64) ∧ t.mem = s2.mem)) ∧
  (∀ (o : Op3X) (s : State) th s1 r, DescriptorAt s (.imld o) th o.b s1 r →
    let k := (s.gr th (o.a.val + 1)).toNat % 16
    let i := (s.gr th o.a).toNat % 2 ^ 32
    let j := (s.gr th o.a).toNat / 2 ^ 32
    k ≤ bits r 143 140 →
    (levelW r k ≤ i ∨ levelH r k ≤ j → ∃ t, exec (.imld o) s = .next t ∧ Settles s (.imld o) th [o.d.val, o.d.val + 1] t ∧
      t.gr th o.d = 0 ∧ t.gr th (o.d.val + 1) = 0 ∧ t.mem = s1.mem) ∧
    (∀ s2 x, i < levelW r k → j < levelH r k → rayLoad s1 th (texelAddr r k i j) (texelBytes (bits r 103 96)) = (s2, .ok x) →
      let c := texelComp (bits r 103 96) x
      ∃ t, exec (.imld o) s = .next t ∧ Settles s (.imld o) th [o.d.val, o.d.val + 1] t ∧ t.mem = s2.mem ∧
        t.gr th o.d = BitVec.ofNat 64 (c 0 + 2 ^ 32 * c 1) ∧ t.gr th (o.d.val + 1) = BitVec.ofNat 64 (c 2 + 2 ^ 32 * c 3))) ∧
  (∀ (o : Op3X) (s : State) th s1 r, DescriptorAt s (.imst o) th o.b s1 r →
    let k := (s.gr th (o.a.val + 1)).toNat % 16
    let i := (s.gr th o.a).toNat % 2 ^ 32
    let j := (s.gr th o.a).toNat / 2 ^ 32
    k ≤ bits r 143 140 →
    (levelW r k ≤ i ∨ levelH r k ≤ j → ∃ t, exec (.imst o) s = .next t ∧ Settles s (.imst o) th [] t ∧ t.mem = s1.mem) ∧
    (∀ s2 key, i < levelW r k → j < levelH r k → bit r 191 = false →
      resolveNow s1 th .gl (texelAddr r k i j) (texelBytes (bits r 103 96)) .store = (s2, .ok key) → metadataFlt s2 key = none →
      unreachable s2 key = false → isView key = false →
      ∃ t, exec (.imst o) s = .next t ∧ Settles s (.imst o) th [] t ∧
        Stored s2.mem.cells t.mem.cells key (texelBytesOf (bits r 103 96) (groupNat s th o.d 2))))

namespace Sys2Proof.Claims

/-- R379, R380: `export` queues its pixel for output merge, and a FINAL one retires its item; `discard` ends its threads as `exit` does.
For threads of a fragment stage with an item, and for threads that take part in no item and have no region, query or request, whose joins
stay Open and whose team still runs. -/
def ExportAndDiscard : Prop :=
  (∀ (o : OpExport) (s : State) th fr f w s1 l, Alone s (.exportOp o) th → currentItem s th = some (fr, f, w) →
    let a := (s.gr th o.a).toNat
    exportBad f w o.n a = false → devRead (startIssue (.exportOp o) s) f.ctx (f.rtDesc o.n) 32 = (s1, some l) →
    texelBytes (bits (natOfBytes l) 103 96) ≠ 0 → isDepth (itemState f w) o.n = false → s.frames.get? fr = some f → s1.frames = s.frames →
    ∃ t f' id, exec (.exportOp o) s = .next t ∧ Settles s (.exportOp o) th [] t ∧ t.frames.get? fr = some f' ∧
      f'.exports = f.exports ++ [⟨id, w.id, th, o.n, bits a 15 0, bits a 31 16, s.gr th (o.a.val + 1), s.gr th (o.a.val + 2)⟩] ∧
      (bit a 32 = true → ∀ x ∈ f'.items, x.id = w.id → x.retired = true)) ∧
  (∀ s, Carries s .discard → (∀ th ∈ s.active, inFragment s th = true ∧ (s.thread th).entered = [] ∧ (s.thread th).region = none ∧
      (s.thread th).query = none ∧ itemsOf s th = [] ∧ (s.cluster (s.clusterOf th)).infReqs = [] ∧
      StaysOpen s (s.thread th).gang s.active ∧ hasCards s (s.teamIdOf th) = false ∧
      ∃ u ∈ teamThreads s (s.teamIdOf th), u ∉ s.active ∧ (s.thread u).run = .ready) →
    ∃ t, exec .discard s = .next t ∧ t.grp = Group.empty ∧
      (∀ th ∈ s.active, (t.thread th).run = if (s.thread th).flagsClear then .exited else .blocked .exiting) ∧
      (∀ th ∈ s.grp.threads, th ∉ s.active → (t.thread th).run = .ready ∧ (t.thread th).pc = s.grp.cursor + Instr.len .discard) ∧
      (∀ th, th ∉ s.grp.threads → t.thread th = s.thread th) ∧ t.mem = s.mem)

end Sys2Proof.Claims

/-- R372, R373, R374: `edge` gives the coverage of a pixel centre in bit 127 of its pair, with the depth and the two weights
below; `interp` gives an attribute at the weights of A; `deriv` gives the difference of A between two positions of a quad, and
zero where one of them does not take part. R379, R380: `export` queues its pixel for output merge, and a FINAL one retires its
item; `discard` ends its threads as `exit` does. For threads of a fragment stage with an item, and for threads that take part in no
item and have no region, query or request, whose joins stay Open and whose team still runs. It rests on choices of the model (log 42). -/
def Obligations.PixelInstructions : Prop :=
  Claims.CoverageInterpolationAndDerivatives ∧ Claims.ExportAndDiscard

/-! ### Pure regions and the inference queue -/

namespace Sys2Proof.Claims

/-- An instruction on the regions of its threads has gone on: the region of each thread with a true guard is `r th`, and registers but
hints, predicates and other regions are as before. -/
structure SetsRegion (s : State) (i : Instr) (r : Nat → Option Region) (t : State) : Prop where
  goes : GoesOn s i t
  regs : RegFrame s i (fun _ => []) t
  preds : ∀ th, (t.thread th).p = (s.thread th).p
  region : ∀ th ∈ s.active, (t.thread th).region = r th
  others : ∀ th, th ∉ s.active → (t.thread th).region = (s.thread th).region
  mem : t.mem = s.mem

/-- The words that mkey folds for a value (R183, R184, R185): its descriptor, and the value's words; none of these where an element is
a NaN, which makes the region unusable. -/
def keyed (o : OpMkey) (r : Region) (a : Word) : Region :=
  let cls := if r.mode = 1 then 0 else o.cls.val
  let d := keyDesc cls (kindNum o.kind) o.a false
  match keyWords o.kind cls a.toNat with
  | some ws => { r with fold := r.fold ++ d :: ws }
  | none => { r with fold := r.fold ++ [d], unusable := true }

/-- A request of a thread for a network whose descriptor d it has read, with no key. -/
def request (o : OpInfq) (s : State) (th d id : Nat) : InfReq :=
  { id := id, thread := th, flag := (flagOf (s.thread th) o.fs).getD 12, ctx := s.ctxOf th, grid := (s.teamOf th).grid, net := (s.gr th o.a).toNat,
    desc := d, dst := o.d, key := none, audit := false, since := s.nowOf th,
    input := (List.range (bits d 83 80 + 1)).map fun k => s.gr th (o.b.val + k), dropped := false, batch := none }

/-- R391, R392, R183: `pure` opens a region of each thread; `mkey` and `mexcl` fold their words into its key; `pend` closes it. -/
def RegionsAndKeys : Prop :=
  (∀ (o : OpPure) (s : State), Carries s (.pureOp o) → (∀ th ∈ s.active, (s.thread th).region = none) →
    ∃ t, exec (.pureOp o) s = .next t ∧ SameDevice s t ∧ SetsRegion s (.pureOp o) (fun th => some
      ⟨s.grp.pc, o.t, target s o.off, [BitVec.ofNat 64 s.grp.pc, BitVec.ofNat 64 o.t], none, false, false, s.nowOf th, memoModeOf s (s.ctxOf th)⟩) t) ∧
  (∀ (o : OpMkey) (s : State) (r : Nat → Region), Carries s (.mkey o) →
    (∀ th ∈ s.active, (s.thread th).region = some (r th) ∧ (r th).finished = none) → (o.kind = .raw ∨ o.kind = .f64 → o.cls.val = 0) →
    ∃ t, exec (.mkey o) s = .next t ∧ SameDevice s t ∧ SetsRegion s (.mkey o) (fun th => some (keyed o (r th) (s.gr th o.a))) t) ∧
  (∀ (o : OpMexcl) (s : State) (r : Nat → Region), Carries s (.mexcl o) →
    (∀ th ∈ s.active, (s.thread th).region = some (r th) ∧ (r th).finished = none) →
    ∃ t, exec (.mexcl o) s = .next t ∧ SameDevice s t ∧
      SetsRegion s (.mexcl o) (fun th => some { r th with fold := (r th).fold ++ [keyDesc 0 (kindNum o.kind) o.a true] }) t) ∧
  (∀ (s : State) (r : Nat → Option Region), Carries s .pend →
    (∀ th ∈ s.active, (s.thread th).region = r th ∧ ∀ x, r th = some x → x.audit = false) →
    ∃ t, exec .pend s = .next t ∧ SameDevice s t ∧ SetsRegion s .pend (fun _ => none) t)

/-- R393, R394, R181, R192: a probe that finds the key's entry writes its payload, closes the region and goes on at the region's end,
and counts the work saved; one that finds none finishes the key. `mstore` enters the payload under the key. For a usable table of
sound entries and a region that is not audited. -/
def ProbesAndInsertions : Prop :=
  (∀ (o : OpMprobe) (s : State) th r, Carries s (.mprobe o) → s.active = [th] → (s.thread th).region = some r → r.table = o.t.val →
    r.unusable = false → r.mode ≠ 3 → r.mode ≠ 2 → r.audit = false → let cl := s.clusterOf th
    let key := r.finished.getD (signature64 (r.fold.map (·.toNat)))
    (∀ x ∈ (s.cluster cl).memo, x.broken = false) →
    (findEntry (s.cluster cl) o.t (s.ctxOf th) key = none → ∃ t, exec (.mprobe o) s = .next t ∧
      PassesFix s (.mprobe o) th [] ((List.range (2 * (o.p.val + 1))).map (2 * o.d.val + ·)) t ∧
      (t.thread th).region = some { r with finished := some key } ∧ (∀ u, u ≠ th → (t.thread u).region = (s.thread u).region) ∧ t.mem = s.mem) ∧
    (∀ e, tableUsable (s.cluster cl) o.t = true → findEntry (s.cluster cl) o.t (s.ctxOf th) key = some e → ∃ t, exec (.mprobe o) s = .next t ∧
      MovesTo s (.mprobe o) (fun u => if u = th then r.finAt else s.grp.cursor + 4) t ∧
      RegFrame s (.mprobe o) (fun u => if u = th then (List.range (2 * (o.p.val + 1))).map (2 * o.d.val + ·) else []) t ∧
      (∀ k < 2 * (o.p.val + 1), 2 * o.d.val + k < 64 → t.gr th (2 * o.d.val + k) = BitVec.ofNat 64 (byteField (e.payload.take (16 * (o.p.val + 1))) (8 * k) 8)) ∧
      (t.thread th).region = none ∧ (t.cluster cl).hitCnt = (s.cluster cl).hitCnt + 1 ∧
      (t.cluster cl).savedFc = (s.cluster cl).savedFc + BitVec.ofNat 64 e.cost ∧ t.mem = s.mem)) ∧
  (∀ (o : OpMstore) (s : State) th r, Carries s (.mstore o) → s.active = [th] → (s.thread th).region = some r → r.table = o.t.val →
    r.unusable = false → r.mode ≠ 3 → r.audit = false → let cl := s.clusterOf th
    let key := r.finished.getD (signature64 (r.fold.map (·.toNat)))
    let n := o.p.val + 1
    tableUsable (s.cluster cl) o.t = true → 16 * n ≤ tabPayload (nth (s.cluster cl).memoTable o.t 0) → ∃ t e, exec (.mstore o) s = .next t ∧
      SetsRegion s (.mstore o) (fun _ => some { r with finished := some key }) t ∧
      findEntry (t.cluster cl) o.t (s.ctxOf th) key = some e ∧ e.payload = groupBytes s th (2 * o.a.val) (2 * n) ∧ e.plen = n ∧ e.age = 0 ∧
      e.cost = min 65535 (s.nowOf th - r.since) ∧ e.broken = false)

end Sys2Proof.Claims

/-- R391, R392, R183: `pure` opens a region of each thread; `mkey` and `mexcl` fold their words into its key; `pend` closes it.
R393, R394, R181, R192: a probe that finds the key's entry writes its payload, closes the region and goes on at the region's
end, and counts the work saved; one that finds none finishes the key. `mstore` enters the payload under the key. For a usable
table of sound entries and a region that is not audited. It rests on choices of the model (log 38). -/
def Obligations.RegionsProbesAndInsertions : Prop :=
  Claims.RegionsAndKeys ∧ Claims.ProbesAndInsertions

/-- R381, R190: `infq` enters a request of its thread's cluster; as many requests as BATCH asks for launch one batch on a core
of the cluster, a grid of one team with a thread for each; its completion gives a request its output words and takes its count.
For a network without memo keys. It rests on choices of the model (log 41). -/
def Obligations.InferenceQueue : Prop :=
  (∀ (o : OpInfq) (s : State) th s1 d, Alone s (.infq o) th → (s.gr th o.a).toNat % 64 = 0 →
    rayLoad (startIssue (.infq o) s) th (s.gr th o.a).toNat 64 = (s1, .ok d) → netBad d = false → bit d 119 = false →
    o.b.val + (bits d 83 80 + 1) ≤ (s.gangOf th).d → o.d.val + (bits d 87 84 + 1) ≤ (s.gangOf th).d → infMustWait s1 (s.clusterOf th) th = false →
    ∃ t id, exec (.infq o) s = .next t ∧ PassesFix s (.infq o) th ((List.range (bits d 87 84 + 1)).map (o.d.val + ·)) [] t ∧ t.mem = s1.mem ∧
      (t.cluster (s.clusterOf th)).infReqs = (s1.cluster (s.clusterOf th)).infReqs ++ [request o s th d id] ∧
      t.sched.agenda = s1.sched.agenda ++ [.infqBatchLaunch] ∧
      ∀ n < 12, vget (t.thread th).f n 0 = vget (s.thread th).f n 0 + (if flagOf (s.thread th) o.fs = some n then 1 else 0)) ∧
  (∀ (s : State) cl c r rs, s.clusters = [(cl, c)] → c.infReqs = r :: rs → rs.length + 1 = bits r.desc 95 88 →
    (∀ x ∈ r :: rs, x.batch = none ∧ x.ctx = r.ctx ∧ x.net = r.net ∧ x.desc = r.desc) → (s.core (16 * cl)).records.length < 4 →
    nth s.mgmt.coreX cl 0 = 0 → (∀ e ∈ s.grids, e.2.batch = none ∨ e.2.returned = []) → ∃ t b g core, exec .infqBatchLaunch s = .next t ∧ core / 16 = cl ∧
      (t.cluster cl).infReqs = (r :: rs).map (fun x => { x with batch := some b }) ∧
      (t.cluster cl).infBatches = c.infBatches ++ [⟨b, r.ctx, r.desc, (r :: rs).map (·.id), g, s.nowAt (16 * cl), []⟩] ∧
      (t.grid g).ctx = r.ctx ∧ (t.grid g).n = 1 ∧ (t.grid g).launch.t = rs.length + 1 ∧ (t.grid g).launch.entry = 4 * bits r.desc 63 14 ∧
      (t.grid g).batch = some (cl, b) ∧
      (t.core core).records = (s.core core).records ++ [⟨g, 0, [core], s.nowAt (16 * cl), s.nowAt (16 * cl), none⟩]) ∧
  (∀ (s : State) team T cl b x r k, s.teams.get? team = some T → T.role = .batch cl b → T.gangs = [] → (s.cluster cl).infBatches = [x] →
    x.id = b → x.reqs = [r.id] → x.failed = [] → (s.cluster cl).infReqs = [r] → r.dropped = false → r.audit = false → r.key = none →
    r.flag < 12 → (s.thread r.thread).run = .ready → s.threads.get? r.thread ≠ none →
    scratchKey (s.cluster cl) cl (T.localBase + 8192) = some k →
    poisonAt s.mem k (8 * (bits x.desc 87 84 + 1)) = none → r.dst + (bits x.desc 87 84 + 1) ≤ 64 →
    ∃ t, exec (.infqBatchCompletion team) s = .next t ∧
      (∀ j ≤ bits x.desc 87 84, t.gr r.thread (r.dst + j) = BitVec.ofNat 64 (readNat s.mem.cells (k + 8 * j) 8)) ∧
      (∀ n, (n < r.dst ∨ r.dst + (bits x.desc 87 84 + 1) ≤ n) → t.gr r.thread n = s.gr r.thread n) ∧
      (∀ n < 12, vget (t.thread r.thread).f n 0 = vget (s.thread r.thread).f n 0 - (if n = r.flag then 1 else 0)) ∧
      (t.cluster cl).infReqs = [] ∧ (t.cluster cl).infBatches = [] ∧ t.teams.get? team = none ∧ t.mem.cells = s.mem.cells)

/-! ### Ray queries, repacks and the Loom -/

namespace Sys2Proof.Claims

/-- A thread's query is q after an instruction that wrote the registers ws; the rest of its state but hints is as before. -/
structure SetsQuery (s : State) (i : Instr) (th : Nat) (ws : List Nat) (q : Query) (t : State) : Prop where
  goes : GoesOn s i t
  regs : RegFrame s i (fun u => if u = th then ws else []) t
  preds : ∀ u, (t.thread u).p = (s.thread u).p
  query : (t.thread th).query = some q
  others : ∀ u, u ≠ th → (t.thread u).query = (s.thread u).query

/-- The query of a thread. -/
def HasQuery (s : State) (th : Nat) (q : Query) : Prop := (s.thread th).query = some q

/-- The words of a descriptor as a number (Table 15-7). -/
def descriptorOf (ws : List Word) : Nat := joinElems 64 (ws.map (·.toNat))

/-- R384: a query that found no generation is Done with no hit. -/
def doneQuery (ws : List Word) (now : Nat) : Query :=
  { Query.idle (some ws) with phase := 2, hdr := bits (descriptorOf ws) 63 0, tmax := bits (descriptorOf ws) 319 288, since := now }

/-- R203: what the commands but PUBLISH do to their structure. -/
def loomRun (n : Nat) : State → Nat → Nat → Nat → LoomOut := match n with | 0 => runBuild | 1 => runRefit | _ => runRebalance

/-- The Loom's steps, by the kind of their command. -/
def loomInstr (n op : Nat) : Instr := match n with | 0 => .build op | 1 => .refit op | 2 => .rebalance op | _ => .publish op

/-- REFITS of a version made by a command of a kind from one with that count (R203). -/
def refitsAfter (n old : Nat) : Nat := match n with | 0 => 0 | 1 => min 65535 (old + 1) | _ => old

/-- A command that has reached the Loom, which reads its block as the number w and may perform it (R206). -/
structure LoomReady (s : State) (op : Nat) (x : Op) (cmd : List Byte) (a : Nat) : Prop where
  listed : s.ops.get? op = some x
  job : x.job = .loom cmd a true
  block : cmd.length = 64 ∧ blockBad (natOfBytes cmd) = none
  turn : mayRun s op x cmd = true
  noQueue : x.qid = none
  running : ∀ d ∈ x.decs, (s.thread d.1).run = .ready

/-- R382 to R384: `rqset` gives an Idle query its descriptor; `rqbegin` starts the query on the current generation of its structure,
which it pins, and gives D that generation, or 2^33 where there is none, with the query Done. For descriptors without reuse. -/
def QueriesBegin : Prop :=
  (∀ (o : Op1) (s : State) th, Alone s (.rqset o) th →
    let ws := (List.range 8).map fun k => s.gr th (o.a.val + k)
    (queryOf s th).phase = 0 → descBad (descriptorOf ws) = false → bits (descriptorOf ws) 63 0 % 64 = 0 → bits (descriptorOf ws) 447 384 % 32 = 0 →
    ∃ t, exec (.rqset o) s = .next t ∧ SetsQuery s (.rqset o) th [] { queryOf s th with desc := some ws } t ∧ t.mem = s.mem) ∧
  (∀ (o : Op2) (s : State) th q ws s1 h, Alone s (.rqbegin o) th → HasQuery s th q → q.phase = 0 → q.desc = some ws → bit (descriptorOf ws) 375 = false →
    s.gr th o.a = 0 → headerRead (startIssue (.rqbegin o) s) th (bits (descriptorOf ws) 63 0) = (s1, .ok h) →
    (headerValid h = false → ∃ t, exec (.rqbegin o) s = .next t ∧ t.gr th o.d = 0x200000000 ∧ t.mem = s1.mem ∧ t.structs = s1.structs ∧
      SetsQuery s (.rqbegin o) th [o.d.val] (doneQuery ws (s.nowOf th)) t) ∧
    (∀ k g, headerValid h = true → liveGen s1 (s.ctxOf th) (bits (descriptorOf ws) 63 0) (headerGen h) = some (k, g) →
      ∃ t q', exec (.rqbegin o) s = .next t ∧ SetsQuery s (.rqbegin o) th [o.d.val] q' t ∧ t.gr th o.d = BitVec.ofNat 64 g.num ∧ t.mem = s1.mem ∧
        q'.phase = 1 ∧ q'.gen = g.num ∧ q'.pinned = true ∧ q'.cand = none ∧ q'.commit = none ∧ q'.tmax = bits (descriptorOf ws) 319 288 ∧
        t.structs = (addPin s1 k g.num).structs))

/-- R385, R386, R387: `rqstep` visits nodes until its query is Done or has a candidate, and gives D its kind, the committed flag and the
record index; `rqreport` and `rqcommit` accept and commit a candidate; `rqget` reads a field of a hit; `rqend` ends the query. -/
def QueriesStepAndEnd : Prop :=
  (∀ (d : Reg) (s : State) th q s1 q1, Alone s (.rqstep d) th → HasQuery s th q → q.phase = 1 →
    rayWalk (startIssue (.rqstep d) s) th { q with cand := none } stepFuel = .stop s1 q1 → commitRange q1 = none →
    (∀ h, q1.cand = some h → h.kind < 4) →
    ∃ t, exec (.rqstep d) s = .next t ∧ SetsQuery s (.rqstep d) th [d.val] q1 t ∧ t.mem = s1.mem ∧
      (q1.phase = 2 → (t.gr th d).toNat % 8 = 0) ∧ (q1.phase = 1 → ∀ h, q1.cand = some h →
        (t.gr th d).toNat % 8 = h.kind + (if h.isOpaque then 4 else 0)) ∧ ((t.gr th d).getLsbD 3 = q1.commit.isSome)) ∧
  (∀ (d : Reg) (s : State) th q, Alone s (.rqstep d) th → HasQuery s th q → q.phase = 1 → q.stack = [] → q.commit = none →
    ∃ t, exec (.rqstep d) s = .next t ∧ SetsQuery s (.rqstep d) th [d.val] { q with cand := none, phase := 2 } t ∧ t.gr th d = 0) ∧
  (∀ (o : Op3X) (s : State) th q h, Alone s (.rqreport o) th → HasQuery s th q → q.phase ≠ 0 → q.cand = some h → h.kind = 2 →
    let a := (s.gr th o.a).toNat % 2 ^ 32
    ∃ t, exec (.rqreport o) s = .next t ∧ t.gr th o.d = (if reportOk q h a then 1 else 0) ∧ t.mem = s.mem ∧
      SetsQuery s (.rqreport o) th [o.d.val]
        (if reportOk q h a then { q with cand := some { h with t := a, attrs := (s.gr th o.b).toNat, accepted := true } } else q) t) ∧
  (∀ (d : Reg) (s : State) th q, Alone s (.rqcommit d) th → HasQuery s th q →
    ∃ t, exec (.rqcommit d) s = .next t ∧ t.mem = s.mem ∧ SetsQuery s (.rqcommit d) th [d.val] (((commits q).map q.committed).getD q) t ∧
      t.gr th d = (if (commits q).isSome then 1 else 0)) ∧
  (∀ (o : Op2) (s : State) th q, Alone s (.rqget o) th → HasQuery s th q → q.phase ≠ 0 → (s.gr th o.a).toNat < 16 →
    (∀ h, q.commit = some h → h.reused = false) → ∃ t, exec (.rqget o) s = .next t ∧ SetsQuery s (.rqget o) th [o.d.val] q t ∧ t.mem = s.mem ∧
      let a := (s.gr th o.a).toNat
      t.gr th o.d = BitVec.ofNat 64 (if a = 15 then q.gen + 2 ^ 32 * q.tmax
        else if a = 10 then (q.commit.map (·.record)).getD 0 else if a < 5 then (q.commit.map (hitField · a)).getD 0
        else (q.cand.map (candField · a)).getD 0)) ∧
  (∀ (s : State) th q, Alone s .rqend th → HasQuery s th q → q.phase ≠ 0 → q.key = none → ∃ t, exec .rqend s = .next t ∧
    SetsQuery s .rqend th [] (Query.idle q.desc) t ∧ t.mem = s.mem ∧ (q.pinned = false → t.structs = s.structs) ∧
    ∀ k, q.pinned = true → structAt s (s.ctxOf th) q.hdr = some k → t.structs = (dropPin s k q.gen).structs)

end Sys2Proof.Claims

/-- R382 to R384: `rqset` gives an Idle query its descriptor; `rqbegin` starts the query on the current generation of its
structure, which it pins, and gives D that generation, or 2^33 where there is none, with the query Done. For descriptors without
reuse. R385, R386, R387: `rqstep` visits nodes until its query is Done or has a candidate, and gives D its kind, the committed
flag and the record index; `rqreport` and `rqcommit` accept and commit a candidate; `rqget` reads a field of a hit; `rqend` ends
the query. It rests on choices of the model (logs 5 and 39). -/
def Obligations.RayQueries : Prop :=
  Claims.QueriesBegin ∧ Claims.QueriesStepAndEnd

namespace Sys2Proof.Claims

/-- The gangs of a team on one core, with each thread Exited or Blocked at a card with its key, no thread in a handler, and no signatures
on joins (R43, R364, R445). -/
def AtCard (s : State) (key : Nat → Nat) (gs : List Nat) : Prop :=
  ∀ g ∈ gs, ∃ G, s.gangs.get? g = some G ∧ G.delivery = none ∧ G.nested = none ∧ (∀ j ∈ G.joins, j.sigs = []) ∧ G.at_.length = G.width ∧
    (threadsOf G).Nodup ∧ ∀ p th, nth G.at_ p none = some th → ∃ x, s.threads.get? th = some x ∧ x.gang = g ∧ x.pos = p ∧
      (x.run = .exited ∨ x.run = .blocked (.card (key th)))

/-- The threads of some gangs that are Blocked at a card. -/
def carders (s : State) (gs : List Nat) : List Nat :=
  (gs.flatMap fun g => threadsOf (s.gang g)).filter fun th => (s.thread th).run != .exited

/-- The slots of some gangs that hold a thread, in ascending gang and position. -/
def heldSlots (s : State) (gs : List Nat) : List (Nat × Nat) :=
  gs.flatMap fun g => ((List.range (s.gang g).width).filter fun p => (nth (s.gang g).at_ p none).isSome).map fun p => (g, p)

/-- How many threads of a list come before one in the order of R44: by key, then by thread index. -/
def cardsBefore (s : State) (key : Nat → Nat) (l : List Nat) (th : Nat) : Nat :=
  (l.filter fun u => decide (key u < key th ∨ key u = key th ∧ (s.thread u).tid < (s.thread th).tid)).length

end Sys2Proof.Claims

/-- R388, R43, R44, R45, R49: a thread that executes `card` outside a handler is Blocked with its key, and the carder looks at its team.
When every live thread of a team on its one core is Blocked there, a repack gives the participant with k others before it, by key
and then by thread index, the (k + 1)th of the slots that held a participant or an Exited thread, in ascending gang and position; each
keeps its registers, predicates and flags but for hints, and goes on; a gang left with no thread, no tile handle and no trap is gone. For
joins without signatures and no unperformed access. It rests on choices of the model (logs 35
and 59). -/
def Obligations.CardAndRepack : Prop :=
  (∀ (o : Op1) (s : State), Carries s (.card o) → (∀ th ∈ s.active, (s.thread th).entered = []) → ∃ t, exec (.card o) s = .next t ∧
    BlocksAt s (.card o) s.active (fun th => .card ((s.gr th o.a).toNat % 2 ^ 32)) t ∧ t.mem = s.mem ∧
    ∀ th ∈ s.active, th ∈ teamThreads s (s.teamIdOf th) → Instr.repack ∈ t.sched.agenda) ∧
  (∀ (s : State) tm T core (key : Nat → Nat), s.teams = [(tm, T)] → T.res = .resident → T.cores = [core] → s.accs = [] → T.gangs.Nodup →
    let gs := gangsThere s tm core
    Claims.AtCard s key gs → let parts := Claims.carders s gs
    parts ≠ [] → (∀ a ∈ parts, ∀ b ∈ parts, (s.thread a).tid = (s.thread b).tid → a = b) →
    ∃ t, exec .repack s = .next t ∧
      (∀ th ∈ parts, (Claims.heldSlots s gs)[Claims.cardsBefore s key parts th]? = some ((t.thread th).gang, (t.thread th).pos) ∧
        nth (t.gang (t.thread th).gang).at_ (t.thread th).pos none = some th ∧
        (t.thread th).run = .ready ∧ (t.thread th).pc = (s.thread th).after ∧ (t.thread th).p = (s.thread th).p ∧ (t.thread th).f = (s.thread th).f ∧
        ∀ r, r ∉ (s.thread th).hintNow → r ∉ (s.thread th).hintEnd → t.gr th r = s.gr th r) ∧
      ∀ g ∈ gs, (∀ th ∈ parts, (t.thread th).gang ≠ g) → (∀ n, vget (s.gang g).h n none = none) → (s.gang g).queue = [] → (s.gang g).raised = [] →
        t.gangs.get? g = none)

namespace Sys2Proof.Claims

/-- R389, R390: `bld` forks a command on the block that A names; `gpin` pins the current generation and gives D its number, or zero
where there is none; `gunpin` releases such a pin; `gqry` gives the header's fields. -/
def StructureInstructions : Prop :=
  (∀ (o : OpBld) (s : State) th, Alone s (.bld o) th → (s.gr th o.a).toNat % 64 = 0 → ∃ t, exec (.bld o) s = .next t ∧
    Forks s (.bld o) (some o.fs) (.loom [] (s.gr th o.a).toNat false) [] [] s t) ∧
  (∀ (o : Op2) (s : State) th s1 h, Alone s (.gpin o) th → (s.gr th o.a).toNat % 64 = 0 →
    headerRead (startIssue (.gpin o) s) th (s.gr th o.a).toNat = (s1, .ok h) →
    (headerValid h = false → ∃ t, exec (.gpin o) s = .next t ∧ Settles s (.gpin o) th [o.d.val] t ∧ t.gr th o.d = 0 ∧ t.structs = s1.structs) ∧
    (∀ k g, headerValid h = true → liveGen s1 (s.ctxOf th) (s.gr th o.a).toNat (headerGen h) = some (k, g) → s1.ctxs.get? (s.ctxOf th) ≠ none →
      ∃ t, exec (.gpin o) s = .next t ∧ Settles s (.gpin o) th [o.d.val] t ∧ t.gr th o.d = BitVec.ofNat 64 (g.num % 2 ^ 32 + 2 ^ 32) ∧
        t.structs = (addPin s1 k g.num).structs ∧ (t.ctx (s.ctxOf th)).pins = (s1.ctx (s.ctxOf th)).pins ++ [(k, g.num)])) ∧
  (∀ (o : OpAB) (s : State) th s1 h k, Alone s (.gunpin o) th → (s.gr th o.a).toNat % 64 = 0 → (s.gr th o.b).toNat < 2 ^ 32 →
    headerRead (startIssue (.gunpin o) s) th (s.gr th o.a).toNat = (s1, .ok h) → structAt s1 (s.ctxOf th) (s.gr th o.a).toNat = some k →
    (k, (s.gr th o.b).toNat) ∈ (s1.ctx (s.ctxOf th)).pins → s1.ctxs.get? (s.ctxOf th) ≠ none →
    ∃ t, exec (.gunpin o) s = .next t ∧ Settles s (.gunpin o) th [] t ∧ t.mem = s1.mem ∧
      ((k, (s.gr th o.b).toNat) :: (t.ctx (s.ctxOf th)).pins).Perm (s1.ctx (s.ctxOf th)).pins) ∧
  (∀ (o : Op2) (s : State) th s1 h, Alone s (.gqry o) th → (s.gr th o.a).toNat % 64 = 0 →
    headerRead (startIssue (.gqry o) s) th (s.gr th o.a).toNat = (s1, .ok h) →
    ∃ t, exec (.gqry o) s = .next t ∧ Settles s (.gqry o) th [o.d.val] t ∧ t.mem = s1.mem ∧
      (t.gr th o.d).toNat % 2 ^ 32 = headerGen h ∧ (t.gr th o.d).getLsbD 32 = headerValid h ∧
      (t.gr th o.d).getLsbD 33 = ((structAt s1 (s.ctxOf th) (s.gr th o.a).toNat).bind s1.structs.get?).any fun x => x.staged.isSome)

/-- R203 to R206, R208, R389: a command that reaches the Loom has its block read; BUILD, REFIT and REBALANCE that succeed stage a version of
their structure, and PUBLISH makes the staged version its current generation; then the command's flag falls. -/
def LoomCommands : Prop :=
  (∀ (s : State) op x a l s1 n, n < 4 → s.ops.get? op = some x → x.job = .loom [] a false → loomPieces s x.ctx [(a, 64)] = (s1, .ok l) →
    ∃ t, exec (loomInstr n op) s = .next t ∧ t.ops = s1.ops.set op { x with job := .loom l a true } ∧ t.mem = s1.mem ∧ t.threads = s1.threads) ∧
  (∀ (s : State) op x cmd a n s1 k T old o, n < 3 → LoomReady s op x cmd a → byteField cmd 0 1 % 16 = n →
    structFor s x.ctx (byteField cmd 8 8) = (s1, k) → loomRun n s1 k x.ctx (natOfBytes cmd) = o → o.fin.status = 0 → bit (natOfBytes cmd) 5 = false →
    s1.structs.get? k = some T → (n = 0 ∨ sourceOf T = some old) →
    ∃ t T' v, exec (loomInstr n op) s = .next t ∧ OpEnds s op x t ∧ t.structs.get? k = some T' ∧ T'.staged = some v ∧
      v.refits = refitsAfter n old.refits ∧ T'.cur = T.cur ∧ T'.header = T.header) ∧
  (∀ (s : State) op x cmd a s1 k T v s2, LoomReady s op x cmd a → byteField cmd 0 1 % 16 = 3 → structFor s x.ctx (byteField cmd 8 8) = (s1, k) →
    s1.structs.get? k = some T → T.staged = some v → pinFull T = false → (∀ g ∈ T.gens, g.pins = 0 → g.below = []) →
    loomWrite s1 T.ctx T.header (bytesOfNat (((T.cur.getD 0) + 1) % 2 ^ 32) 4 ++ v.header) = (s2, none) →
    ∃ t T', exec (.publish op) s = .next t ∧ OpEnds s op x t ∧ t.structs.get? k = some T' ∧ T'.staged = none ∧
      T'.cur = some ((T.cur.getD 0 + 1) % 2 ^ 32) ∧ T'.geoms = v.geoms ∧
      T'.gens = (T.gens.filter fun g => decide (0 < g.pins)) ++ [⟨(T.cur.getD 0 + 1) % 2 ^ 32, v.root, v.units, 0, v.below, v.header, v.insts⟩])

end Sys2Proof.Claims

/-- R389, R390: `bld` forks a command on the block that A names; `gpin` pins the current generation and gives D its number, or
zero where there is none; `gunpin` releases such a pin; `gqry` gives the header's fields. R203 to R206, R208, R389: a command
that reaches the Loom has its block read; BUILD, REFIT and REBALANCE that succeed stage a version of their structure, and
PUBLISH makes the staged version its current generation; then the command's flag falls. It rests on choices of the model (logs
10, 40 and 43). -/
def Obligations.StructuresAndLoomCommands : Prop :=
  Claims.StructureInstructions ∧ Claims.LoomCommands

/-! ### Accesses, translations and engine operations -/

namespace Sys2Proof.Claims

/-- An unperformed access that may be performed, the only one: no page-in that it waited for has failed, its thread is in a resident team
and its gang has no trap pending. -/
structure OnlyAccess (s : State) (acc : Nat) (a : Access) : Prop where
  one : s.accs = [(acc, a)]
  free : a.page = none ∧ a.rejected = false ∧ a.faulted = false ∧ a.failed = false ∧ a.kind ≠ .hold
  resident : (s.teamOf a.thread).res = .resident
  listed : s.threads.get? a.thread ≠ none ∧ s.gangs.get? (s.thread a.thread).gang ≠ none
  quiet : (s.gangOf a.thread).raised = [] ∧ (s.gangOf a.thread).queue = [] ∧ (s.gangOf a.thread).nestq = []

/-- The address of an access is translated for its core by a walk that ends at a leaf which permits it. -/
structure WalksTo (s : State) (a : Access) (lv pa e : Nat) : Prop where
  space : a.space = .gl ∧ a.addr < 2 ^ 52 ∧ s.coreOf a.thread < 288
  miss : tlbHit s (s.coreOf a.thread) (s.ctxOf a.thread) a.addr = none
  leaf : walk s.mem (s.ctx (s.ctxOf a.thread)) a.addr (s.ctx (s.ctxOf a.thread)).root [0, 1, 2, 3] = .leaf lv pa e
  plain : bits e 59 58 = 0
  allowed : leafDenies e (decide (s.levelOf a.thread = .sup)) (if a.kind.isStore then .store else .load) = false

/-- R76: a leaf with ACC set, and DIRTY too by a store. -/
def marked (e : Nat) (store : Bool) : Nat := Nat.lor (Nat.lor e (2 ^ 6)) (if store then 2 ^ 7 else 0)

/-- Two disjoint ranges of n bytes. -/
def Apart (a b n : Nat) : Prop := a + n ≤ b ∨ b + n ≤ a

end Sys2Proof.Claims

/-- R95, R74, R76, R452, R79, R85: a deferred load, or store of at most 8 bytes to a key that no codebook encodes, takes its effect at its
key; a completed walk leaves its translation in the core and marks the leaf; a page-in brings a backed page that no codebook encodes into
a free frame and lets the accesses that wait for it go on; a rejected access is admitted when a miss entry is free. It rests on choices
of the model (logs 4 and 56). -/
def Obligations.DeferredAccesses : Prop :=
  (∀ (s : State) acc a s1 k, OnlyAccess s acc a →
    resolve s a.thread a.space a.addr a.kind.size (if a.kind.isStore then .store else .load) = (s1, .ok k) →
    (∀ z sg d, a.kind = .load z sg d → poisonFlt s1 k z = none → ∃ t bs, exec (.memoryAccessPerformed acc) s = .next t ∧ t.accs = [] ∧
      (bs = seenBytes s1 (s.clusterOf a.thread) k z ∨ bs = readCells s1.mem.cells k z) ∧
      t.gr a.thread d = (if d < 64 then loadValue z sg bs else 0) ∧
      (∀ r, r ≠ d → t.gr a.thread r = s.gr a.thread r) ∧ (∀ u, u ≠ a.thread → t.thread u = s.thread u) ∧ t.mem.cells = s1.mem.cells ∧
      (t.gangOf a.thread).undo = []) ∧
    (∀ z v v2, a.kind = .store z v v2 → z ≤ 8 → unreachable s1 k = false → isView k = false → metadataFlt s1 k = none →
      ∃ t, exec (.memoryAccessPerformed acc) s = .next t ∧
      t.accs = [] ∧ t.threads = s.threads ∧ Stored s1.mem.cells t.mem.cells k (bytesOfNat (v.toNat + 2 ^ 64 * v2.toNat) z))) ∧
  (∀ (s : State) acc a lv pa e, OnlyAccess s acc a → WalksTo s a lv pa e → ∃ t, exec (.walkCompletion acc) s = .next t ∧ t.accs = s.accs ∧
    t.threads = s.threads ∧ readNat t.mem.cells pa 8 = marked e a.kind.isStore ∧
    (∀ x, x < pa ∨ pa + 8 ≤ x → readCell x t.mem.cells = readCell x s.mem.cells) ∧
    (t.core (s.coreOf a.thread)).tlb.head? =
      some ⟨s.ctxOf a.thread, a.addr / pageSize lv * pageSize lv, pageSize lv, pa, marked e a.kind.isStore⟩) ∧
  (∀ (s : State) c C va lv pa f, s.ctxs.get? c = some C → va ∈ C.transfer → walk s.mem C va C.root [0, 1, 2, 3] = .backed lv pa →
    va % pageSize lv = 0 → C.pagingCtl.getLsbD 1 = false → bits C.pagingCtl.toNat 31 16 ≤ C.freeFrames.length →
    findRun C.freeFrames (framesFor lv) = some f → lv = 2 ∨ lv = 3 → Memory.wf s.mem.cells = true →
    let dst := C.frameBase + f * 2 ^ 16
    let e := readNat s.mem.cells pa 8
    bits e 59 58 = 0 → dst + pageSize lv ≤ 2 ^ 48 → dst % pageSize lv = 0 → pa + 8 ≤ dst ∨ dst + pageSize lv ≤ pa → pa + 8 ≤ 2 ^ 48 →
    ∀ w, ∃ t, exec (.pageIn c va true w) s = .next t ∧
      bits (readNat t.mem.cells pa 8) 47 12 * 4096 = dst ∧ bit (readNat t.mem.cells pa 8) 0 = true ∧
      bits (readNat t.mem.cells pa 8) 11 1 = bits e 11 1 ∧ bits (readNat t.mem.cells pa 8) 63 48 = bits e 63 48 ∧
      (∀ j < pageSize lv, readCell (dst + j) t.mem.cells = readCell (backKey c (bits e 47 12) j) s.mem.cells) ∧
      va ∉ (t.ctx c).transfer ∧ (∀ acc a, s.accs.get? acc = some a → a.page = some va → s.ctxOf a.thread = c →
        t.accs.get? acc = some { a with page := none, failed := false })) ∧
  (∀ (s : State) cl C acc a, s.clusters = [(cl, C)] → C.rejected = [acc] → s.accs.get? acc = some a → missEntries s cl < 512 →
    ∃ t, exec .missEntryRetry s = .next t ∧ (t.cluster cl).rejected = [] ∧ t.accs.get? acc = some { a with rejected := false } ∧ t.mem = s.mem ∧
      t.threads = s.threads)

/-- R216, R217, R219, R222, R67, R105, R454: a copy or gather that meets no failure leaves its moved bytes, with the poison ended of what it
has written whole, full granules in a local destination, its byte count taken from its barrier object, and its flag fallen; a copy of one row inside scratchpad moves its
bytes. A transform leaves its results and completes its packet; a FILL of eight bytes writes its pattern. It rests on choices of
the model (logs 5, 24, 26 and 27). -/
def Obligations.EngineOperationsComplete : Prop :=
  (∀ (s : State) op x w src dst, s.ops.get? op = some x → x.job = .copy w src dst ∨ x.job = .gather w src dst → x.qid = none → x.cpl = 0 →
    (∀ d ∈ x.decs, (s.thread d.1).run = .ready) → (moveAll s x.ctx w src dst).fail = none →
    let r := moveAll s x.ctx w src dst
    let h := healRanges r.s r.lands
    (bit w 43 = false → ∃ t, exec (.copyCompletion op) s = .next t ∧ OpEnds s op x t ∧ t.mem.cells = h.mem.cells ∧
      (bits w 42 40 ≠ 1 → t.mem.full = h.mem.full) ∧
      ∀ g ∈ r.granules, bits w 42 40 = 1 → ∀ k, scratchKey (h.cluster (bits (16 * g) 27 23)) (bits (16 * g) 27 23) (bits (16 * g) 22 0) = some k →
        granuleFull t k = true) ∧
    (∀ k, copyBobj h x.core w dst = some k → windowsAt h k = [] → landed r.lands ≤ 2 ^ 20 → 0 < landed r.lands →
      -(2 ^ 31 : Int) ≤ (readBobj h k).bytes - landed r.lands → ∃ t, exec (.copyCompletion op) s = .next t ∧ OpEnds s op x t ∧
        t.mem.cells = writeCells h.mem.cells k
          (bytesOfNat { readBobj h k with bytes := (readBobj h k).bytes - landed r.lands }.advance.toNat 16))) ∧
  (∀ (s : State) c w src dst ks kd, bits w 7 0 = 0x10 → bits w 39 37 = 1 → bits w 42 40 = 1 → bits w 159 144 = 0 →
    let n := bits w 191 160
    src < 2 ^ 28 → dst < 2 ^ 28 → bits src 27 23 < 18 → bits dst 27 23 < 18 → src % 2 ^ 18 + n ≤ 2 ^ 18 → dst % 2 ^ 18 + n ≤ 2 ^ 18 →
    scratchKey (s.cluster (bits src 27 23)) (bits src 27 23) (bits src 22 0) = some ks →
    scratchKey (s.cluster (bits dst 27 23)) (bits dst 27 23) (bits dst 22 0) = some kd → Apart ks kd n → s.mem.poison = [] →
    let r := moveAll s c w src dst
    r.fail = none ∧ landed r.lands = n ∧ (∀ j < n, readCell (kd + j) r.s.mem.cells = readCell (ks + j) s.mem.cells) ∧
      ∀ a, a < kd ∨ kd + n ≤ a → readCell a r.s.mem.cells = readCell a s.mem.cells) ∧
  (∀ (s : State) op x w e q, s.ops.get? op = some x → x.job = .transform w e → x.qid = some q → x.cpl = 0 →
    let r := transformAll s x.ctx w
    r.fail = none → r.bad = false → ∃ t, exec (.transformCompletion op) s = .next t ∧ t.ops = s.ops.del op ∧ t.threads = s.threads ∧
      t.mem.cells = (healRanges r.s r.lands).mem.cells ∧ ∀ Q, t.queues.get? q = some Q → x.slot ∉ Q.opened) ∧
  (∀ (s : State) c w s1 k, bits w 95 92 = 0 → bits w 127 96 = 8 → bits w 255 192 % 16 ≤ 8 →
    engineKey s c false (bits w 255 192) .store = (s1, .ok k) → unreachable s1 k = false → isView k = false →
    let r := transformAll s c w
    r.fail = none ∧ r.bad = false ∧ Stored s1.mem.cells r.s.mem.cells k (bytesOfNat (bits w 191 128) 8))

/-! ### Packets -/

namespace Sys2Proof.Claims

/-- R138: the packet at the head of a queue has been consumed and is open; memory is as its consumption leaves it. -/
def TakesPacket (s : State) (x : Selected) (t : State) : Prop :=
  t.mem = (consume s x.qid x.r).mem ∧ ∀ q, s.queues.get? x.qid = some q → ∃ q', t.queues.get? x.qid = some q' ∧ q'.opened = q.opened ++ [x.r] ∧
    q'.seenAt = none

/-- The packets of engine queues, with the type and the selection of R215 and R221. -/
def enginePacket (s : State) (n qid : Nat) : Instr × Option (Selected × Queue) × (Nat → Job) × Bool :=
  let transform (op : Nat) := if (idleTransform s).isSome then
      ((selectAmong s fun q => q.kind == 1 && q.target == 0xFFF).filter fun x => bits x.w 95 92 == op).bind fun x =>
        (s.queues.get? x.qid).map fun q => (x, q) else none
  let work (w : Nat) := Job.transform w ((idleTransform s).getD 0)
  match n with
  | 0 => (.copyPacket qid, engineHead s qid 0x10, fun w => .copy w (bits w 319 256) (bits w 255 192), true)
  | 1 => (.gatherPacket qid, engineHead s qid 0x11, fun w => .gather w (bits w 319 256) (bits w 255 192), true)
  | 2 => (.fill, transform 0, work, false)
  | 3 => (.convert, transform 1, work, false)
  | _ => (.recode, transform 2, work, false)

/-- R138, R139, R142, R143, R461: the head of a queue becomes visible once the checks of its first examination pass, and a head with a
packet-format error there is consumed with a log entry. -/
def HeadsAreExamined : Prop :=
  ∀ (s : State) qid q s1 r w, s.queues = [(qid, q)] → readHead s q = (s1, .packet r w) → s1.queues = s.queues → s1.sched.agenda = s.sched.agenda →
    (∀ s2 s3 b, firstError s1 qid q w = (s2, none) → dependence s2 q.ctx w = (s3, some b) → s3.queues = s.queues →
      ∃ t Q, exec .dependenceReevaluation s = .next t ∧ t.queues.get? qid = some Q ∧ Q.seenAt = some (q.seenAt.getD s3.clk.fabric) ∧
        Q.lastEval = s3.clk.fabric ∧ Q.opened = q.opened ∧ t.mem = s3.mem) ∧
    (∀ s2 code, q.seenAt = none → packetError s1 qid q w = (s2, some code) → s2.queues = s.queues → bits w 511 448 = 0 →
      ∃ t, exec .dependenceReevaluation s = .next t ∧ t.mem = (consume s2 qid r).mem ∧
        t.mgmt.errPending = (consume s2 qid r).mgmt.errPending ++ [(code % 2 ^ 16 * 2 ^ 8 + 3 * 2 ^ 24 + qid % 2 ^ 16 * 2 ^ 32 + q.ctx % 2 ^ 16 * 2 ^ 48, r % 2 ^ 64)])

/-- R140, R141, R142, R150, R164, R215, R221: what takes each kind of packet: a launch becomes a grid with the packet's fields, a pipeline launch
a grid with an instance for each cluster of its mask, a draw joins the open frame of its queue, a dependency packet makes its add, and
a transfer becomes an operation of its engine, which no COPY waits for, and a transform one of the lowest-numbered idle engine. -/
def PacketsAreTaken : Prop :=
  (∀ (s : State) x q, selectedType s 1 = some x → s.queues.get? x.qid = some q → q.cls < 3 → (launchOf x.w).kind.isSome = true →
    0 < bits x.w 95 64 → ∃ t G, exec .launchPacket s = .next t ∧ TakesPacket s x t ∧ t.grids = s.grids.set s.sched.nextId G ∧
      G.ctx = q.ctx ∧ G.qid = x.qid ∧ G.slot = x.r ∧ G.n = bits x.w 95 64 ∧ G.nextIdx = 0 ∧ G.done = 0 ∧ G.failed = false ∧
      G.launch.entry = 4 * bits x.w 63 14 ∧ G.launch.t = bits x.w 116 96 ∧ G.launch.args = BitVec.ofNat 64 (bits x.w 319 256) ∧
      G.launch.cpl = bits x.w 511 448 ∧ G.launch.d = 8 * (bits x.w 127 125 + 1)) ∧
  (∀ (s : State) x q s0 st ff, selectedType s 4 = some x → s.queues.get? x.qid = some q → q.cls < 3 →
    pipelineParts s q.ctx x.w = (s0, some (st, ff, none)) → s0.insts = [] → ∃ t l, exec .pipelineLaunch s = .next t ∧
      t.insts.map (·.2) = (bitList (bits x.w 95 64) 18).map (fun cl => newInstance s0.sched.nextId cl st ff) ∧
      (∃ G, t.grids.get? s0.sched.nextId = some G ∧ G.pipeline = true ∧ G.qid = x.qid ∧ G.ctx = q.ctx) ∧
      t.sched.agenda = s0.sched.agenda ++ l ++ [.pipelineInstanceStart]) ∧
  (∀ (s : State) x fr f, selectedType s 2 = some x → openFrameOf s x.qid = some fr → s.frames.get? fr = some f →
    ∃ t f', exec .drawPacket s = .next t ∧ TakesPacket s x t ∧ t.frames.get? fr = some f' ∧
      f'.draws = f.draws ++ [⟨x.w, x.qid, x.r, none, 0, 0, false⟩] ∧ f'.ended = (f.ended || bit x.w 19)) ∧
  (∀ (s : State) x q, selectedType s 3 = some x → s.queues.get? x.qid = some q → ∃ t, exec .dependencyPacket s = .next t ∧
    t.mem = (cplAdd (consume s x.qid x.r) q.ctx (bits x.w 511 448) 1).mem ∧ t.grids = s.grids ∧ t.threads = s.threads) ∧
  (∀ (s : State) n qid i x q job limited, n < 5 → enginePacket s n qid = (i, some (x, q), job, limited) → (limited = true → engineLoad s q.target < 512 ∧ kicksWaiting s q.target = false) →
    ∃ t o, exec i s = .next t ∧ TakesPacket s x t ∧ t.ops = s.ops.set s.sched.nextId o ∧ o.job = job x.w ∧ o.ctx = q.ctx ∧ o.qid = some x.qid ∧
      o.slot = x.r ∧ o.cpl = bits x.w 511 448 ∧ o.decs = [])

/-- R242, R492: the slot allocator takes an edit packet in its turn; a due edit that takes no urgent position writes its value into the
entries of the ports and nodes that it selects, at a 64-cycle boundary, and completes. -/
def SlotTableEdits : Prop :=
  (∀ (s : State) qid x q, nextEditQueue s = some qid → engineHead s qid 0x13 = some (x, q) → ∃ t, exec .slotTableEdit s = .next t ∧
    TakesPacket s x t ∧ t.mgmt.edits = s.mgmt.edits ++ [⟨x.w, x.qid, x.r, bits x.w 319 256, q.ctx⟩] ∧ t.mgmt.editTurn = qid) ∧
  (∀ (s : State) e, s.clk.fabric % 64 = 0 → s.mgmt.edits = [e] → e.apply ≤ s.clk.fabric → bits e.packet 511 448 = 0 → editRefused s e.packet = false →
    ∃ t, exec .slotTableEditApply s = .next t ∧ t.mgmt.edits = [] ∧ t.mem = s.mem ∧ (∀ Q, t.queues.get? e.qid = some Q → e.slot ∉ Q.opened) ∧
      ∀ n < 64, ∀ p < 5, ∀ k < 64, nth (nth t.mgmt.slotTable (5 * n + p) []) k 0 =
        if n ∈ editNodes s.mgmt e.packet ∧ bit e.packet (184 + p) = true ∧ bits e.packet 183 178 ≤ k ∧ k < bits e.packet 183 178 + bits e.packet 177 171
        then bits e.packet 170 163 else nth (nth s.mgmt.slotTable (5 * n + p) []) k 0)

end Sys2Proof.Claims

/-- R138, R139, R142, R143, R461: the head of a queue becomes visible once the checks of its first examination pass, and a head
with a packet-format error there is consumed with a log entry. R140, R141, R142, R150, R164, R215, R221: what takes each
kind of packet: a launch becomes a grid with the packet's fields, a pipeline launch a grid with an instance for each cluster of
its mask, a draw joins the open frame of its queue, a dependency packet makes its add, a transfer becomes an operation of its engine,
which no COPY waits for, and a transform one of the lowest-numbered idle engine. R242, R492: the slot allocator takes an edit packet in its turn; a due edit that takes no urgent
position writes its value into the entries of the ports and nodes that it selects, at a 64-cycle boundary, and completes. It
rests on choices of the model (logs 28, 29 and 30). -/
def Obligations.PacketsAreExaminedAndTaken : Prop :=
  Claims.HeadsAreExamined ∧ Claims.PacketsAreTaken ∧ Claims.SlotTableEdits

/-! ### The step -/

namespace Sys2Proof.Claims

/-- The group as its first fetch finds it: counted for the divergence measure of its teams (R51). -/
def begun (s : State) : State := if s.grp.started then s else countGroup { s with grp := { s.grp with started := true } }

/-- Each thread of a list in turn fetches the halfword v at an address (R519), from the state that the one before left to the last. -/
def Reads (a v : Nat) : List Nat → State → State → Prop
  | [], s, t => t = s
  | th :: l, s, t => ∃ k s1, resolveNow s th .gl a 2 .fetch = (s1, .ok k) ∧ spoiledAt s1 k 2 = none ∧ readNat s1.mem.cells k 2 = v ∧ Reads a v l s1 t

/-- The first thread of the group is listed. -/
def Led (s : State) : Prop := ∃ th l x, s.grp.threads = th :: l ∧ s.threads.get? th = some x

end Sys2Proof.Claims

/-- R253, R254, R257, R258: a step of a state that carries a group fetches at the group's cursor and is `exec` of the decoded
instruction there; a group without a clause first reads its header; a prefix moves the cursor to the next halfword and changes
nothing else. With no group, the second group of the slot, the next due step, or a tick comes (logs 3, 5). It rests on choices
of the model (log 3). -/
def Obligations.AStepRunsTheDecodedInstruction : Prop :=
  (∀ (s s1 : State) c lo i, Led (begun s) → groupClause (begun s) = some c → (begun s).grp.cursor + 2 ≤ c.fin →
    Reads (begun s).grp.cursor lo (begun s).grp.threads (begun s) s1 → lengthOf lo = 2 → decode16 lo = some i → step s = exec i s1) ∧
  (∀ (s s1 s2 : State) c lo hi i, Led (begun s) → groupClause (begun s) = some c → (begun s).grp.cursor + 4 ≤ c.fin →
    Reads (begun s).grp.cursor lo (begun s).grp.threads (begun s) s1 → lengthOf lo = 4 →
    Reads ((begun s).grp.cursor + 2) hi s1.grp.threads s1 s2 → decode32 (lo + 65536 * hi) = some i → step s = exec i s2) ∧
  (∀ (s s1 s2 : State) lo hi, Led (begun s) → groupClause (begun s) = none → Reads (begun s).grp.pc lo (begun s).grp.threads (begun s) s1 →
    Reads ((begun s).grp.pc + 2) hi s1.grp.threads s1 s2 → headerBad (lo + 65536 * hi) = false →
    step s = step (openClause s2 (lo + 65536 * hi)) ∧ groupClause (openClause s2 (lo + 65536 * hi)) = some (clauseOf (begun s).grp.pc (lo + 65536 * hi)) ∧
      (openClause s2 (lo + 65536 * hi)).grp.cursor = (begun s).grp.pc + 4) ∧
  (∀ (s : State) neg p, s.grp.guard = none → prefixFits s = true → ∃ t, exec (.guardPrefix neg p) s = .next t ∧
    t = { s with grp := { s.grp with guard := some (neg, p), cursor := s.grp.cursor + 2 } } ∧ ∀ th, t.guardOf th = xor neg (s.pr th p.val)) ∧
  (∀ (s : State) z m, s.grp.mode = none → prefixFits s = true → ∃ t, exec (.modePrefix z m) s = .next t ∧
    t = { s with grp := { s.grp with mode := some (z, m), cursor := s.grp.cursor + 2 } } ∧ t.mode = m ∧ t.ftz = z) ∧
  (∀ s : State, s.grp.threads = [] → (∀ g, s.grp2 = some g → step s = .next { s with grp := stillReady s g, grp2 := none }) ∧
    (s.grp2 = none → ∀ i l, s.sched.agenda = i :: l → step s = exec i { s with sched := { s.sched with agenda := l } }) ∧
    (s.grp2 = none → s.sched.agenda = [] → step s = .next (tick s)))

/-! ### Issue selection -/

namespace Sys2Proof.Claims

/-- Threads of a core that may issue in a slot (Table 2-5, R153). -/
def readyOn (s : State) (core : Nat) : List Nat :=
  (runningOn s core).filter fun th => canIssue s th (peek s th) && decide ((s.thread th).since ≤ s.nowAt core)

/-- Two threads have one key: context and address (R34). -/
def sameKey (s : State) (a b : Nat) : Bool := s.ctxOf a == s.ctxOf b && (s.thread a).pc == (s.thread b).pc

/-- Two threads stand in one clause, or both at a header. -/
def sameClause (s : State) (a b : Nat) : Prop :=
  (s.thread a).clause.map (fun c => (c.hdr, c.fin)) = (s.thread b).clause.map fun c => (c.hdr, c.fin)

/-- The width of a thread's key: the lanes in which a ready thread has it. -/
def keyWidth (s : State) (core th : Nat) : Nat := (dedup (((readyOn s core).filter (sameKey s th)).map s.laneOf)).length

/-- A group of one key, one clause and one core, in ascending lane, that starts at its threads' address. -/
structure OneKey (s : State) (core : Nat) (g : Group) : Prop where
  some_ : g.threads ≠ []
  place : g.core = core ∧ g.started = false ∧ g.guard = none ∧ g.mode = none
  ready : ∀ th ∈ g.threads, th ∈ readyOn s core
  key : ∀ a ∈ g.threads, ∀ b ∈ g.threads, sameKey s a b = true ∧ sameClause s a b
  lanes : g.threads.Pairwise fun a b => s.laneOf a < s.laneOf b
  start : ∀ th ∈ g.threads, (s.thread th).pc = g.pc ∧ g.cursor = g.pc

end Sys2Proof.Claims

/-- R34, R35, R37, R153, R155: in an open slot with a ready thread a core issues a group of one key, one thread in each lane,
and at full lane rate at most one group more, of other threads; among keys of one class without a policy, none of which is old,
and whose threads stand each key in one clause, the widest is taken. It rests on choices of the model (logs 21, 25 and 59). -/
def Obligations.IssueSelectsAKey : Prop :=
  ∀ (s : State) core, s.grp = Group.empty → s.grp2 = none → (s.core core).slid = [] → (∀ th ∈ runningOn s core, s.laneOf th < 64) →
    ∃ t, exec (.issueSelection core) s = .next t ∧ t.mem = s.mem ∧ t.gangs = s.gangs ∧
      (∀ th, { t.thread th with since := 0 } = { s.thread th with since := 0 }) ∧
      (slotOpen (s.cluster (core / 16)) (s.nowAt core) = true → readyOn s core ≠ [] → OneKey s core t.grp) ∧
      (slotOpen (s.cluster (core / 16)) (s.nowAt core) = false → t.grp = Group.empty ∧ t.grp2 = none) ∧
      (∀ g, t.grp2 = some g → OneKey s core g ∧ (∀ th ∈ g.threads, th ∉ t.grp.threads) ∧ (s.cluster (core / 16)).cur = 2) ∧
      (slotOpen (s.cluster (core / 16)) (s.nowAt core) = true → (s.cluster (core / 16)).cur ≠ 2 →
        (∀ th ∈ readyOn s core, (peek s th).clause.policy = 0 ∧ (∀ i, (peek s th).instr = some i → i.uniform = false) ∧
          s.nowAt core < (s.thread th).since + 512 ∧ ∀ u ∈ readyOn s core, (teamClass s (s.teamOf u)).1 = (teamClass s (s.teamOf th)).1) →
        (∀ a ∈ readyOn s core, ∀ b ∈ readyOn s core, sameKey s a b = true → sameClause s a b) →
        ∀ th ∈ readyOn s core, keyWidth s core th ≤ t.grp.threads.length)

/-! ### The distributor, placement and forage -/

namespace Sys2Proof.Claims

/-- Word 0, and DETAIL1 with DETAIL2 above it, of a log entry (Table 21-1). -/
def entryLogged (cls code unit ctx d1 d2 : Nat) : Nat × Nat :=
  (code % 2 ^ 16 * 2 ^ 8 + cls % 2 ^ 8 * 2 ^ 24 + unit % 2 ^ 16 * 2 ^ 32 + ctx % 2 ^ 16 * 2 ^ 48, d1 % 2 ^ 64 + 2 ^ 64 * (d2 % 2 ^ 64))

/-- The log of a state has taken one entry, and no other (R484). -/
def Logs (s : State) (e : Nat × Nat) (t : State) : Prop := t.mgmt.errPending = s.mgmt.errPending ++ [e]

/-- The cores of a candidate that the next team of a grid takes: a cooperative team takes as many as it has gangs (R145, Table 2-3). -/
def coresFor (G : Grid) (kind : Kind) (l : List Nat) : List Nat := if kind = .coop then usedCores l (ceilDiv G.launch.t G.width) else l

/-- What the next team of a grid wants on a candidate (Table 6-5). -/
def nextWants (G : Grid) (kind : Kind) (l : List Nat) : Wants := wantsNew G.launch G.width (coresFor G kind l)

/-- What a saved team wants on a candidate (R55). -/
def savedWants (s : State) (team : Nat) (l : List Nat) : Wants := wantsSaved s team (l.take (s.team team).cores.length)

/-- A due team passes the check on no candidate, or its private ring holds it back (R57, R59, R145). -/
def Unplaced (s : State) : Due → Prop
  | .saved _ team => ∀ l ∈ candidates s.mgmt.pointer (s.team team).kind, passesView s (savedWants s team l) = false
  | .next gid => ∀ i kind, nextIndex (s.grid gid) = some i → (s.grid gid).launch.kind = some kind → ringHeld s gid i = false →
      ∀ l ∈ candidates s.mgmt.pointer kind, passesView s (nextWants (s.grid gid) kind l) = false

/-- The first of some candidates, in their order, on which a team passes the check. -/
def FirstPassing (s : State) (wants : List Nat → Wants) (l : List Nat) (cands : List (List Nat)) : Prop :=
  ∃ before after, cands = before ++ l :: after ∧ passesView s (wants l) = true ∧ ∀ m ∈ before, passesView s (wants m) = false

/-- A record has entered the buffer of the first of its cores, before which `n` records stand there, and the round-robin pointer has moved
past the last of its cores (R145, R146). -/
structure Assigned (s : State) (r : Record) (n : Nat) (t : State) : Prop where
  records : (t.core (r.cores.headD 0)).records =
    (s.core (r.cores.headD 0)).records.take n ++ r :: (s.core (r.cores.headD 0)).records.drop n
  others : ∀ k, k ≠ r.cores.headD 0 → t.core k = s.core k
  mgmt : t.mgmt = { s.mgmt with pointer := (r.cores.foldl max 0 + 1) % 288 }
  rest : t.threads = s.threads ∧ t.gangs = s.gangs ∧ t.teams = s.teams ∧ t.mem = s.mem ∧ ∀ g, g ≠ r.grid → t.grids.get? g = s.grids.get? g

/-- A cluster after an empty answer to its forage request (R148). -/
def emptyAnswer (C : Cluster) (now : Nat) : Cluster :=
  { C with forage := none, empties := C.empties + 1, forageWait := if C.empties + 1 = 17 then some (now + 4096) else none }

/-- Nothing that is listed has the next number, or a higher one. -/
def Fresh (s : State) : Prop :=
  (∀ e ∈ s.threads, e.1 < s.sched.nextId) ∧ (∀ e ∈ s.gangs, e.1 < s.sched.nextId) ∧ ∀ e ∈ s.teams, e.1 < s.sched.nextId

/-- A team at its start (R22, R24, R25, R27): its threads are Ready at the entry clause with registers, predicates and flags zero,
thread i at position i mod W of gang i / W, whose core is the next of the team's in turn. -/
structure NewTeam (t : State) (id : Nat) (cores : List Nat) (n w entry : Nat) (args : Word) : Prop where
  team : ∃ T, t.teams.get? id = some T ∧ T.cores = cores ∧ T.t = n ∧ T.width = w ∧ T.res = .resident ∧ T.gangs.length = ceilDiv n w
  thread : ∀ i < n, ∃ g G th, (t.team id).gangs[i / w]? = some g ∧ t.gangs.get? g = some G ∧ G.num = i / w ∧ G.width = w ∧
    G.core = nth cores (i / w % cores.length) 0 ∧ nth G.at_ (i % w) none = some th ∧ (t.thread th).gang = g ∧ (t.thread th).pos = i % w ∧
    (t.thread th).tid = i ∧ (t.thread th).g = Vector.replicate 64 0 ∧ (t.thread th).p = 0 ∧ (t.thread th).f = Vector.replicate 12 0 ∧
    (t.thread th).pc = entry ∧ (t.thread th).clause = none ∧ (t.thread th).run = .ready ∧ G.w = vset (Vector.replicate 32 0) 0 args

/-- R54, R57, R145, R149: the first due team, in the order of the grids, that passes the check on a candidate is assigned to the first such
one from the round-robin pointer on: a grid's next team goes to the end of its core's buffer, a saved team before those of its
queue; the pointer moves past its cores; where none passes nothing is assigned. -/
def TeamsAreAssigned : Prop :=
  (∀ (s : State) gid G i kind pre post l, dueList s = pre ++ .next gid :: post → (∀ d ∈ pre, Unplaced s d) → s.grids.get? gid = some G →
    nextIndex G = some i → G.launch.kind = some kind → ringHeld s gid i = false →
    FirstPassing s (nextWants G kind) l (candidates s.mgmt.pointer kind) → let cores := coresFor G kind l
    ∃ t, exec .teamAssignment s = .next t ∧
      Assigned s ⟨gid, i, cores, s.nowAt (cores.headD 0), s.dist, none⟩ (s.core (cores.headD 0)).records.length t ∧
      t.grids.get? gid = some { G with returned := G.returned.filter (fun x => x != i), nextIdx := if i = G.nextIdx then i + 1 else G.nextIdx,
                                       assignedAt := s.dist }) ∧
  (∀ (s : State) gid G team pre post l, dueList s = pre ++ .saved gid team :: post → (∀ d ∈ pre, Unplaced s d) → s.grids.get? gid = some G →
    FirstPassing s (savedWants s team) l (candidates s.mgmt.pointer (s.team team).kind) → let cores := l.take (s.team team).cores.length
    ∃ t, exec .teamAssignment s = .next t ∧
      Assigned s ⟨gid, (s.team team).idx, cores, s.nowAt (cores.headD 0), s.dist, some team⟩
        ((s.core (cores.headD 0)).records.takeWhile fun x => (s.grid x.grid).qid != G.qid).length t ∧
      t.grids.get? gid = some { G with resumed := G.resumed.filter (fun x => x != team), assignedAt := s.dist }) ∧
  (∀ s : State, (∀ d ∈ dueList s, Unplaced s d) → exec .teamAssignment s = .next s)

/-- R57: the wait of every team whose local size exceeds every scratchpad space that it could be given is kept from its first cycle on, and
is logged once when it has lasted 2^24 cycles; a grid's next team is among those teams. -/
def LocalWaitsExpire : Prop :=
  ∀ s : State, ∃ t, exec .localSizeWaitExpiry s = .next t ∧ t.threads = s.threads ∧ t.mem = s.mem ∧ t.cores = s.cores ∧ t.grids = s.grids ∧
    t.mgmt.errPending = s.mgmt.errPending ++ ((waitsNow s).filter fun w => !w.logged && decide (w.since + 2 ^ 24 ≤ s.dist)).map (fun w =>
      entryLogged 1 0x11 w.idx (s.grid w.grid).ctx (s.grid w.grid).qid 0) ∧
    t.mgmt.localWaits = (waitsNow s).map (fun w => if w.since + 2 ^ 24 ≤ s.dist then { w with logged := true } else w) ∧
    ∀ e ∈ s.grids, ∀ i, holdsEntry e = true → e.2.pipeline = false → nextIndex e.2 = some i → largestScratch s e.1 < 4096 * e.2.launch.loc →
      ∃ w ∈ t.mgmt.localWaits, w.grid = e.1 ∧ w.idx = i ∧
        (w.since = s.dist ∨ ∃ w0 ∈ s.mgmt.localWaits, w0.grid = e.1 ∧ w0.idx = i ∧ w0.since = w.since)

/-- The check of Table 6-5 on the cores of a new team that is not urgent: seats for its gangs, and the start of its local range. -/
structure Fits (s : State) (x : Wants) (seats : List (Nat × Nat × Nat)) (base : Nat) : Prop where
  cores : x.cores ≠ [] ∧ ∀ c ∈ x.cores, coreReady s c = true
  seats : seatsFor x (occOf s) (allWindows x.w) = some seats
  local_ : localStart s (x.cores.headD 0 / 16) x.loc (localUsed s (x.cores.headD 0 / 16)) = some base

/-- A new team of a grid stands on some cores, and nothing has changed for the threads that there were (R22 to R27, R60). -/
structure Placed (s : State) (gid : Nat) (G : Grid) (i base : Nat) (cores : List Nat) (t : State) : Prop where
  team : NewTeam t s.sched.nextId cores G.launch.t G.width G.launch.entry G.launch.args
  named : (t.team s.sched.nextId).grid = gid ∧ (t.team s.sched.nextId).idx = i
  range : (t.team s.sched.nextId).localBase = base ∧ (t.team s.sched.nextId).localSize = 4096 * G.launch.loc
  threads : ∀ th < s.sched.nextId, t.thread th = s.thread th
  empty : ∀ k, inRuns (scratchRuns (s.cluster (cores.headD 0 / 16)) (cores.headD 0 / 16) base (4096 * G.launch.loc)) k = true → k ∉ t.mem.full

/-- R146, R22 to R27, R60: the record at the head of a core's buffer, of a new team that is neither urgent nor an inference batch's, is placed
when the actual check of its cores passes, and its team starts; it leaves the buffer, and no other thread is changed. A record
whose team does not pass stays. -/
def RecordsArePlaced : Prop :=
  (∀ (s : State) core r rest seats base, (s.core core).records = r :: rest → isUrgentRecord s r = false → r.resume = none →
    let G := s.grid r.grid
    let x := wantsNew G.launch G.width r.cores
    G.batch = none → Fresh s → 0 < G.width → ringHeld (dropRecord s core r) r.grid r.idx = false → Fits s x seats base →
    ∃ t, exec (.placement core) s = .next t ∧ Placed s r.grid G r.idx base r.cores t ∧ (t.core core).records.length = rest.length) ∧
  (∀ (s : State) core r rest, (s.core core).records = r :: rest → isUrgentRecord s r = false → r.resume = none →
    let x := wantsNew (s.grid r.grid).launch (s.grid r.grid).width r.cores
    ((∃ c ∈ r.cores, coreReady s c = false) ∨ seatsFor x (occOf s) (allWindows x.w) = none ∨
      localStart s (r.cores.headD 0 / 16) x.loc (localUsed s (r.cores.headD 0 / 16)) = none ∨ ringHeld (dropRecord s core r) r.grid r.idx = true) →
    exec (.placement core) s = .next s)

/-- R148, R149: a cluster that may forage asks the next cluster in its order; a cluster with no stalled record answers empty, and 17 empty
answers bring a wait of 4,096 cycles, at whose end the order begins again; a stalled record of a new team that is shipped is placed on
the first core of the requester on which it passes, and returns to the distributor where there is none. -/
def Foraging : Prop :=
  (∀ s : State, ∃ t, exec .forageRequest s = .next t ∧ t.threads = s.threads ∧ t.mem = s.mem ∧ t.cores = s.cores ∧
    ∀ cl < 18, t.cluster cl = if mayForage s cl then { s.cluster cl with forage := some (nth (forageOrder cl) (s.cluster cl).empties 0) }
      else s.cluster cl) ∧
  (∀ s : State, (∀ cl < 18, ∀ v, (s.cluster cl).forage = some v → ∀ c ∈ coresOf v, stalledOf s c = none) →
    ∃ t, exec .forageReply s = .next t ∧ t.cores = s.cores ∧ t.threads = s.threads ∧
      ∀ cl < 18, t.cluster cl = if (s.cluster cl).forage.isSome then emptyAnswer (s.cluster cl) (s.nowAt (16 * cl)) else s.cluster cl) ∧
  (∀ (s : State) cl v c r, cl < 18 → (s.cluster cl).forage = some v → (∀ c < 18, c ≠ cl → (s.cluster c).forage = none) → c ∈ coresOf v →
    stalledOf s c = some r → (∀ k ∈ coresOf v, k ≠ c → stalledOf s k = none) → r.resume = none →
    let G := s.grid r.grid
    ((∀ k ∈ coresOf cl, coreReady s k = false) → (s.grids.get? r.grid).isSome = true → ∃ t, exec .forageReply s = .next t ∧
      (t.cluster cl).forage = none ∧ (t.cluster cl).empties = 0 ∧ (t.core c).records.length + 1 = (s.core c).records.length ∧
      (t.grid r.grid).returned = G.returned ++ [r.idx] ∧ t.threads = s.threads) ∧
    (∀ pre k post seats base, coresOf cl = pre ++ k :: post → (∀ j ∈ pre, coreReady s j = false) →
      Fits s (wantsNew G.launch G.width [k]) seats base → Fresh s → 0 < G.width → ringHeld (popRecord s c) r.grid r.idx = false →
      ∃ t, exec .forageReply s = .next t ∧ (t.cluster cl).forage = none ∧ (t.cluster cl).empties = 0 ∧
        (t.core c).records.length + 1 = (s.core c).records.length ∧ Placed s r.grid G r.idx base [k] t)) ∧
  (∀ s : State, ∃ t, exec .forageRetry s = .next t ∧ t.threads = s.threads ∧ t.cores = s.cores ∧ ∀ cl < 18, t.cluster cl =
    match (s.cluster cl).forageWait with
    | some t0 => if t0 ≤ s.nowAt (16 * cl) then { s.cluster cl with forageWait := none, empties := 0 } else s.cluster cl
    | none => s.cluster cl)

end Sys2Proof.Claims

/-- R54, R57, R145, R149: the first due team, in the order of the grids, that passes the check on a candidate is assigned to the
first such one from the round-robin pointer on: a grid's next team goes to the end of its core's buffer, a saved team before
those of its queue; the pointer moves past its cores; where none passes nothing is assigned. R57: the wait of every team whose
local size exceeds every scratchpad space that it could be given is kept from its first cycle on, and is logged once when it has
lasted 2^24 cycles; a grid's next team is among those teams. R146, R22 to R27, R60: the record at the head of a core's buffer,
of a new team that is neither urgent nor an inference batch's, is placed when the actual check of its cores passes, and its team
starts; it leaves the buffer, and no other thread is changed. A record whose team does not pass stays. R148, R149: a cluster
that may forage asks the next cluster in its order; a cluster with no stalled record answers empty, and 17 empty answers bring a
wait of 4,096 cycles, at whose end the order begins again; a stalled record of a new team that is shipped is placed on the first
core of the requester on which it passes, and returns to the distributor where there is none. It rests on choices of the model
(logs 3, 9, 31 and 59). -/
def Obligations.TeamsAreAssignedPlacedAndForaged : Prop :=
  Claims.TeamsAreAssigned ∧ Claims.LocalWaitsExpire ∧ Claims.RecordsArePlaced ∧ Claims.Foraging

/-! ### Drains, urgent pre-emption, saves and pipelines -/

namespace Sys2Proof.Claims

/-- R159: team i of an urgent grid has been assigned to a core, its record at the head of the buffer; the resident teams that hold what it
takes are Suspended in place and are the core's victims. -/
structure AssignsUrgent (s : State) (gid : Nat) (G : Grid) (i c : Nat) (t : State) : Prop where
  record : (t.core c).records = ⟨gid, i, [c], s.nowAt c, s.dist, none⟩ :: (s.core c).records
  others : ∀ k, k ≠ c → t.core k = s.core k
  next : (t.grid gid).nextIdx = (if i = G.nextIdx then i + 1 else G.nextIdx) ∧ (t.grid gid).returned = G.returned.filter (fun x => x != i) ∧
    (t.grid gid).assignedAt = s.dist
  victims : ∀ k, claimOf s gid c = some k → ∀ v ∈ victimsOf s c k, ∀ V, s.teams.get? v = some V → V.res = .resident →
    (t.team v).res = .inPlace ∧ v ∈ (t.core c).victims
  quiet : (∀ k, claimOf s gid c = some k → victimsOf s c k = []) → t.threads = s.threads ∧ t.mem = s.mem

/-- A team whose threads are all Ready, with no trap to deliver and no join that would settle. -/
structure AtPeace (s : State) (v : Nat) : Prop where
  some_ : ∃ g ∈ (s.team v).gangs, threadsOf (s.gang g) ≠ []
  gangs : ∀ g ∈ (s.team v).gangs, ∃ G, s.gangs.get? g = some G ∧ G.team = v ∧ G.raised = [] ∧ G.queue = [] ∧ G.nestq = []
  ready : ∀ g ∈ (s.team v).gangs, ∀ th ∈ threadsOf (s.gang g), (s.thread th).run = .ready ∧ (s.thread th).gang = g
  joins : ∀ g ∈ (s.team v).gangs, StaysOpen s g []

/-- A context whose drain begins for a waiting head (R157). -/
def drained (C : Context) (now head : Nat) : Context := { C with drain := some ⟨now + C.drainLimit, [head], false⟩ }

/-- A context's drain once it has no resident team: it has ended, but no team is assigned while one of its heads still waits (R157). -/
def drainOver (s : State) (d : Drain) : Option Drain :=
  let heads := d.heads.filter (headWaits s)
  if heads = [] then none else some { d with heads := heads, byCommand := false }

/-- An instance at the end of a balancer interval; the group h drains for a stage, if one is named (R152). -/
def balanced (i : Instance) (h : Option (Held × Nat)) : Instance :=
  { i with lastBalance := i.lastBalance + 1024, blk := i.stages.map fun _ => 0,
           groups := i.groups.map fun y => match h with
             | some (x, r) => if y = x then { y with draining := some r } else y
             | none => y }

/-- The one instance of the device, with no frame, of the one pipeline grid. -/
structure OneInstance (s : State) (id : Nat) (i : Instance) : Prop where
  insts : s.insts = [(id, i)]
  frames : s.frames = []
  grid : (s.grids.get? i.grid).isSome = true ∧ ∀ e ∈ s.grids, e.2.pipeline = true → e.1 = i.grid
  goes : ctxHeld s (s.grid i.grid).ctx = false ∧ i.done = false

/-- R157, R443: the head of an interactive queue whose first team lacks what lower classes hold begins to wait, and after 65,536 cycles the
context of the victim drains: no record of it stays in a buffer, and their teams return to the distributor. A drain ends when its
context has no resident team, though no team of it is assigned while the head waits; past its deadline the context is reset with
code 1. -/
def DrainsAtTeamBoundaries : Prop :=
  (∀ (s : State) qid q g, s.queues = [(qid, q)] → 2 ≤ q.cls → waitingGrid s qid = some g → starved s g q.cls = true →
    (q.waitFrom = none → exec .preemptionWaitExpiry s = .next { s with queues := [(qid, { q with waitFrom := some s.dist })] }) ∧
    (∀ w c C, q.waitFrom = some w → w + 65536 ≤ s.dist → drainVictim s q.cls = some c → s.ctxs.get? c = some C → C.drain = none →
      ∃ t, exec .preemptionWaitExpiry s = .next t ∧ t.ctx c = drained C s.dist g ∧ t.queues = [(qid, { q with waitFrom := none })] ∧
        t.threads = s.threads ∧ t.mem = s.mem ∧
        (∀ k, ∀ r ∈ (t.core k).records, (s.grid r.grid).ctx ≠ c ∧ ∃ x ∈ (s.core k).records, { x with since := r.since } = r) ∧
        ∀ k, ∀ x ∈ (s.core k).records, (s.grid x.grid).ctx = c → x.resume = none → (s.grids.get? x.grid).isSome = true →
          x.idx ∈ (t.grid x.grid).returned)) ∧
  (∀ (s : State) c C d, s.ctxs = [(c, C)] → C.drain = some d →
    (residentTeams s c = [] → exec .drainLimitExpiry s = .next { s with ctxs := [(c, { C with drain := drainOver s d })] }) ∧
    (residentTeams s c ≠ [] → s.dist < d.deadline → exec .drainLimitExpiry s = .next s) ∧
    (∀ v l, c ≠ 0 → residentTeams s c = v :: l → d.deadline ≤ s.dist → ∃ t, exec .drainLimitExpiry s = .next t ∧ (t.ctx c).drain = none ∧
      residentTeams t c = [] ∧ ∃ e, t.mgmt.errPending = s.mgmt.errPending ++ e ++ [entryLogged 1 1 ((s.team v).idx % 2 ^ 16) c 0 0]))

/-- R158 to R160, R440: an accepted urgent grid with one team has it assigned to the first free core of its mask; a later one goes to a core
that is free; a core whose urgent teams have ended gives its victim back its chunks, and the victim is resident again. -/
def UrgentPreemption : Prop :=
  (∀ (s : State) gid G i c l, s.grids = [(gid, G)] → G.urgent = true → G.nextIdx = 0 → nextIndex G = some i → leftOf G = 1 →
    freeMaskCores s G.qid = c :: l → ∃ t, exec .urgentAcceptance s = .next t ∧ AssignsUrgent s gid G i c t ∧ (t.grid gid).firstPass = 1) ∧
  (∀ (s : State) gid G i c, s.grids = [(gid, G)] → G.urgent = true → ctxHeld s G.ctx = false → nextIndex G = some i →
    freeMaskCores s G.qid = [c] →
    ∃ t, exec .urgentTeamAssignment s = .next t ∧ AssignsUrgent s gid G i c t ∧ (t.grid gid).firstPass = G.firstPass) ∧
  (∀ (s : State) c K v, s.cores = [(c, K)] → mayRestore s c = true → K.victims = [v] → restoreFails s c v = none →
    (s.teams.get? v).isSome = true → (s.team v).res = .inPlace → AtPeace s v → K.spill.Nodup → (∀ j ∈ K.spill, j < 512) → c < 288 →
    Memory.wf s.mem.cells = true →
    ∃ t, exec .urgentRestore s = .next t ∧ (t.core c).victims = [] ∧ (t.core c).spill = [] ∧ (t.core c).joinSpill = [] ∧
      (t.team v).res = .resident ∧ t.threads = s.threads ∧
      ∀ id T, (id, T) ∈ s.tiles → T.core = c → (∃ g, T.charge = some g ∧ (s.gangs.get? g).isSome = true ∧ (s.gang g).team = v) →
        ∀ j ∈ T.chunks, ∀ b < 512,
          readCell (tileKey c j b) t.mem.cells = if j ∈ K.spill then readCell (spillKey c (0x51000 + 512 * (511 - j) + b)) s.mem.cells
            else readCell (tileKey c j b) s.mem.cells)

/-- R437, R54, R103, R110: a yielding team whose tiles have no operation and no permit left, and whose stores to peers are acknowledged, is
saved: its record is written to its slot of the context's save area, and it waits to be resumed; until then it goes on yielding. -/
def YieldingTeamsAreSaved : Prop :=
  ∀ (s : State) id T slot, s.teams = [(id, T)] → T.res = .yielding slot →
    (tilesSettled s id = false ∨ teamAcked s id = false → exec .yieldSaveComplete s = .next s) ∧
    (∀ G, tilesSettled s id = true → teamAcked s id = true → s.grids.get? T.grid = some G →
      let h := saveHeader s G.ctx
      let s2 := { h.1 with sched := { h.1.sched with draws := h.1.sched.draws + 1 + T.t } }
      let w := devWriteLong s2 G.ctx (slotOf s2 G.ctx slot ((h.2.map (·.1)).getD 0)) (recordBytes s2 id h.1.sched.draws)
      ∃ t, exec .yieldSaveComplete s = .next t ∧ (t.team id).res = .saved slot ∧ (t.grid T.grid).resumed = G.resumed ++ [id] ∧
        t.mem.cells = w.1.mem.cells ∧ ∀ th, (s.threads.get? th).isSome = true →
          t.thread th = if th ∈ teamThreads s id then { s.thread th with savedPc := (s.thread th).pc } else s.thread th)

end Sys2Proof.Claims

/-- R157, R443: the head of an interactive queue whose first team lacks what lower classes hold begins to wait, and after 65,536
cycles the context of the victim drains: no record of it stays in a buffer, and their teams return to the distributor. A drain
ends when its context has no resident team, though no team of it is assigned while the head waits; past its deadline the context
is reset with code 1. R158 to R160, R440: an accepted urgent grid with one team has it assigned to the first free core of its
mask; a later one goes to a core that is free; a core whose urgent teams have ended gives its victim back its chunks, and the
victim is resident again. R437, R54, R103, R110: a yielding team whose tiles have no operation and no permit left, and whose
stores to peers are acknowledged, is saved: its record is written to its slot of the context's save area, and it waits to be
resumed; until then it goes on yielding. It rests on choices of the model (logs 8, 18, 31, 32, 33 and 59). -/
def Obligations.DrainsPreemptionAndYieldSaves : Prop :=
  Claims.DrainsAtTeamBoundaries ∧ Claims.UrgentPreemption ∧ Claims.YieldingTeamsAreSaved

/-- R150 to R152: an instance whose quarters and banks can be provided starts, each stage with its INITQ quarters, no quarter
held twice; a group that is due starts a stage team of OCC threads in each lane; a busy group of the donor drains for the
recipient at the end of an interval, and the BLK counts begin again. It rests on choices of the model (log 34). -/
def Obligations.PipelineInstances : Prop :=
  (∀ (s s1 : State) id i, OneInstance s id i → i.started = false → i.groups = [] → i.closed = i.stages.map (fun _ => false) → i.stages ≠ [] →
    (∀ d ∈ i.stages, d.group ≤ d.initQ) → (∀ q ∈ i.fifos, producerClosed i q = false) → banksOk s i = true →
    takeInitial s id i.stages (List.range i.stages.length) = some s1 →
    ∃ t I, exec .pipelineInstanceStart s = .next t ∧ t.insts = [(id, I)] ∧ I.started = true ∧ I.done = false ∧
      I.lastBalance = s.nowAt (16 * i.cl) ∧ (∀ k d, i.stages[k]? = some d → (I.groups.filter fun h => h.stage == k).length = d.initQ / d.group) ∧
      (∀ c, (heldQuarters t c).Nodup) ∧ (t.grid i.grid).nextIdx = (s.grid i.grid).nextIdx + 1) ∧
  (∀ (s : State) id i d h ks base, OneInstance s id i → i.started = true → i.stages = [d] → i.closed = [false] → i.groups = [h] →
    mayStart i h = true → h.stage = 0 → d.gwidth < 4 → Fresh s →
    let x := wantsStage d h.core
    let o := occOf s h.core
    (x.asks.map (·.2.1)).sum ≤ o.joins → (x.asks.map (·.2.2)).sum ≤ o.chunks → x.asks.length ≤ o.table → ringHeld s i.grid (stageIndex s i.grid) = false →
    stageSeats o d h.quarter x.asks = some ks → localStart s i.cl x.loc (localUsed s i.cl) = some base →
    ∃ t I, exec .pipelineInstanceStart s = .next t ∧ t.insts = [(id, I)] ∧ I.groups = [{ h with team := some s.sched.nextId, ran := true }] ∧
      I.startedTeams = i.startedTeams + 1 ∧ NewTeam t s.sched.nextId [h.core] (d.occ * (16 * d.group)) d.width d.entry (s.grid i.grid).launch.args ∧
      (t.team s.sched.nextId).role = .stage id 0 (64 * h.core + h.quarter)) ∧
  (∀ (s : State) id i, OneInstance s id i → i.started = true → i.lastBalance + 1024 ≤ s.nowAt (16 * i.cl) →
    (∀ h ∈ i.groups, h.draining = none) → (∀ q ∈ i.fifos, q.poppers = [] ∧ q.pushers = []) →
    (recipient i = none → exec .balancerInterval s = .next { s with insts := [(id, balanced i none)] }) ∧
    (∀ r dn h tm, recipient i = some r → donor i r = some dn → topGroup i dn = some h → h.team = some tm →
      exec .balancerInterval s = .next { s with insts := [(id, balanced i (some (h, r)))] }))

/-! ### Frames -/

namespace Sys2Proof.Claims

/-- A frame of one instance, whose FIFOs have no thread Blocked at them; the FIFO of vertex work and the FIFO of vertex returns are empty. -/
structure QuietInstance (s : State) (f : Frame) (id : Nat) (I : Instance) : Prop where
  one : f.insts = [id] ∧ s.insts.get? id = some I
  quiet : ∀ q ∈ I.fifos, q.poppers = [] ∧ q.pushers = []
  returns : ∀ k, returnFifo I = some k → ∀ q, I.fifos[k]? = some q → q.entries = []

/-- R166: a batch of n primitives of a draw of a list that is not indexed, from its primitive c on, for a geometry engine: each primitive has
the next ORDER and three vertex slots of its own. -/
def listBatch (eng i w c n order slot : Nat) : BatchRec :=
  let P := drawCount w / 3
  { eng := eng, draw := i, prims := (List.range n).map fun j => (order + j, [slot + 3 * j, slot + 3 * j + 1, slot + 3 * j + 2])
    verts := (List.range (3 * n)).map fun j =>
      ((bits w 95 64 + (3 * ((c + j / 3) % P) + j % 3) + bits w 63 32) % 2 ^ 32, (bits w 159 128 + (c + j / 3) / P) % 2 ^ 32, slot + j)
    sent := 3 * n, back := [], done := false, out := [], binned := [] }

/-- The bin list of a tile. -/
def binOf (f : Frame) (tile : Nat) : List Nat := ((f.tiles.find? fun r => r.tile == tile).map (·.prims)).getD []

/-- The components of a colour export (R379). -/
def colours (e : Export) : List Nat := [e.lo.toNat % 2 ^ 32, e.lo.toNat / 2 ^ 32, e.hi.toNat % 2 ^ 32, e.hi.toNat / 2 ^ 32]

/-- An export that output merge may apply now, of a frame with no audited tile, whose target's descriptor and texel can be read. -/
structure MergeReady (s : State) (fr : Nat) (f : Frame) (e : Export) (w : WorkItem) (s2 : State) (r old : Nat) : Prop where
  frame : s.frames.get? fr = some f ∧ f.phase = 1 ∧ ∀ x ∈ f.tiles, x.audit = false
  exp : f.exports.find? (fun x => x.id == e.id) = some e ∧ mayMerge f e = true ∧ f.items.find? (fun x => x.id == e.item) = some w
  read : ∃ s1 l, devRead s f.ctx (f.rtDesc e.rt) 32 = (s1, some l) ∧ r = natOfBytes l ∧
    mergeRead s1 f.ctx (texelAddr r 0 e.x e.y) (bits r 103 96) = (s2, some old)

/-- R13, R166, R167, R475: a batch of a list draw is cut in primitive order with its vertices numbered on, for the ready geometry engines in
turn, and its vertex work is sent; the bin writer of a ready cluster appends its next assembled batch to the bin lists of the tiles that
it owns, and a bin buffer without room fails the frame. -/
def GeometryPhase : Prop :=
  (∀ (s : State) fr f id I d b k q, s.frames.get? fr = some f → f.phase = 0 → QuietInstance s f id I → f.draws = [d] → d.block = some b → d.failed = false →
    bits d.packet 15 12 = 0 → bit d.packet 16 = false → d.cut < drawTotal d.packet → vertexFifo I = some k → I.fifos[k]? = some q →
    let n := min 256 (drawTotal d.packet - d.cut)
    let ready := readyGeoms s.mgmt
    q.entries = [] → 3 * n ≤ q.def_.depth → returnFifo I ≠ some k → ready ≠ [] →
    let B := listBatch (nth ready (f.batches.length % ready.length) 0) 0 d.packet d.cut n f.nextOrder f.nextSlot
    ∃ t F I' q', exec (.geometryBatch fr f.batches.length) s = .next t ∧ t.frames.get? fr = some F ∧ F.batches = f.batches ++ [B] ∧
      F.draws = [{ d with cut := d.cut + n }] ∧ F.nextOrder = f.nextOrder + n ∧ F.nextSlot = f.nextSlot + 3 * n ∧ F.phase = 0 ∧
      t.insts.get? id = some I' ∧ I'.fifos[k]? = some q' ∧ q'.entries = B.verts.map (vertexEntry (bits d.packet 319 256)) ∧ t.mem = s.mem ∧
      t.threads = s.threads) ∧
  (∀ (s s1 : State) fr f inst b x, s.frames.get? fr = some f → f.phase = 0 → nextBin f inst = some (b, x) → clusterUp s (instCluster s f inst) = true →
    let mine := x.out.flatMap fun p => (p.tiles.filter fun tl => tileOwner f tl == inst).map fun tl => (tl, p.order)
    (binEntries s fr mine = (s1, none) → ∃ t F x', exec (.binWriterAppend fr inst) s = .next t ∧ t.frames.get? fr = some F ∧ t.mem = s1.mem ∧
      F.batches[b]? = some x' ∧ x'.binned = inst :: x.binned ∧ F.phase = 0 ∧
      ∀ tl, binOf F tl = binOf f tl ++ (mine.filter fun m => m.1 == tl).map (·.2)) ∧
    (mine ≠ [] → f.binSize < f.binUsed + f.entry → ∃ t F, exec (.binWriterAppend fr inst) s = .next t ∧ t.frames.get? fr = some F ∧ F.phase = 2 ∧
      F.binOvf = true ∧ F.items = [] ∧ F.exports = []))

/-- R163, R168, R169, R177, R178, R192, R379: the raster phase starts when the geometry is done, with every tile to be shaded where the memo mode is
off; in a ready cluster a skipped tile has its signature written and is counted, and the items of another tile are emitted in ORDER; an export without
blending replaces its target's components, a depth export that fails its comparison writes nothing; a frame whose tiles, items
and exports are through completes with the adds of its draws. -/
def RasterPhase : Prop :=
  (∀ (s : State) fr f, s.frames.get? fr = some f →
    (geometryDone f = false → exec (.rasterPhaseStart fr) s = .next s) ∧
    (geometryDone f = true → memoModeOf s f.ctx = 3 → (∀ x ∈ f.tiles, x.skipped = false ∧ x.audit = false) → ∃ t F, exec (.rasterPhaseStart fr) s = .next t ∧ t.frames.get? fr = some F ∧ F.phase = 1 ∧
      F.cond = false ∧ F.tiles.map (·.tile) = List.range f.ntiles ∧ t.threads = s.threads ∧
      ∀ r ∈ F.tiles, r.skipped = false ∧ r.audit = false ∧ r.prims = binOf f r.tile)) ∧
  (∀ (s : State) fr f id I k inst r l, s.frames.get? fr = some f → f.phase = 1 → f.insts[inst]? = some id → s.insts.get? id = some I →
    clusterUp s I.cl = true → fragmentFifo I = some k → (f.tiles.filter fun x => tileOwner f x.tile == inst && !x.emittedAll) = r :: l →
    (∀ x ∈ f.tiles, x.tile = r.tile → x = r) →
    (∀ s1, r.visited = false → r.skipped = true → r.sig < 2 ^ 128 → devWrite s f.ctx (planeAddr f (!f.plane) r.tile) (bytesOfNat r.sig 16) = (s1, true) →
      ∃ t F, exec (.coarseRasterTile fr inst) s = .next t ∧ t.mem = s1.mem ∧ t.frames.get? fr = some F ∧ F.items = f.items ∧
        { r with visited := true } ∈ F.tiles ∧ (t.cluster I.cl).skipCnt = (s.cluster I.cl).skipCnt + 1 ∧
        (t.cluster I.cl).savedFc = (s.cluster I.cl).savedFc + wordOf (bits s.mgmt.govLive.toNat 47 32)) ∧
    (∀ o p q, r.visited = true → r.skipped = false → r.prims.drop r.emitted = [o] → primAt f o = some p → I.fifos[k]? = some q → q.entries = [] →
      0 < q.def_.depth → q.poppers = [] → q.pushers = [] →
      ∃ t F w I' q', exec (.coarseRasterTile fr inst) s = .next t ∧ t.mem = s.mem ∧ t.frames.get? fr = some F ∧ F.items = f.items ++ [w] ∧
        w.tile = r.tile ∧ w.order = o ∧ w.draw = p.draw ∧ w.last = true ∧ w.retired = false ∧ { r with emitted := r.emitted + 1 } ∈ F.tiles ∧
        t.insts.get? id = some I' ∧ I'.fifos[k]? = some q' ∧ q'.entries = [fragmentEntry f r p true])) ∧
  (∀ (s s2 : State) fr f e w r old, MergeReady s fr f e w s2 r old →
    let st := itemState f w
    (isDepth st e.rt = false → (e.item, e.thread, e.x, e.y) ∉ f.dropped → bit st 7 = false →
      ∃ t F, exec (.outputMergeExport fr e.id) s = .next t ∧ t.frames.get? fr = some F ∧ F.exports = f.exports.filter (fun x => x.id != e.id) ∧
        t.mem = (mergeWrite s2 f (f.rtDesc e.rt) r (bits r 103 96) (texelAddr r 0 e.x e.y) (bits st 19 16) (colours e)).mem) ∧
    (isDepth st e.rt = true → depthPass (bits st 23 21) (e.lo.toNat % 2 ^ 32) old = false →
      ∃ t F, exec (.outputMergeExport fr e.id) s = .next t ∧ t.frames.get? fr = some F ∧ F.exports = f.exports.filter (fun x => x.id != e.id) ∧
        t.mem = s2.mem ∧ F.dropped = (e.item, e.thread, e.x, e.y) :: f.dropped)) ∧
  (∀ (s : State) fr f, s.frames.get? fr = some f → (∀ x ∈ f.tiles, x.audit = false) →
    (rasterDone f = false → exec (.frameCompletion fr) s = .next s) ∧
    (∀ s1, rasterDone f = true → frameRecord s fr f = (s1, true) → ∃ t F, exec (.frameCompletion fr) s = .next t ∧ t.mem = (endDraws s1 f 1).mem ∧
      t.frames.get? fr = some F ∧ F.phase = 2 ∧ F.items = [] ∧ F.exports = []))

end Sys2Proof.Claims

/-- R13, R166, R167, R475: a batch of a list draw is cut in primitive order with its vertices numbered on, for the ready geometry
engines in turn, and its vertex work is sent; the bin writer of a ready cluster appends its next assembled batch to the bin
lists of the tiles that it owns, and a bin buffer without room fails the frame. R163, R168, R169, R177, R178, R192, R379: the
raster phase starts when the geometry is done, with every tile to be shaded where the memo mode is off; in a ready cluster a
skipped tile has its signature written and is counted, and the items of another tile are emitted in ORDER; an export without
blending replaces its target's components, a depth export that fails its comparison writes nothing; a frame whose tiles, items
and exports are through completes with the adds of its draws. It rests on choices of the model (logs 11 and 42). -/
def Obligations.RenderPhases : Prop :=
  Claims.GeometryPhase ∧ Claims.RasterPhase

/-! ### The outside of the device -/

namespace Sys2Proof.Claims

/-- No sensor window is enabled, no block of the range carries metadata that cannot be corrected, and n bytes lie in usable device memory
(R16, R71). -/
structure PlainRange (s : State) (pa n : Nat) : Prop where
  size : 0 < n ∧ pa + n ≤ 2 ^ 48 ∧ pa + n ≤ s.mgmt.usable
  blocks : ∀ b ∈ blocksOf pa n, s.mem.blockCode.getD b 0 ≠ 16
  windows : ∀ k, windowFor s k = none

/-- The bytes bs stand at key k, every other byte is as before, and no cluster owns a word of them (R90). -/
structure Lands (s : State) (k : Nat) (bs : List Byte) (t : State) : Prop where
  cells : Stored s.mem.cells t.mem.cells k bs
  threads : t.threads = s.threads
  owner : ∀ j < bs.length, ownerOf t.mem (k + j) = none

/-- The outside can read and write over the host link (R487, R495). -/
abbrev Linked (s : State) : Prop := linkServes s = true

/-- The ranges that an error which cannot be corrected poisons, with the unit that its log entry names and DETAIL1 (R454, R457). -/
def poisonOf (s : State) : EccSite → Option (Nat × Nat × Nat × Nat)
  | .line pa => let a := pa % 2 ^ 49 / 128 * 128; some (a, 128, sliceOf s.mgmt a, a % 2 ^ 48)
  | .granule cl off =>
    let k := sramKey (cl % 18) (off % 2 ^ 23 / 2 ^ 18) (off % 2 ^ 18 / 16 * 16)
    some (k, 16, cl % 18, k % 2 ^ 28)
  | .chunk core c => some (tileKey (core % 288) (c % 512) 0, 512, core % 288 / 16, c % 512)
  | .device pa => some (pa % 2 ^ 48 / 256 * 256, 256, channelOf s.mgmt (pa % 2 ^ 48 / 256 * 256), pa % 2 ^ 48 / 256 * 256)
  | _ => none

/-- R109, R226, R229, R230, R231, R233, R247, R488: posted writes of the host over its link, and of a peer over its port, land and leave their
words unowned, poisoned ones poison their blocks; a write counts in the object of its window; BAR0 takes request bytes, and the doorbell starts the command, or sets OVERRUN when one is in progress; reads answer the
bytes and whether they are poisoned; AtomicOps answer the old value; a snooped write of the host stands in host memory. -/
def HostAccesses : Prop :=
  (∀ (s : State) ra bs, let pa := inboundAddr ra
    arrives s ra = true → PlainRange s pa bs.length → ∃ t, exec (.hostWrite ra bs false) s = .next t ∧ Lands s pa bs t) ∧
  (∀ (s : State) ra bs, let pa := inboundAddr ra
    arrives s ra = true → PlainRange s pa bs.length → ∃ t, exec (.hostWrite ra bs true) s = .next t ∧ Lands s pa bs t ∧
    (∀ b ∈ blocksOf pa bs.length, (poisonAt t.mem (256 * b) 256).isSome = true) ∧ Logs s (entryLogged 6 4 0xFF 0 pa 0) t) ∧
  (∀ (s : State) pa bs, PlainRange s pa bs.length → ∃ t, exec (.sensorWrite pa bs) s = .next t ∧ Lands s pa bs t) ∧
  (∀ (s : State) pa bs n k, 0 < bs.length → pa + bs.length ≤ 2 ^ 48 → pa + bs.length ≤ s.mgmt.usable → (∀ b ∈ blocksOf pa bs.length, s.mem.blockCode.getD b 0 ≠ 16) →
    (∀ i < bs.length, windowFor s (pa + i) = some n) → windowKey s n = some k → (bs.length : Int) < (readBobj s k).bytes →
    2 ^ 63 ≤ k →
    ∃ t, exec (.sensorWrite pa bs) s = .next t ∧ readBobj t k = { readBobj s k with bytes := (readBobj s k).bytes - bs.length } ∧
      readCells t.mem.cells pa bs.length = bs) ∧
  (∀ (s : State) off bs, Linked s → 0x1000 ≤ off → off + bs.length ≤ 0x2000 → ∃ t, exec (.hostWrite (2 ^ 67 + off) bs false) s = .next t ∧
    Stored s.mem.cells t.mem.cells (mailKey off) bs ∧ t.mgmt = s.mgmt ∧ t.threads = s.threads) ∧
  (∀ (s : State) v, Linked s → v < 2 ^ 64 → ∃ t, exec (.hostWrite (2 ^ 67) (bytesOfNat v 8) false) s = .next t ∧ t.mem = s.mem ∧ t.threads = s.threads ∧
    if s.mgmt.mbxStatus.getLsbD 0 then t.mgmt = { s.mgmt with mbxStatus := s.mgmt.mbxStatus ||| 2 }
    else t.mgmt.mbxCmd = BitVec.ofNat 64 (bits v 63 32 * 2 ^ 32 + v % 2 ^ 16) ∧ t.mgmt.mbxStatus = s.mgmt.mbxStatus ||| 1 ∧
      t.mgmt.cmdIn = readCells s.mem.cells (mailKey 0x1000) (min 4096 (bits v 47 32)) ∧
      t.sched.agenda = s.sched.agenda ++ [commandOf (v % 2 ^ 16) t.mgmt.cmdIn]) ∧
  (∀ (s : State) ra n, let pa := inboundAddr ra
    arrives s ra = true → pa + n ≤ 2 ^ 48 → pa < s.mgmt.usable → ∃ t, exec (.hostRead ra n) s = .next t ∧ t.mgmt.reply = readCells s.mem.cells pa n ∧
    t.mgmt.replyBad = (poisonAt s.mem pa n).isSome ∧ t.mem = s.mem ∧ t.threads = s.threads) ∧
  (∀ s : State, Linked s → ∃ t, exec (.hostRead (2 ^ 67 + 0x3000) 8) s = .next t ∧ t.mgmt.reply = bytesOfNat (s.mgmt.energy % 2 ^ 32) 8 ∧
    t.mgmt.latchHost = s.mgmt.energy / 2 ^ 32 % 2 ^ 8 ∧ t.mgmt.replyBad = false ∧ t.mem = s.mem) ∧
  (∀ (s : State) op ra v c, let pa := inboundAddr ra
    arrives s ra = true → pa % 8 = 0 → pa + 8 ≤ 2 ^ 48 → pa < s.mgmt.usable → s.mem.blockCode.getD (pa / 256) 0 ≠ 16 → poisonAt s.mem pa 8 = none →
    ∃ t, exec (.hostAtomic op ra v c) s = .next t ∧ t.mgmt.reply = readCells s.mem.cells pa 8 ∧ t.mgmt.replyBad = false ∧
      Lands s pa (bytesOfNat (hostAtomNew op (readNat s.mem.cells pa 8) v.toNat c.toNat) 8) t) ∧
  (∀ (s : State) ha bs, s.mgmt.linkUp = true → ha + bs.length ≤ 2 ^ 48 → 0 < bs.length → ∃ t, exec (.hostSnoop ha bs) s = .next t ∧
    Lands s (2 ^ 48 + ha) bs t)

/-- R487, R489, R110, R140, R458, R463: links and ports go down and up as their registers and the log show, and what had not arrived is lost;
an acknowledged store is forgotten, and the grid that waited only for it completes; a failed one is logged and reported to its thread, and
one that is overdue resets its context with code 4. -/
def LinksAndPeers : Prop :=
  (∀ s : State, ∃ t, exec .hostLinkDown s = .next t ∧ t.mgmt.linkUp = false ∧ (∀ e ∈ t.mem.registry, isHost (128 * e.1) = false) ∧
    (∀ i, i ∈ t.sched.agenda ↔ i ∈ s.sched.agenda ∧ isInbound i = false) ∧ t.threads = s.threads ∧
    ((∀ e ∈ s.mem.registry, isHost (128 * e.1) = false) → t.mem = s.mem ∧ Logs s (entryLogged 6 2 0xFF 0 0 0) t)) ∧
  (∀ s : State, ∃ t, exec .hostLinkUp s = .next t ∧ t.mgmt.linkUp = true ∧ Logs s (entryLogged 6 3 0xFF 0 0 0) t ∧ t.mem = s.mem ∧
    ∀ cl, ∀ c ∈ (t.cluster cl).copies, isHost c.1 = false) ∧
  (∀ (s : State) r w, ∃ t, exec (.linkSpeedChange r w) s = .next t ∧ t.mgmt.linkRate = r ∧ t.mgmt.linkWidth = w ∧ t.mgmt.linkUp = s.mgmt.linkUp ∧
    Logs s (entryLogged 6 1 0xFF 0 0 0) t ∧ t.mem = s.mem ∧ t.threads = s.threads) ∧
  (∀ (s : State) p, (∀ e ∈ s.mgmt.peerStores, e.2.port ≠ p) → ∃ t, exec (.peerPortDown p) s = .next t ∧ t.mgmt.ports = s.mgmt.ports.set p false ∧
    t.mgmt.peerStores = s.mgmt.peerStores ∧ t.mem = s.mem ∧ t.threads = s.threads ∧
    ∀ i, i ∈ t.sched.agenda ↔ i ∈ s.sched.agenda ∧ isFromPort p i = false) ∧
  (∀ (s : State) p, ∃ t, exec (.peerPortUp p) s = .next t ∧ t.mgmt = { s.mgmt with ports := s.mgmt.ports.set p true } ∧ t.mem = s.mem ∧ t.threads = s.threads) ∧
  (∀ (s : State) a p, s.mgmt.peerStores.get? a = some p → let left := { s.mgmt with peerStores := s.mgmt.peerStores.del a }
    (gridTeams s p.grid ≠ [] → exec (.peerAck a true) s = .next { s with mgmt := left }) ∧
    (∀ G, s.grids.get? p.grid = some G → G.pipeline = false → G.failed = false → G.n ≤ G.nextIdx → G.returned = [] → G.resumed = [] →
      gridTeams s p.grid = [] → gridRecords s p.grid = [] → (∀ e ∈ s.mgmt.peerStores, e.2.grid = p.grid → e.1 = a) →
      ∃ t, exec (.peerAck a true) s = .next t ∧ t.mgmt.peerStores = left.peerStores ∧ t.threads = s.threads ∧ t.grids.get? p.grid = none ∧
        t.mem = (cplAdd { s with mgmt := left } G.ctx G.launch.cpl 1).mem)) ∧
  (∀ (s : State) a p x, s.mgmt.peerStores.get? a = some p → gridTeams s p.grid ≠ [] → s.threads.get? p.thread = some x → x.run ≠ .exited → x.held = [] →
    ∀ i ∈ [Instr.peerAck a false] ++ (if s.mgmt.peerStores = [(a, p)] then [Instr.peerPortDown p.port] else []),
    ∃ t, exec i s = .next t ∧ Logs s (entryLogged 6 5 p.port p.ctx p.va 0) t ∧ t.mgmt.peerStores = s.mgmt.peerStores.del a ∧
      (t.thread p.thread).held = [⟨a, cPeer, BitVec.ofNat 64 (5 * 2 ^ 60 + p.va % 2 ^ 52), false, [], none⟩] ∧ t.mem = s.mem) ∧
  (∀ (s : State) a p, s.mgmt.peerStores = [(a, p)] →
    (s.clk.fabric < p.since + 2 ^ 24 → exec .peerAckTimeout s = .next s) ∧
    (p.since + 2 ^ 24 ≤ s.clk.fabric → ∃ t e, exec .peerAckTimeout s = .next t ∧ t.mgmt.peerStores = [] ∧
      t.mgmt.errPending = s.mgmt.errPending ++ e ++ [entryLogged 1 4 ((s.teamOf p.thread).idx % 2 ^ 16) p.ctx 0 0] ∧
      (p.ctx ≠ 0 → residentTeams t p.ctx = [])))

/-- R368, R454, R456, R457, R480, R484: a corrected error is counted and changes nothing else; one that cannot be corrected poisons its block,
line, granule or chunk and is logged, drops a registry entry, makes a memo entry's parity wrong, marks a block's metadata, or resets the
context of a queue's descriptor with code 4; the cores of a cluster in which it lies are in self-test mode then. -/
def EccErrors : Prop :=
  ∀ (s : State) site, ∃ t, exec (.eccError site true) s = .next { s with mgmt := { s.mgmt with ceCount := min (2 ^ 64 - 1) (s.mgmt.ceCount + 1) } } ∧
    exec (.eccError site false) s = .next t ∧
    (∀ k n u a, poisonOf s site = some (k, n, u, a) → t.mem.cells = s.mem.cells ∧ (k, n) ∈ t.mem.poison ∧ (∀ e ∈ s.mem.poison, e ∈ t.mem.poison) ∧
      Logs s (entryLogged 2 cPoison u 0 a 3) t ∧ t.threads = s.threads) ∧
    (∀ pa, site = .registry pa → t = { s with mem := { s.mem with registry := s.mem.registry.del (pa / 128) } }) ∧
    (∀ cl tb e, site = .memoWay cl tb e → t.mem = s.mem ∧ (t.cluster cl).memo.length = (s.cluster cl).memo.length ∧
      ∀ x ∈ (s.cluster cl).memo, (if x.table = tb ∧ x.slot = e then { x with parity := Nat.xor x.parity 1 } else x) ∈ (t.cluster cl).memo) ∧
    (∀ pa, site = .metadata pa → t = { s with mem := { s.mem with blockCode := s.mem.blockCode.set (pa % 2 ^ 48 / 256) 16 } }) ∧
    (∀ q Q, site = .queueDesc q → s.queues.get? q = some Q → ∃ e, t.mgmt.errPending = s.mgmt.errPending ++ e ++ [entryLogged 1 4 0 Q.ctx 0 0]) ∧
    ∀ cl, siteCluster site = some cl → ∀ c, c / 16 = cl → (t.core c).selfTest = true

end Sys2Proof.Claims

/-- R109, R226, R229, R230, R231, R233, R247, R488: posted writes of the host over its link, and of a peer over its port, land and
leave their words unowned, poisoned ones poison their blocks; a write counts in the object of its window; BAR0 takes request
bytes, and the doorbell starts the command, or sets OVERRUN when one is in progress; reads answer the bytes and whether they are
poisoned; AtomicOps answer the old value; a snooped write of the host stands in host memory. R487, R489, R110, R140, R458, R463:
links and ports go down and up as their registers and the log show, and what had not arrived is lost; an acknowledged store is
forgotten, and the grid that waited only for it completes; a failed one is logged and reported to its thread, and one that is
overdue resets its context with code 4. R368, R454, R456, R457, R480, R484: a corrected error is counted and changes nothing
else; one that cannot be corrected poisons its block, line, granule or chunk and is logged, drops a registry entry, makes a memo
entry's parity wrong, marks a block's metadata, or resets the context of a queue's descriptor with code 4; the cores of a
cluster in which it lies are in self-test mode then. It rests on choices of the model (logs 6, 23, 44, 52 and 58). -/
def Obligations.HostPeersAndErrors : Prop :=
  Claims.HostAccesses ∧ Claims.LinksAndPeers ∧ Claims.EccErrors

/-! ### Banks, slices and the mesh -/

namespace Sys2Proof.Claims

/-- The one packet on the mesh: one destination, not in a turn buffer, not served in this cycle, and not newly stale. -/
structure OnePacket (s : State) (id : Nat) (f : Flit) (d : Nat) : Prop where
  pkts : s.mgmt.pkts = [(id, f)]
  dst : f.dst = [d]
  waits : f.turn = none ∧ f.served < s.clk.fabric ∧ 0 < f.left
  fresh : f.stale = true ∨ isStale s.clk.fabric f.stamp = false

/-- A packet that has arrived at a node, all its flits to be granted again. -/
def Flit.at_ (f : Flit) (n now : Nat) : Flit := { f with node := n, left := f.flits, served := now }

/-- R62, R520: a bank whose wanted mode differs begins its release when nothing holds it, a release in progress ends in its mode, and the
memo entries that lay in a bank which leaves that mode are gone; a unit that does not exist is refused. -/
def BankTransitions : Prop :=
  (∀ (s : State) cl b, 18 ≤ cl ∨ 32 ≤ b → exec (.bankTransition cl b) s = .fault .noSuchUnit) ∧
  (∀ (s : State) cl b, cl < 18 → b < 32 → (s.cluster cl).banks.length = 32 →
    let B := (s.cluster cl).bank b
    let new := wantedMode (s.cluster cl) b
    (∀ m, B.target = some m → ∃ t, exec (.bankTransition cl b) s = .next t ∧ (t.cluster cl).bank b = ⟨m, none⟩ ∧ t.mem = s.mem ∧ t.threads = s.threads ∧
      ∀ k, k ≠ b → (t.cluster cl).bank k = (s.cluster cl).bank k) ∧
    (B.target = none → B.mode = new ∨ bankHeld s cl b new = true → exec (.bankTransition cl b) s = .next s) ∧
    (B.target = none → B.mode ≠ new → bankHeld s cl b new = false → ∃ t, exec (.bankTransition cl b) s = .next t ∧
      (t.cluster cl).bank b = ⟨B.mode, some new⟩ ∧ t.mem.cells = s.mem.cells ∧ t.threads = s.threads ∧
      (∀ k, k ≠ b → (t.cluster cl).bank k = (s.cluster cl).bank k) ∧
      (t.cluster cl).memo = (if B.mode = 3 then (s.cluster cl).memo.filter fun e => entryBank (nth (s.cluster cl).memoTable e.table 0) e.slot != b
        else (s.cluster cl).memo)))

/-- R86: a slice with room takes a request as old as its oldest rejected one, and rejects it for 32 cycles otherwise; a rejected request whose
time has come tries again. -/
def SlicesHoldRequests : Prop :=
  (∀ (s : State) k node stamp, k < 32 → let sl := s.mgmt.slices.getD k Slice.empty
    ∃ t, exec (.sliceRequest k node stamp) s = .next t ∧ t.mem = s.mem ∧ t.threads = s.threads ∧
      (∀ j, j ≠ k → t.mgmt.slices.get? j = s.mgmt.slices.get? j) ∧
      if sl.held.length < 256 ∧ sliceTakes sl node stamp = true
      then (t.mgmt.slices.getD k Slice.empty).held = sl.held ++ [(node, stamp)] ∧ (t.mgmt.slices.getD k Slice.empty).retry = sl.retry
      else (t.mgmt.slices.getD k Slice.empty).held = sl.held ∧
        (t.mgmt.slices.getD k Slice.empty).retry = sl.retry ++ [(node, stamp, s.clk.fabric + 32)]) ∧
  (∀ (s : State) k held node stamp due, s.mgmt.slices = [(k, ⟨held, some (stamp, node), [(node, stamp, due)]⟩)] → held.length < 256 →
    exec .sliceRetry s = .next (if due ≤ s.clk.fabric then { s with mgmt := { s.mgmt with slices := [(k, ⟨held ++ [(node, stamp)], none, []⟩)] } } else s))

/-- R236, R238 to R240: a packet of at most four flits crosses its port in one cycle: along x, then along y, where its turn point is no router
set to pass-through, to the next router, into the turn buffer of a half-router site where it turns, or to its unit, a slice taking its
request; of a longer one four flits cross. A packet leaves a turn buffer two cycles later, and branches there where its destinations lie
on two ways. -/
def PacketsCrossTheMesh : Prop :=
  (∀ (s : State) id f d, OnePacket s id f d → 4 < f.left → (f.port s.mgmt.passThrough = 4 → f.node ≠ d → f.flits ≤ 16) →
    exec (.fabricHop id) s = .next { s with mgmt := { s.mgmt with pkts := [(id, { f with left := f.left - 4, served := s.clk.fabric })] } }) ∧
  (∀ (s : State) id f d, OnePacket s id f d → f.left ≤ 4 → let port := f.port s.mgmt.passThrough
    (port ≠ 4 → exec (.fabricHop id) s =
      .next { s with mgmt := { s.mgmt with pkts := [(id, Claims.Flit.at_ f (neighbour f.node port) s.clk.fabric)] } }) ∧
    (port = 4 → f.node ≠ d → f.flits ≤ 16 → exec (.fabricHop id) s =
      .next { s with mgmt := { s.mgmt with pkts := [(id, { Claims.Flit.at_ f f.node s.clk.fabric with turn := some (s.clk.fabric + 2) })] } }) ∧
    (f.node = d → ∃ t, exec (.fabricHop id) s = .next t ∧ t.mgmt = { s.mgmt with pkts := [] } ∧ t.mem = s.mem ∧ t.threads = s.threads ∧
      t.sched.agenda = s.sched.agenda ++ match nodeUnit d with
        | (1, slice) => if fullSite f.src then [.sliceRequest slice f.src f.stamp] else []
        | _ => [])) ∧
  (∀ (f : Flit) passed d, f.dst = [d] → turnPoint f.src d ∉ passed →
    (f.node % 8 < d % 8 → f.port passed = 0) ∧ (d % 8 < f.node % 8 → f.port passed = 2) ∧
    (f.node % 8 = d % 8 → if f.node = d then f.port passed = 4
      else if f.turned = false ∧ f.src % 8 ≠ d % 8 ∧ fullSite f.node = false then f.port passed = 4
      else (f.node / 8 < d / 8 → f.port passed = 1) ∧ (d / 8 < f.node / 8 → f.port passed = 3))) ∧
  (∀ s : State, (∀ e ∈ s.mgmt.pkts, ∃ d, e.2.dst = [d]) → ∃ t, exec .turnBufferReinject s = .next t ∧ t.mem = s.mem ∧ t.threads = s.threads ∧
    ∀ id f, s.mgmt.pkts.get? id = some f → t.mgmt.pkts.get? id = some (match f.turn with
      | some d => if d ≤ s.clk.fabric then { f with turn := none, turned := true } else f
      | none => f)) ∧
  (∀ (s : State) id f due a b, s.mgmt.pkts = [(id, f)] → f.turn = some due → due ≤ s.clk.fabric → f.dst = [a, b] → id ≠ s.sched.nextId →
    let g := { f with turn := none, turned := true }
    g.way s.mgmt.passThrough a ≠ g.way s.mgmt.passThrough b → ∃ t, exec .turnBufferReinject s = .next t ∧
      t.mgmt.pkts.get? id = some { g with dst := [a] } ∧ t.mgmt.pkts.get? s.sched.nextId = some { g with dst := [b] })

end Sys2Proof.Claims

/-- R62, R520: a bank whose wanted mode differs begins its release when nothing holds it, a release in progress ends in its
mode, and the memo entries that lay in a bank which leaves that mode are gone; a unit that does not exist is refused. R86: a
slice with room takes a request as old as its oldest rejected one, and rejects it for 32 cycles otherwise; a rejected request
whose time has come tries again. R236, R238 to R240: a packet of at most four flits crosses its port in one cycle: along x, then
along y, where its turn point is no router set to pass-through, to the next router, into the turn buffer of a half-router site
where it turns, or to its unit, a slice taking its request; of a longer one four flits cross. A packet leaves a turn buffer two
cycles later, and branches there where its destinations lie on two ways. It rests on choices of the model (logs 5 and 58). -/
def Obligations.BanksSlicesAndFabric : Prop :=
  Claims.BankTransitions ∧ Claims.SlicesHoldRequests ∧ Claims.PacketsCrossTheMesh

/-! ### The log, power and thermal protection -/

namespace Sys2Proof.Claims

/-- The bytes of a log entry (Table 21-1). -/
def entryBytes (w0 time details : Nat) : List Byte := bytesOfNat w0 8 ++ bytesOfNat time 8 ++ bytesOfNat details 16

/-- A vector-1 message has been sent at this time (R484); it is lost without a link (R487). -/
structure Announces (s t : State) : Prop where
  sent : t.mgmt.msi = if s.mgmt.linkUp then s.mgmt.msi ++ [1] else s.mgmt.msi
  timer : t.mgmt.msiTimer = some s.clk.ao ∧ t.mgmt.msiPending = false

/-- Nothing but the management side differs. -/
structure SameButMgmt (s t : State) : Prop where
  mem : t.mem = s.mem
  threads : t.threads = s.threads
  clusters : t.clusters = s.clusters
  clk : t.clk = s.clk

/-- The fields of a cluster's rate register are legal (Table 10-3). -/
def RateOk (C : Cluster) : Prop := C.throttle ≤ 7 ∧ C.fstep ≤ 15 ∧ C.req ≤ 2 ∧ C.cur ≤ 2

/-- R497: the THROTTLE that the thermal pass leaves. -/
def passed (m : Mgmt) (cl throttle : Nat) : Nat :=
  if bits m.thermCtl.toNat 9 0 ≤ nth m.temps cl 0 ∧ throttle < 7 then throttle + 1
  else if nth m.temps cl 0 ≤ bits m.thermCtl.toNat 25 16 ∧ 0 < throttle then throttle - 1 else throttle

/-- R483, R484: an append that has arrived takes the next entry of the log, with its time, and is announced by a vector-1 message, at most one in a
microsecond; a write of COMMIT appends an entry with the stage registers as its details. -/
def TheErrorLog : Prop :=
  (∀ (s : State) w d l, s.mgmt.errPending = (w, d) :: l → ∃ t, exec .errlogAppend s = .next t ∧
    Stored s.mem.cells t.mem.cells (mgmtKey (0x8000 + 32 * (s.mgmt.errWidx % 1024))) (entryBytes w s.clk.ao d) ∧
    t.mgmt.errWidx = s.mgmt.errWidx + 1 ∧ t.mgmt.errPending = l ∧ t.threads = s.threads ∧
    (if s.mgmt.msiTimer.any (fun a => decide (s.clk.ao < a + 100)) then t.mgmt.msiPending = true ∧ t.mgmt.msi = s.mgmt.msi ∧ t.mgmt.msiTimer = s.mgmt.msiTimer
      else Announces s t)) ∧
  (∀ (s : State) a, s.mgmt.msiTimer = some a →
    (s.clk.ao < a + 100 → exec .msixVector1Timer s = .next s) ∧
    (a + 100 ≤ s.clk.ao → ∃ t, exec .msixVector1Timer s = .next t ∧ SameButMgmt s t ∧ t.mgmt.errWidx = s.mgmt.errWidx ∧
      if s.mgmt.msiPending then Announces s t else t.mgmt.msi = s.mgmt.msi ∧ t.mgmt.msiTimer = none)) ∧
  (∀ (s : State) v, ∃ t, exec (.errlogCommit v) s = .next t ∧ SameButMgmt s t ∧ t.mgmt.errWidx = s.mgmt.errWidx ∧
    Logs s (v.toNat / 2 ^ 8 * 2 ^ 8, s.mgmt.stage1.toNat + 2 ^ 64 * s.mgmt.stage2.toNat) t)

/-- R486, R495, R496: new readings bring an emergency, or the end of one; an emergency stops the clocks and is counted; its end logs its times;
after 10 s the device shuts down with FAILSTEP bit 15 set. -/
def ThermalProtection : Prop :=
  (∀ (s : State) l, s.mgmt.ready.any (· != 0) = true → ∃ t, exec (.thermalSensorUpdate l) s = .next t ∧ SameButMgmt s t ∧
    t.mgmt = { s.mgmt with temps := (List.range 19).map fun n => nth l n 0 % 1024 } ∧
    t.sched.agenda = s.sched.agenda ++
      (if s.clk.stopped = none then (if (List.range 19).any (fun n => decide (bits s.mgmt.thermCtl.toNat 41 32 ≤ nth l n 0 % 1024)) then [.thermalEmergency] else [])
       else if (List.range 19).all (fun n => decide (nth l n 0 % 1024 ≤ bits s.mgmt.thermCtl.toNat 25 16)) then [.thermalRelease] else [])) ∧
  (∀ (s : State) n, s.clk.stopped = none → n < 19 → bits s.mgmt.thermCtl.toNat 41 32 ≤ nth s.mgmt.temps n 0 →
    (∀ k < n, nth s.mgmt.temps k 0 < bits s.mgmt.thermCtl.toNat 41 32) → ∃ t, exec .thermalEmergency s = .next t ∧
      t.clk = { s.clk with stopped := some s.clk.ao, stoppedBy := n } ∧ t.mgmt = { s.mgmt with emergCnt := min 0xFFFF (s.mgmt.emergCnt + 1) } ∧
      t.mem = s.mem ∧ t.threads = s.threads ∧ t.clusters = s.clusters) ∧
  (∀ (s : State) a, s.clk.stopped = some a → (∀ n < 19, nth s.mgmt.temps n 0 ≤ bits s.mgmt.thermCtl.toNat 25 16) →
    ∃ t, exec .thermalRelease s = .next t ∧ t.clk = { s.clk with stopped := none } ∧ t.mem = s.mem ∧ t.threads = s.threads ∧
      t.mgmt.errPending = s.mgmt.errPending ++ [entryLogged 8 3 s.clk.stoppedBy 0 a s.clk.ao, entryLogged 8 4 s.clk.stoppedBy 0 a s.clk.ao]) ∧
  (∀ (s : State) a, s.clk.stopped = some a → (s.clk.ao < a + 10 ^ 9 → exec .thermalShutdown s = .next s) ∧
    (a + 10 ^ 9 ≤ s.clk.ao → ∃ t, exec .thermalShutdown s = .next t ∧ t.clk = { s.clk with shut := true } ∧
      byteField (startRecord t) 20 2 = 2 ^ 15 + byteField (startRecord s) 20 2 % 2 ^ 15 ∧
      byteField (startRecord t) 252 4 = recordCheck (startRecord t) ∧ (∀ k, k < startKey 0 ∨ startKey 256 ≤ k → readCell k t.mem.cells = readCell k s.mem.cells)))

/-- R246, R497: at an interval each usable cluster's THROTTLE goes one step up at or above ALERT, one down at or below RELEASE, and is logged when it
changes; the governor's registers take effect; FSTEP and REQ stay legal, in the fixed mode at or below the software's, and as they are where
LIMIT caps nothing, in the frame-paced mode within one step. -/
def GovernorInterval : Prop :=
  ∀ s : State, (s.clk.stopped ≠ none ∨ s.clk.shut = true → exec .governorInterval s = .next s) ∧
    (s.clk.stopped = none → s.clk.shut = false → (∀ cl < 18, RateOk (s.cluster cl)) → ∃ t, exec .governorInterval s = .next t ∧
      t.mgmt.govLive = s.mgmt.govCtl ∧ t.mgmt.frameLive = s.mgmt.govFrame ∧ t.mgmt.governorAt = s.clk.ao ∧ t.mem = s.mem ∧ t.threads = s.threads ∧
      (∀ cl < 18, clusterOut s cl = false → (t.cluster cl).throttle = passed s.mgmt cl (s.cluster cl).throttle ∧ RateOk (t.cluster cl) ∧
        (s.mgmt.govCtl.toNat % 4 = 2 → (t.cluster cl).fstep ≤ (s.cluster cl).fstep ∧ (t.cluster cl).req ≤ (s.cluster cl).req ∧
          ((t.cluster cl).fstep = (s.cluster cl).fstep ∧ (t.cluster cl).req = (s.cluster cl).req ∨
            ∃ n, bits s.mgmt.govCtl.toNat 57 48 < Config.boardPower n (clusterRates s) s.clk.fabricStep)) ∧
        (s.mgmt.govCtl.toNat % 4 = 1 → s.mgmt.govFrame.toNat % 2 ^ 24 ≠ 0 →
          (t.cluster cl).fstep ≤ (s.cluster cl).fstep + 1 ∧ (s.cluster cl).fstep ≤ (t.cluster cl).fstep + 1)) ∧
      (∀ cl < 18, clusterOut s cl = true → (t.cluster cl).throttle = (s.cluster cl).throttle ∧ (t.cluster cl).fstep = (s.cluster cl).fstep) ∧
      t.mgmt.errPending = s.mgmt.errPending ++ ((List.range 18).filter fun cl =>
          !clusterOut s cl && passed s.mgmt cl (s.cluster cl).throttle != (s.cluster cl).throttle).map fun cl =>
        (cl * 2 ^ 32 + 8 * 2 ^ 24 + (if (s.cluster cl).throttle < passed s.mgmt cl (s.cluster cl).throttle then 1 else 2) * 2 ^ 8,
          nth s.mgmt.temps cl 0 % 2 ^ 64 + 2 ^ 64 * passed s.mgmt cl (s.cluster cl).throttle))

end Sys2Proof.Claims

/-- R483, R484: an append that has arrived takes the next entry of the log, with its time, and is announced by a vector-1
message, at most one in a microsecond; a write of COMMIT appends an entry with the stage registers as its details. R486, R495,
R496: new readings bring an emergency, or the end of one; an emergency stops the clocks and is counted; its end logs its times;
after 10 s the device shuts down with FAILSTEP bit 15 set. R246, R497: at an interval each usable cluster's THROTTLE goes one
step up at or above ALERT, one down at or below RELEASE, and is logged when it changes; the governor's registers take effect;
FSTEP and REQ stay legal, in the fixed mode at or below the software's, and as they are where LIMIT caps nothing, in the
frame-paced mode within one step. It rests on choices of the model (logs 12 and 49). -/
def Obligations.LogThermalAndGovernor : Prop :=
  Claims.TheErrorLog ∧ Claims.ThermalProtection ∧ Claims.GovernorInterval

/-- R9, R10, R61, R179, R191, R244, R247, R486: register writes of the management core set the fields that the register's table
defines, and no other register; a read of MEMO.AUDIT clears it, a read of ENERGY_LO latches for its reader, THERM.CTL takes
ordered thresholds only, other software sets FSTEP and REQ in the fixed mode only, the clock keeps its step and lane rate until a
slot boundary, and the registers of an excluded cluster read as zero. -/
def Obligations.RegisterWrites : Prop :=
  (∀ (s : State) cl v, clusterOut s cl = false → ∃ t, exec (.clusterBankmodeWrite cl v) s = .next t ∧
    t.cluster cl = { s.cluster cl with bankMode := v } ∧ (∀ k, k ≠ cl → t.cluster k = s.cluster k) ∧ t.mem = s.mem ∧ t.threads = s.threads ∧
    t.sched.agenda = s.sched.agenda ++ (List.range 32).map fun b => .bankTransition cl b) ∧
  (∀ (s : State) cl n v, clusterOut s cl = false → n < 16 → (s.cluster cl).memoTable.length = 16 → ∃ t, exec (.memoTableWrite cl n v) s = .next t ∧
    nth (t.cluster cl).memoTable n 0 = v &&& 0x8000FFF000000000 ∧ (∀ k, k ≠ n → nth (t.cluster cl).memoTable k 0 = nth (s.cluster cl).memoTable k 0) ∧
    (t.cluster cl).memo = (if (nth (s.cluster cl).memoTable n 0).getLsbD 63 then (s.cluster cl).memo.filter fun e => e.table != n else (s.cluster cl).memo) ∧
    (∀ k, k ≠ cl → t.cluster k = s.cluster k) ∧ t.mem = s.mem ∧ t.threads = s.threads) ∧
  (∀ (s : State) cl, clusterOut s cl = false → ∃ t, exec (.memoAuditRead cl) s = .next t ∧ t.cluster cl = { s.cluster cl with audit := ⟨0, 0, 0⟩ } ∧
    (∀ k, k ≠ cl → t.cluster k = s.cluster k) ∧ t.mem = s.mem ∧ t.threads = s.threads) ∧
  (∀ (s : State) cl, clusterOut s cl = true → (∀ v, exec (.clusterBankmodeWrite cl v) s = .next s) ∧ (∀ n v, exec (.memoTableWrite cl n v) s = .next s) ∧
    exec (.memoAuditRead cl) s = .next s ∧ (∀ v b, exec (.clusterRateWrite cl v b) s = .next s) ∧
    (cl < 18 → (readReg s ⟨5, cl, 0⟩).2 = 0 ∧ ∀ r, (readReg s ⟨1, cl, r⟩).2 = 0)) ∧
  (∀ (s : State) h, ∃ t, exec (.pwrEnergyLoRead h) s = .next t ∧ SameButMgmt s t ∧
    t.mgmt = if h then { s.mgmt with latchHost := s.mgmt.energy / 2 ^ 32 % 2 ^ 8 } else { s.mgmt with latchCore := s.mgmt.energy / 2 ^ 32 % 2 ^ 8 }) ∧
  (∀ (s : State) v, ∃ t, exec (.thermCtlWrite v) s = .next t ∧ SameButMgmt s t ∧
    t.mgmt = if bits v.toNat 25 16 < bits v.toNat 9 0 ∧ bits v.toNat 9 0 < bits v.toNat 41 32 then { s.mgmt with thermCtl := v &&& 0x3FF03FF03FF }
      else s.mgmt) ∧
  (∀ (s : State) cl v, clusterOut s cl = false → ∃ t, exec (.clusterRateWrite cl v true) s = .next t ∧ t.mem = s.mem ∧ t.threads = s.threads ∧
    (t.cluster cl).throttle = bits v.toNat 14 12 ∧ (t.cluster cl).fstep = bits v.toNat 11 8 ∧ (t.cluster cl).cur = (s.cluster cl).cur ∧
    (t.cluster cl).step = (s.cluster cl).step ∧
    (t.cluster cl).req = if v.toNat % 4 = 3 then (s.cluster cl).req else v.toNat % 4) ∧
  (∀ (s : State) cl v, clusterOut s cl = false → ∃ t, exec (.clusterRateWrite cl v false) s = .next t ∧ t.mem = s.mem ∧ t.threads = s.threads ∧
    (t.cluster cl).throttle = (s.cluster cl).throttle ∧ (t.cluster cl).cur = (s.cluster cl).cur ∧
    (if s.mgmt.govLive.toNat % 4 = 2 then (t.cluster cl).fstep = bits v.toNat 11 8 else t.cluster cl = s.cluster cl)) ∧
  (∀ (s : State) addr v m, mAddrOf addr.toNat = some m → (grants m).map (·.2) = some .rw →
    ∃ t, exec (.registerWrite addr v) s = .next t ∧ t.threads = s.threads ∧ t.gangs = s.gangs ∧
      ∀ cl n x C mask, cl < 18 → n < 16 → s.ctxs.get? x = some C → clusterOut s cl = false → (s.cluster cl).memoTable.length = 16 →
        (m, mask) ∈ fieldTable cl n x → (readReg t m).2 = v &&& mask) ∧
  (∀ (s : State) addr v, ((mAddrOf addr.toNat).bind fun m => (grants m).map (·.2)) ≠ some .rw → exec (.registerWrite addr v) s = .next s)

/-! ### The start -/

namespace Sys2Proof.Claims

/-- A start at which every unit passes (R249). -/
def allPass : StartTrial := ⟨true, [], [], [], [], true, true, [], [], [], [], [], []⟩

end Sys2Proof.Claims

/-- R249 to R251, R487, R499, R500: a start of a device all of whose units pass, with no usable record, leaves every unit ready,
the device as at reset with the link up, and a record with its DEVID and STARTS 1 that the next start may use; where the
identity fails the start stops, with nothing but the link ready, FAILSTEP bit 0 and a log entry; a step that hangs ends 2 s
later; while step CLUSTERS runs, the cores are in self-test mode (R368). It rests on choices of the model (logs 48 and 58). -/
def Obligations.TheStart : Prop :=
  (∀ s : State, s.sched.choices = [] → recordOk (startRecord s) = false → ∃ t, exec (.start allPass) s = .next t ∧
    t.mgmt.ready = [2 ^ 64 - 1, 2 ^ 50 - 1, 2 ^ 23 - 1] ∧ t.mgmt.startStatus = 0 ∧ t.mgmt.startStep = none ∧ t.mgmt.linkUp = true ∧
    t.mgmt.sliceMap = List.range 32 ∧ t.mgmt.channelMap = List.range 64 ∧ t.mgmt.clusterX = 0 ∧ t.mgmt.sliceX = 0 ∧ t.mgmt.channelX = 0 ∧
    t.mgmt.passThrough = [] ∧ t.mgmt.usable = 2 ^ 38 - 2 ^ 29 ∧ t.mgmt.errPending = [] ∧ t.mgmt.energy = s.mgmt.energy ∧
    t.threads = State.reset.threads ∧ t.gangs = State.reset.gangs ∧ t.teams = State.reset.teams ∧ t.grids = State.reset.grids ∧ t.clusters = [] ∧
    t.cores = [] ∧ t.ctxs = [] ∧ t.queues = [] ∧ t.clk = State.reset.clk ∧
    recordOk (startRecord t) = true ∧ byteField (startRecord t) 16 4 = 1 ∧ byteField (startRecord t) 20 2 = 0 ∧
    ∀ k, isDevice k = true ∨ isSram k = true ∨ isTile k = true → readCell k t.mem.cells = emptyByte) ∧
  (∀ s : State, s.sched.choices = [] → recordOk (startRecord s) = false → ∃ t, exec (.start { allPass with identOk := false }) s = .next t ∧
    t.mgmt.ready = [0, 0, 2 ^ 18] ∧ t.mgmt.startStatus = 1 ∧ t.mgmt.linkUp = true ∧ t.mgmt.errPending = [entryLogged 9 1 0 0 0 0] ∧
    recordOk (startRecord t) = false ∧ byteField (startRecord t) 20 2 = 1) ∧
  (∀ (s : State) h a r, s.mgmt.startStep = some (h, a) → s.mgmt.trial = some r →
    (s.clk.ao < a + 2 * 10 ^ 8 → exec .startStepTimeout s = .next s) ∧
    (a + 2 * 10 ^ 8 ≤ s.clk.ao → ∃ t, exec .startStepTimeout s = .next t ∧ t.mgmt.startStep = none ∧
      let b := runBoot r (Boot.ofRecord (startRecord s)) 0
      t.mgmt.ready = [b.w0, b.w1, b.w2] ∧ t.mgmt.coreX = b.coreX ∧ t.mgmt.unitX = b.unitX ∧ t.mgmt.clusterX = b.clusterX ∧
      t.mgmt.passThrough = b.passed ∧ t.mgmt.linkUp = bit b.w2 18 ∧ t.threads = s.threads ∧ ∀ e ∈ t.cores, e.2.selfTest = false)) ∧
  (∀ (s : State) l, s.sched.choices = 8 :: l → ∃ t, exec (.start allPass) s = .next t ∧ t.mgmt.startStep = some (8, 0) ∧
    ∀ c < 288, recordOk (startRecord s) = false → (t.core c).selfTest = true)

/-! ### Scaiq commands -/

namespace Sys2Proof.Claims

/-- A command is in progress with n request bytes at least, and the start has not stopped (R233, R234, R500). -/
structure InProgress (s : State) (i : Instr) (n : Nat) : Prop where
  busy : s.mgmt.mbxStatus.getLsbD 0 = true ∧ s.mgmt.command = i
  served : s.mgmt.startStatus = 0
  length : n ≤ bits s.mgmt.mbxCmd.toNat 47 32 ∧ bits s.mgmt.mbxCmd.toNat 47 32 ≤ 4096

/-- R233: the response bytes stand at OUT, and MBX.STATUS has SEQ, their number and the RESULT, with BUSY clear. -/
structure Answers (s : State) (result : Nat) (out : List Byte) (t : State) : Prop where
  stored : readCells t.mem.cells (mailKey 0x2000) out.length = out
  status : t.mgmt.mbxStatus = BitVec.ofNat 64 (bits s.mgmt.mbxCmd.toNat 63 48 * 2 ^ 48 + out.length * 2 ^ 32 + result * 2 ^ 16 +
    (if s.mgmt.mbxStatus.getLsbD 1 then 2 else 0))
  message : t.mgmt.msi = if s.mgmt.linkUp then s.mgmt.msi ++ [0] else s.mgmt.msi

/-- A command answers, and memory outside the mailbox, threads and gangs are as before. -/
structure AnswersOnly (s : State) (result : Nat) (out : List Byte) (t : State) : Prop extends Answers s result out t where
  mem : ∀ a, a < mailKey 0x2000 ∨ mailKey 0x2000 + out.length ≤ a → readCell a t.mem.cells = readCell a s.mem.cells
  threads : t.threads = s.threads
  gangs : t.gangs = s.gangs

/-- The commands of Table 9-6 with the bytes that their requests have at least. -/
def commandTable : List (Instr × Nat) :=
  [(.ctxCreate, 56), (.ctxDestroy, 8), (.queueCreate, 18), (.queueDestroy, 8), (.mapEntry, 25), (.mapInvalidate, 25), (.mapBankmode, 25), (.mapMemoTable, 33),
   (.codebook, 265), (.memoMode, 16), (.powerLimit, 32), (.health, 0), (.startRecordRead, 1), (.startRecordReplace, 257), (.preempt, 8), (.sensorWin, 24),
   (.peer, 32), (.paging, 24), (.errlog, 8), (.badopc, 0)]

/-- A context of the request exists. -/
def Known (s : State) (c : Nat) (C : Context) : Prop := c ≠ 0 ∧ s.req 0 8 = c ∧ s.ctxs.get? c = some C

/-- R233, R234, R500: a command that is not in progress does nothing; one whose request is too short or too long answers BADARG, one that a stopped start
does not serve DENIED, an unknown opcode BADOPC. -/
def CommandsAreChecked : Prop :=
  ∀ (s : State) i n, (i, n) ∈ commandTable →
    (s.mgmt.mbxStatus.getLsbD 0 = false ∨ s.mgmt.command ≠ i → exec i s = .next s) ∧
    (s.mgmt.mbxStatus.getLsbD 0 = true → s.mgmt.command = i → s.mgmt.startStatus = 0 →
      bits s.mgmt.mbxCmd.toNat 47 32 < n ∨ 4096 < bits s.mgmt.mbxCmd.toNat 47 32 → ∃ t, exec i s = .next t ∧ AnswersOnly s 2 [] t) ∧
    (s.mgmt.mbxStatus.getLsbD 0 = true → s.mgmt.command = i → s.mgmt.startStatus ≠ 0 → i ∉ [.health, .errlog, .startRecordRead, .startRecordReplace, .badopc] →
      ∃ t, exec i s = .next t ∧ AnswersOnly s 5 [] t) ∧
    (i = .badopc → InProgress s i 0 → ∃ t, exec i s = .next t ∧ AnswersOnly s 1 [] t)

/-- The descriptor as QUEUE_CREATE leaves it: the QID and the context are the device's, and both indices are zero (Table 6-1). -/
def keptDescriptor (d qid c : Nat) : List Byte :=
  bytesOfNat c 2 ++ bytesOfNat (bits d 31 16) 2 ++ bytesOfNat qid 2 ++ bytesOfNat (bits d 63 48) 2 ++ bytesOfNat (bits d 127 64) 8 ++ List.replicate 16 0

/-- R234, R235, R441, R136, R157, R249: contexts and queues are created under the lowest free number and destroyed; a queue's descriptor takes its QID and
context; a destruction and a drain keep the command in progress until they have ended, and a queue whose core may still become ready too; a
queue with a grid is in use. -/
def ContextAndQueueCommands : Prop :=
  (∀ (s : State) n, InProgress s .ctxCreate 56 → ctxArgsOk s = true → 1 ≤ n → n < 65536 → s.ctxs.get? n = none →
    (∀ k, 1 ≤ k → k < n → (s.ctxs.get? k).isSome = true) → ∃ t C, exec .ctxCreate s = .next t ∧ AnswersOnly s 0 (bytesOfNat n 2) t ∧
      t.ctxs = s.ctxs.set n C ∧ C.root = s.req 0 8 ∧ C.drainLimit = (if s.req 8 8 = 0 then 2 ^ 24 else s.req 8 8) ∧ C.pool = s.req 16 16 ∧
      C.saveArea = s.req 32 8 ∧ C.frameBase = s.req 40 8 ∧ C.freeFrames = List.range (s.req 48 8) ∧ C.pagingCtl = 0x0800 ∧ C.drain = none) ∧
  (∀ (s : State) c C, InProgress s .ctxDestroy 8 → Known s c C →
    (s.mgmt.cmdStarted = false → ctxBusy (beginDestroy s c) c = true → ∃ t, exec .ctxDestroy s = .next t ∧ t.mgmt.mbxStatus = s.mgmt.mbxStatus ∧
      t.mgmt.cmdStarted = true ∧ (∀ e ∈ t.queues, e.2.ctx ≠ c) ∧ (∀ e ∈ t.teams, e.1 ≠ 0 → (t.grids.get? e.2.grid).isSome = true → (t.grid e.2.grid).ctx ≠ c) ∧
      ∃ x k, t.mgmt.errPending = s.mgmt.errPending ++ x ++ [entryLogged 1 5 k c 0 0]) ∧
    (s.mgmt.cmdStarted = true → ctxBusy s c = true → exec .ctxDestroy s = .next s) ∧
    (s.mgmt.cmdStarted = true → ctxBusy s c = false → ∃ t, exec .ctxDestroy s = .next t ∧ AnswersOnly s 0 [] t ∧ t.ctxs = s.ctxs.del c ∧
      (∀ e ∈ t.structs, e.2.ctx ≠ c) ∧ (∀ e ∈ t.cores, ∀ x ∈ e.2.tlb, x.ctx ≠ c) ∧ ∀ w ∈ t.mgmt.sensor, w ≠ 0 → (windowOf w).ctx ≠ c)) ∧
  (∀ (s : State) c C, InProgress s .preempt 8 → Known s c C →
    (s.mgmt.cmdStarted = false → C.drain = none → ∃ t, exec .preempt s = .next t ∧ (t.ctx c).drain = some ⟨s.dist + C.drainLimit, [], true⟩ ∧
      t.mgmt.mbxStatus = s.mgmt.mbxStatus ∧ t.mgmt.cmdStarted = true ∧ t.mem = s.mem ∧ t.threads = s.threads) ∧
    (s.mgmt.cmdStarted = true → C.drain ≠ none → exec .preempt s = .next s) ∧
    (s.mgmt.cmdStarted = true → C.drain = none → ∃ t, exec .preempt s = .next t ∧ AnswersOnly s 0 [] t ∧ t.ctxs = s.ctxs)) ∧
  (∀ (s s1 : State) c C b n, InProgress s .queueCreate 18 → Known s c C → c < 2 ^ 16 → s.req 8 8 % 32 = 0 → devRead s c (s.req 8 8) 32 = (s1, some b) →
    let d := natOfBytes b
    descOk d = true → bits d 65 64 = 0 → bits d 71 70 < 3 → (s1.queues.filter fun e => e.2.ctx == c).length < 64 → n < 1024 → s1.queues.get? n = none →
    (∀ k < n, (s1.queues.get? k).isSome = true) → ∃ t Q, exec .queueCreate s = .next t ∧ Answers s 0 (bytesOfNat n 2) t ∧ t.queues = s1.queues.set n Q ∧
      Q.ctx = c ∧ Q.desc = s.req 8 8 ∧ Q.base = bits d 127 82 * 64 ∧ Q.log2n = bits d 81 77 ∧ Q.cls = bits d 71 70 ∧ Q.prio = bits d 69 66 ∧
      Q.opened = [] ∧ t.threads = s.threads ∧
      ∀ a, a < mailKey 0x2000 ∨ mailKey 0x2002 ≤ a →
        readCell a t.mem.cells = readCell a (devWrite s1 c (s.req 8 8) (keptDescriptor d n c)).1.mem.cells) ∧
  (∀ (s s1 : State) c C b, InProgress s .queueCreate 18 → Known s c C → s.req 8 8 % 32 = 0 → devRead s c (s.req 8 8) 32 = (s1, some b) →
    s.mgmt.cmdIn = s1.mgmt.cmdIn → let d := natOfBytes b
    descOk d = true → bits d 65 64 = 1 → bits d 71 70 < 3 → s.req 16 2 < 288 → coreReady s1 (s.req 16 2) = false →
    if s1.mgmt.startStep.isSome then exec .queueCreate s = .next s1 else ∃ t, exec .queueCreate s = .next t ∧ Answers s1 2 [] t ∧ t.queues = s1.queues) ∧
  (∀ s : State, InProgress s .queueDestroy 8 →
    ∃ t, exec .queueDestroy s = .next t ∧
      if (s.queues.get? (s.req 0 8)).isNone then AnswersOnly s 2 [] t ∧ t.queues = s.queues
      else if s.grids.any (fun e => holdsEntry e && e.2.qid == s.req 0 8) then AnswersOnly s 4 [] t ∧ t.queues = s.queues
      else AnswersOnly s 0 [] t ∧ t.queues = s.queues.del (s.req 0 8))

/-- R234, R61, R78, R84, R179, R231, R235, Table 9-6: MAP writes a table entry, once no permit translated through the old one is left, drops a range's
cached translations, sets bank modes and memo tables; CODEBOOK loads a code book; PAGING adds frames, PEER a peer device, and SENSOR_WIN sets
a window, whose object then expects FRAME bytes and advances where that brings it to zero; reserved bits that are set answer BADARG. -/
def MemoryCommands : Prop :=
  (∀ (s : State) c C, InProgress s .mapEntry 25 → Known s c C → s.req 8 1 = 0 → s.req 9 8 % 8 = 0 → s.req 9 8 < 2 ^ 48 →
    s.req 9 8 + 8 ≤ s.mgmt.usable →
    (bit (readNat s.mem.cells (s.req 9 8) 8) 0 = false ∨ s.ops = []) → ∃ t, exec .mapEntry s = .next t ∧ Answers s 0 [] t ∧
      Stored s.mem.cells t.mem.cells (s.req 9 8) (bytesOfNat (s.req 17 8) 8) ∧ t.threads = s.threads) ∧
  (∀ (s : State) c C id tm core src sh, InProgress s .mapEntry 25 → Known s c C → s.req 8 1 = 0 → s.req 9 8 % 8 = 0 → s.req 9 8 < 2 ^ 48 →
    readNat s.mem.cells (s.req 9 8) 8 % 4 = 1 → (∃ o, s.ops.get? id = some o ∧ o.ctx = c ∧ o.job = .push tm core src sh) → exec .mapEntry s = .next s) ∧
  (∀ (s : State) c C, InProgress s .mapInvalidate 25 → Known s c C → s.req 9 8 + s.req 17 8 ≤ 2 ^ 52 →
    ∃ t, exec .mapInvalidate s = .next t ∧ (∀ e ∈ t.cores, ∀ x ∈ e.2.tlb, x.ctx = c → x.va + x.size ≤ s.req 9 8 ∨ s.req 9 8 + s.req 17 8 ≤ x.va) ∧
      if (translatedOps s c).isEmpty ∧ ∀ e ∈ s.mgmt.peerStores, e.2.ctx ≠ c then AnswersOnly s 0 [] t else t.mgmt = s.mgmt ∧ t.mem = s.mem) ∧
  (∀ (s : State) c C, InProgress s .mapBankmode 25 → Known s c C → s.req 9 8 < 18 → clusterReady s (s.req 9 8) = true → ∃ t, exec .mapBankmode s = .next t ∧
    AnswersOnly s 0 [] t ∧ (t.cluster (s.req 9 8)).bankMode = BitVec.ofNat 64 (s.req 17 8) ∧
    t.sched.agenda = s.sched.agenda ++ (List.range 32).map fun b => .bankTransition (s.req 9 8) b) ∧
  (∀ (s : State) c C, InProgress s .mapMemoTable 33 → Known s c C → s.req 9 8 < 18 → s.req 17 8 < 16 → clusterReady s (s.req 9 8) = true →
    (s.cluster (s.req 9 8)).memoTable.length = 16 → let v := BitVec.ofNat 64 (s.req 25 8)
    if v &&& 0x7FFF000FFFFFFFFF = 0 then ∃ t, exec .mapMemoTable s = .next t ∧ AnswersOnly s 0 [] t ∧ nth (t.cluster (s.req 9 8)).memoTable (s.req 17 8) 0 = v
    else ∃ t, exec .mapMemoTable s = .next t ∧ AnswersOnly s 2 [] t ∧ t.clusters = s.clusters) ∧
  (∀ s : State, s.req 0 8 ≠ 0 → s.ctxs.get? (s.req 0 8) = none → (InProgress s .mapBankmode 25 → ∃ t, exec .mapBankmode s = .next t ∧ AnswersOnly s 2 [] t) ∧
    (InProgress s .mapMemoTable 33 → ∃ t, exec .mapMemoTable s = .next t ∧ AnswersOnly s 2 [] t)) ∧
  (∀ s : State, InProgress s .codebook 265 → s.req 0 8 < 8 → s.req 8 1 < 3 → (∀ i < 256, s.req (9 + i) 1 ≤ 15) →
    let lens := ((List.range 256).map fun i => s.req (9 + i) 1).take (bookSymbols (s.req 8 1))
    kraft lens ≤ 2 ^ 15 →
    if (s.ctxs.any fun e => e.2.booked.any fun b => b.2 == s.req 0 8) then ∃ t, exec .codebook s = .next t ∧ AnswersOnly s 4 [] t ∧ t.mgmt.codebooks = s.mgmt.codebooks
    else ∃ t, exec .codebook s = .next t ∧ AnswersOnly s 0 [] t ∧ t.mgmt.codebooks = s.mgmt.codebooks.set (s.req 0 8) ⟨s.req 8 1, lens⟩ ∧
      t.mem.blockCode = s.mem.blockCode) ∧
  (∀ (s : State) c C, InProgress s .paging 24 → Known s c C → C.frameBase + (C.frameCount + s.req 16 8) * 2 ^ 16 ≤ s.mgmt.usable →
    let v := BitVec.ofNat 64 (s.req 8 8)
    if v &&& 0xFFFF0000000000F0 = 0 then ∃ t, exec .paging s = .next t ∧ AnswersOnly s 0 [] t ∧ (t.ctx c).pagingCtl = v ∧
      (t.ctx c).frameCount = C.frameCount + s.req 16 8 ∧ (t.ctx c).freeFrames = C.freeFrames ++ (List.range (s.req 16 8)).map (C.frameCount + ·)
    else ∃ t, exec .paging s = .next t ∧ AnswersOnly s 2 [] t ∧ t.ctxs = s.ctxs) ∧
  (∀ (s : State) c C, InProgress s .peer 32 → Known s c C → s.req 8 8 < 16 → s.req 16 8 < 2 → ∃ t, exec .peer s = .next t ∧ AnswersOnly s 0 [] t ∧
    t.ctx c = { C with peers := C.peers.set (s.req 8 8) (s.req 16 8, s.req 24 8) }) ∧
  (∀ s : State, InProgress s .sensorWin 24 → s.req 0 8 < 16 → (windowOf (s.req 8 16)).cl < 18 →
    clusterReady s (windowOf (s.req 8 16)).cl = true → s.mgmt.sensor.length = 16 → let old := nth s.mgmt.sensor (s.req 0 8) 0
    let W := windowOf (s.req 8 16)
    if s.req 8 16 % 2 ^ 16 / 2 ≠ 0 ∨ (s.req 8 16 % 2 = 1 ∧ W.frame = 0)
      then ∃ t, exec .sensorWin s = .next t ∧ AnswersOnly s 2 [] t ∧ t.mgmt.sensor = s.mgmt.sensor
    else if bit old 0 ∧ old / 2 ≠ s.req 8 16 / 2 then ∃ t, exec .sensorWin s = .next t ∧ AnswersOnly s 4 [] t ∧ t.mgmt.sensor = s.mgmt.sensor
    else if s.req 8 16 % 2 = 0 then ∃ t, exec .sensorWin s = .next t ∧ AnswersOnly s 0 [] t ∧ nth t.mgmt.sensor (s.req 0 8) 0 = s.req 8 16
    else ∀ k, bit old 0 = false → scratchKey (s.cluster W.cl) W.cl W.obj = some k → (readBobj s k).bytes + W.frame < 2 ^ 31 →
      (readBobj s k).arrive ≠ 0 ∨ (readBobj s k).bytes + W.frame ≠ 0 → ∃ t, exec .sensorWin s = .next t ∧ Answers s 0 [] t ∧
        nth t.mgmt.sensor (s.req 0 8) 0 = s.req 8 16 ∧ readBobj t k = { readBobj s k with bytes := (readBobj s k).bytes + W.frame }) ∧
  (∀ (s : State) k, InProgress s .sensorWin 24 → s.req 0 8 < 16 → s.mgmt.sensor = List.replicate 16 0 → s.req 8 16 % 2 ^ 16 = 1 →
    let W := windowOf (s.req 8 16)
    W.cl < 18 → clusterReady s W.cl = true → W.frame ≠ 0 → scratchKey (s.cluster W.cl) W.cl W.obj = some k → (readBobj s k).arrive = 0 →
    (readBobj s k).bytes + W.frame = 0 → ∃ t, exec .sensorWin s = .next t ∧ Answers s 0 [] t ∧
      readBobj t k = { readBobj s k with bytes := W.frame, arrive := (readBobj s k).expect, phase := !(readBobj s k).phase })

/-- R187, R246, R250, R251, R485, R501: MEMO_MODE sets a context's mode and answers the audit counters, which it clears; POWER_LIMIT sets the governor's registers; HEALTH
answers the device's state, ERRLOG up to 64 entries of the log; START_RECORD answers or replaces the record, all but its DEVID. -/
def DeviceCommands : Prop :=
  (∀ (s : State) c C, InProgress s .memoMode 16 → Known s c C → (∀ cl < 18, clusterOut s cl = false) → let v := BitVec.ofNat 64 (s.req 8 8)
    if v &&& 0xFFFF0000FFFFFFFC = 0 then
      ∃ t, exec .memoMode s = .next t ∧ AnswersOnly s 0 ((List.range 18).flatMap fun cl => bytesOfNat (auditWord (s.cluster cl).audit).toNat 8) t ∧
        (t.ctx c).memoMode = v ∧ ∀ cl < 18, (t.cluster cl).audit = ⟨0, 0, 0⟩
    else ∃ t, exec .memoMode s = .next t ∧ AnswersOnly s 2 [] t ∧ t.ctxs = s.ctxs ∧ t.clusters = s.clusters) ∧
  (∀ s : State, InProgress s .powerLimit 32 → ∃ t, exec .powerLimit s = .next t ∧
    if 320 ≤ s.req 0 8 ∧ s.req 0 8 ≤ 600 ∧ s.req 8 8 ≤ 3 ∧ s.req 16 8 < 2 ^ 24 ∧ s.req 24 8 < 2 ^ 16
    then AnswersOnly s 0 [] t ∧ bits t.mgmt.govCtl.toNat 57 48 = s.req 0 8 ∧ bits t.mgmt.govCtl.toNat 47 32 = bits s.mgmt.govCtl.toNat 47 32 ∧
      bits t.mgmt.govCtl.toNat 1 0 = s.req 8 8 ∧ t.mgmt.govFrame.toNat = s.req 24 8 * 2 ^ 32 + s.req 16 8
    else AnswersOnly s 2 [] t ∧ t.mgmt.govCtl = s.mgmt.govCtl ∧ t.mgmt.govFrame = s.mgmt.govFrame) ∧
  (∀ s : State, InProgress s .health 0 → ∃ t l, exec .health s = .next t ∧ AnswersOnly s 0 l t ∧ l.length = 104 ∧
    (∀ i < 3, byteField l (8 * i) 8 = nth s.mgmt.ready i 0 % 2 ^ 64) ∧ byteField l 24 8 = s.mgmt.energy % 2 ^ 40 ∧
    (∀ n < 19, byteField l (32 + 2 * n) 2 = if n < 18 ∧ clusterOut s n = true then 0 else nth s.mgmt.temps n 0 % 2 ^ 16) ∧ byteField l 80 8 = s.mgmt.errWidx % 2 ^ 64 ∧
    byteField l 88 8 = s.mgmt.ceCount % 2 ^ 64 ∧ byteField l 96 2 = min 0xFFFF s.mgmt.emergCnt ∧ byteField l 98 2 = byteField (startRecord s) 20 2) ∧
  (∀ s : State, InProgress s .errlog 8 →
    let f := max (s.req 0 8) (s.mgmt.errWidx - 1024)
    ∃ t, exec .errlog s = .next t ∧ AnswersOnly s 0 (bytesOfNat f 8 ++ (List.range (min 64 (s.mgmt.errWidx - f))).flatMap fun i =>
      readCells s.mem.cells (mgmtKey (0x8000 + 32 * ((f + i) % 1024))) 32) t ∧ t.mgmt.errWidx = s.mgmt.errWidx) ∧
  (∀ s : State, InProgress s .startRecordRead 1 → s.req 0 1 = 0 → ∃ t, exec .startRecordRead s = .next t ∧ AnswersOnly s 0 (startRecord s) t) ∧
  (∀ s : State, InProgress s .startRecordReplace 257 → s.mgmt.startStep = none → s.mgmt.cmdIn.length = 257 → ∃ t, exec .startRecordReplace s = .next t ∧
    Answers s 0 [] t ∧ Stored s.mem.cells t.mem.cells (startKey 16) (s.mgmt.cmdIn.drop 17) ∧ t.threads = s.threads ∧
    (startRecord t).take 16 = (startRecord s).take 16)

end Sys2Proof.Claims

/-- R233, R234, R500: a command that is not in progress does nothing; one whose request is too short or too long answers BADARG,
one that a stopped start does not serve DENIED, an unknown opcode BADOPC. R234, R235, R441, R136, R157: contexts and queues are
created under the lowest free number and destroyed; a queue's descriptor takes its QID and context; a destruction and a drain
keep the command in progress until they have ended, and a queue whose core may still become ready too; a queue with a grid is in
use. R234, R61, R78, R84, R179, R231, R235, Table 9-6: MAP writes a table entry, once no permit translated through the old one
is left, drops a range's cached translations, sets bank modes and memo tables; CODEBOOK loads a code book; PAGING adds frames,
PEER a peer device, and SENSOR_WIN sets a window, whose object then expects FRAME bytes and advances where that brings it to
zero; reserved bits that are set answer BADARG. R187, R246, R250, R251, R485, R501: MEMO_MODE sets a context's mode and answers the audit counters,
which it clears; POWER_LIMIT sets the governor's registers; HEALTH answers the device's state, ERRLOG up to 64 entries of the
log; START_RECORD answers or replaces the record, all but its DEVID. It rests on choices of the model (logs 9, 45, 46, 47 and
58). -/
def Obligations.MailboxCommands : Prop :=
  Claims.CommandsAreChecked ∧ Claims.ContextAndQueueCommands ∧ Claims.MemoryCommands ∧ Claims.DeviceCommands

/-! ### Encodings, reset and completion -/

namespace Sys2Proof.Claims

/-- Instruction words that the spec writes out (examples after R273, R288, R298, R309, R314, R334, R360 and R369, the words of R318, R319
and R370, and the examples of Table 15-1 and R395), with what each encodes. -/
def specWords : List (Nat × Nat × Instr) :=
  [ (16, 0x1020, .add16 ⟨2, 1⟩), (16, 0x9A6A, .guardPrefix true 3), (32, 0x01A14447, .mulF ⟨.f32, .none, 6, .last, 5, 4⟩),
    (32, 0x34380853, .cmpS ⟨3, .lt, 7, .none, 1, .none, false⟩), (32, 0xFFFC0D63, .bra ⟨0x1FFF8, false, 3, .likely⟩), (32, 0x00000AA3, .exit),
    (32, 0x0040425D, .sqrt ⟨.f32, .none, 1, 2⟩), (32, 0x02210069, .jwait ⟨2, 1⟩), (32, 0x0901058D, .ldN32 ⟨2, .acq, .gl, .none, 4, 5⟩),
    (32, 0x0141089D, .ldrl ⟨.gl, .none, 5, .none, 4, 2⟩), (32, 0x000001A3, .fenceAcq), (32, 0x000002A3, .fenceRel), (32, 0x000003A3, .fenceAr),
    (32, 0x000004A3, .bar), (32, 0x000005A3, .barG), (32, 0x000006A3, .yield), (32, 0x000042A5, .trap 0x42), (32, 0x000007A3, .tret),
    (32, 0x190813D5, .mmaFa ⟨false, .e4m3, 1, .none, 8, 1, 3⟩), (32, 0x020402BF, .talloc ⟨true, .none, 4, 2⟩),
    (32, 0x010635D1, .scaleacc ⟨false, .rn, false, false, true, .none, 6, 3, 5⟩), (32, 0x020042DD, .edge ⟨.none, 8, .none, 1, 2⟩),
    (32, 0x800005E9, .rqstep 5), (32, 0x004300E5, .exportOp ⟨1, .none, 12⟩), (32, 0x000008A3, .discard), (32, 0x000009A3, .pend),
    (32, 0x0000F2F3, .pureOp ⟨15, 2⟩), (32, 0x074100F5, .mkey ⟨.f32x2, 5, .none, 4⟩), (32, 0x040240F7, .mexcl ⟨.f32, .none, 9⟩),
    (32, 0x008006F9, .mprobe ⟨0, 2, 3⟩), (32, 0x008180FB, .mstore ⟨0, 2, .none, 3⟩) ]

/-- A 32-bit word from its fields, each a value and the bit at which it stands, with major m (R259, Table 11-2). -/
def fieldWord (m : Nat) (l : List (Nat × Nat)) : Nat := l.foldl (fun w f => w + f.1 * 2 ^ f.2) (1 + 2 * m)

/-- Words of the other families, written field by field in the formats of Table 11-2 from Tables 11-6, 14-6 and 15-1. -/
def builtWords : List (Nat × Instr) :=
  [ -- sub.s32 g5, g7, g9 (A)
    (fieldWord 0x02 [(2, 30), (9, 22), (7, 14), (5, 8)], .sub ⟨.w32, .none, 9, .none, 7, 5⟩),
    -- popc of 64 bits, A with hint last (U)
    (fieldWord 0x1B [(3 * 4 + 0, 22), (2, 20), (6, 14), (3, 8)], .popc ⟨.w64, .last, 6, 3⟩),
    -- add with immediate −1 (I), a right shift by 5 of 16-bit elements (U), movk of halfword 2 (L)
    (fieldWord 0x1C [(0x3FF, 22), (1, 14), (2, 8)], .addImm ⟨0x3FF, .none, 1, 2⟩),
    (fieldWord 0x1E [(1, 30), (1, 28), (5, 22), (4, 14), (3, 8)], .shrImm ⟨.w16, 5, .none, 4, 3⟩),
    (fieldWord 0x20 [(0xBEEF, 16), (2, 14), (9, 8)], .movk ⟨0xBEEF, 2, 9⟩),
    -- cvt to f16 from s32 (U), lpow (A), plop (P), call (C)
    (fieldWord 0x2D [(8, 27), (2, 22), (4, 14), (3, 8)], .cvt ⟨.f16, .s32, .none, 4, 3⟩),
    (fieldWord 0x2F [(2, 30), (9, 22), (7, 14), (5, 8)], .lpow ⟨.none, 9, .none, 7, 5⟩),
    (fieldWord 0x30 [(0xE8, 24), (4, 20), (3, 16), (2, 12), (1, 8)], .plop ⟨0xE8, 4, 3, 2, 1⟩),
    (fieldWord 0x32 [(0x3FFF0, 14), (6, 8)], .call ⟨0x3FFF0, 6⟩),
    -- shfli.down of 32-bit elements by 3 (U), reduce.max of n16 (U), ballot (U), xmov w4, g7 (U)
    (fieldWord 0x36 [(2, 30), (2, 28), (3, 22), (7, 14), (5, 8)], .shfliDown ⟨.w32, 3, .none, 7, 5⟩),
    (fieldWord 0x3B [(2, 30), (5, 22), (7, 14), (5, 8)], .reduceMax ⟨.n16, .none, 7, 5⟩),
    (fieldWord 0x39 [(6, 22), (5, 8)], .ballot ⟨6, 5⟩),
    (fieldWord 0x3C [(1, 22), (7, 14), (4, 8)], .xmovW ⟨.none, 7, 4⟩),
    -- mul of w registers (A), a fill store to local memory at 8 × (−2) (N), atom.cas with both orders (V)
    (fieldWord 0x3E [(3, 30), (3, 22), (2, 14), (1, 8)], .mulU ⟨.none, 3, .none, 2, 1⟩),
    (fieldWord 0x4C [(0xE, 28), (2, 26), (1, 22), (4, 14), (5, 8)], .stB64 ⟨0xE, .fill, .none, .lo, .none, 4, 5⟩),
    (fieldWord 0x4F [(3, 30), (1, 29), (1, 28), (10, 24), (8, 16), (6, 8)], .atom ⟨.ar, .lo, true, .cas, .none, 8, .none, 6⟩),
    -- waita.eq (A), bobj.expect (A), pop of three registers (F)
    (fieldWord 0x54 [(2, 30), (9, 22), (7, 14), (5, 8)], .waitaEq ⟨.none, 9, .none, 7, 5⟩),
    (fieldWord 0x53 [(1, 30), (9, 22), (7, 14), (5, 8)], .bobjExpect ⟨.none, 9, .none, 7, 5⟩),
    (fieldWord 0x56 [(2, 25), (1, 20), (4, 16), (8, 8)], .pop ⟨2, 1, 4, .none, 8⟩),
    -- qpost of g16 to g23 (A), copy on set flag B (U), smov of sr.clk (U), mwr (A)
    (fieldWord 0x57 [(16, 22), (7, 14), (5, 8)], .qpost ⟨.none, 2, .none, 7, 5⟩),
    (fieldWord 0x58 [(0x200, 22), (8, 14)], .copy ⟨true, .none, 1⟩),
    (fieldWord 0x5B [(12, 22), (5, 8)], .smov ⟨12, 5⟩),
    (fieldWord 0x5D [(9, 22), (7, 14)], .mwr ⟨.none, 9, .none, 7⟩),
    -- tst to local memory (T), tdrain.peer (T), mma 8-of-32 (Q)
    (fieldWord 0x64 [(1, 25), (1, 24), (7, 16), (5, 8)], .tst ⟨.lo, true, .none, 7, 5⟩),
    (fieldWord 0x69 [(1, 25), (7, 16), (3, 12)], .tdrainPeer ⟨false, .none, 7, 3⟩),
    (fieldWord 0x6D [(16 + 8, 27), (2, 24), (8, 16), (4, 12), (6, 8)], .mmaSp8Fb ⟨.int8, 2, .none, 8, 4, 6⟩),
    -- interp.lin (A), imst (A), infq (A), rqreport (A), gunpin (A)
    (fieldWord 0x6F [(1, 30), (12, 22), (7, 14), (5, 8)], .interpLin ⟨.none, 12, .none, 7, 5⟩),
    (fieldWord 0x71 [(3, 30), (9, 22), (6, 14), (4, 8)], .imst ⟨.none, 9, .none, 6, 4⟩),
    (fieldWord 0x73 [(1, 30), (9, 22), (7, 14), (5, 8)], .infq ⟨true, .none, 9, .none, 7, 5⟩),
    (fieldWord 0x75 [(2, 30), (9, 22), (7, 14), (5, 8)], .rqreport ⟨.none, 9, .none, 7, 5⟩),
    (fieldWord 0x78 [(1, 30), (9, 22), (7, 14)], .gunpin ⟨.none, 9, .none, 7⟩) ]

/-- Tables 3-2, 3-3, 3-8, 7-6, 7-9, 8-1, 9-4, 10-3 to 10-6, 10-8 and 21-4: registers of the management address map with the reset values
that the tables give, for cluster cl, context x, memo table n and window n. -/
def resetTable (cl n x : Nat) : List (MAddr × Word) :=
  [ (⟨1, cl, 0⟩, 0), (⟨1, cl, 1⟩, 0), (⟨1, cl, 2⟩, 0x0F22), (⟨1, cl, 3⟩, 0x00040010), (⟨1, cl, 16 + n⟩, 0), (⟨1, cl, 33⟩, 0), (⟨1, cl, 34⟩, 0),
    (⟨1, cl, 35⟩, 0), (⟨2, x, 0⟩, 0x800), (⟨2, x, 1⟩, 0x0000001000000000), (⟨2, x, 3⟩, 0), (⟨2, x, 4⟩, 0), (⟨2, x, 5⟩, 0),
    (⟨3, 0, 0⟩, 0x01E0020000000000), (⟨3, 0, 1⟩, 0), (⟨3, 0, 2⟩, 0), (⟨3, 0, 3⟩, 0), (⟨3, 0, 4⟩, 0), (⟨3, 0, 5⟩, 0), (⟨3, 0, 6⟩, 0),
    (⟨4, n, 0⟩, 0), (⟨4, n, 1⟩, 0), (⟨5, 0x3F, 0⟩, 0x01B80160017C), (⟨5, 0x3F, 2⟩, 0), (⟨5, 0x3F, 3⟩, 0) ]

end Sys2Proof.Claims

/-- R253, R257, R259, R260, R267 (Tables 11-2, 11-6, 11-7, 14-6, 15-1): an instruction that is well formed has an encoding, of the
length that its first bit says, and the decoder reads that instruction from it with every operand as it was, and leaves the bytes
that follow. -/
def Obligations.DecodingInvertsEncoding : Prop :=
  ∀ (i : Instr) (rest : List Byte), i.encoded = true → i.wellFormed = true →
    ∃ e, encode i = some e ∧ e.len = i.len ∧ lengthOf (e.w % 2 ^ 16) = e.len ∧ e.w < 2 ^ (8 * e.len) ∧
      decodeBytes (leBytes e.len e.w ++ rest) = some (i, rest)

/-- R259, R266: the decoder refuses every word that no well-formed instruction encodes: what it reads is well formed, and its encoding is the bytes
that it was read from, so that no unused field, reserved code or misaligned group is passed over. -/
def Obligations.DecodedBytesAreTheEncoding : Prop :=
  ∀ (bs rest : List Byte) (i : Instr), decodeBytes bs = some (i, rest) →
    i.encoded = true ∧ i.wellFormed = true ∧ ∃ e, encode i = some e ∧ bs = leBytes e.len e.w ++ rest

/-- R253, R259, R267: the words that the spec writes out, and words of the other families built from their fields, decode to the
instructions that they stand for. -/
def Obligations.WrittenWordsDecode : Prop :=
  (∀ e ∈ specWords, decodeTableWord e.1 e.2.1 = some e.2.2) ∧ ∀ e ∈ builtWords, decodeTableWord 32 e.1 = some e.2

/-- R9, R26, R40, R46, R49, R233, R236, R241, R247, R250, R486 and the reset columns of the tables: after reset the registers read as their tables give;
every bank is in cache mode, no bank queue, barrier, tile, team, queue or context stands, the mailbox is idle, no link is up, p15 of the
management core's thread is true, and every router port has the slot table of R241. That memory lists nothing and that the management
thread's registers are 0 is the model's choice (DESIGN CHOICE, logs 1 and 2). -/
def Obligations.ResetState : Prop :=
  (∀ cl n x a v, cl < 18 → n < 16 → x < 2 ^ 12 → (a, v) ∈ resetTable cl n x → (readReg State.reset a).2 = v) ∧
  (∀ cl b, cl < 18 → b < 32 → nth (State.reset.cluster cl).banks b ⟨9, none⟩ = ⟨0, none⟩) ∧
  State.reset.mem.cells = [] ∧ memoryWf State.reset ∧ State.reset.mem.poison = [] ∧ State.reset.mem.full = [] ∧
  State.reset.pr 0 15 = true ∧ (State.reset.thread 0).run = .ready ∧ (State.reset.thread 0).entered = [] ∧
  (∀ r < 64, State.reset.gr 0 r = 0) ∧ (∀ r < 32, vget (State.reset.gang 0).w r 0 = 0) ∧
  (∀ n < 12, vget (State.reset.thread 0).f n 0 = 0) ∧ (∀ n < 8, (joinOf State.reset 0 n).st = .idle) ∧
  State.reset.tiles = [] ∧ State.reset.queues = [] ∧ State.reset.ctxs = [] ∧ State.reset.insts = [] ∧ State.reset.ops = [] ∧
  State.reset.mgmt.mbxCmd = 0 ∧ State.reset.mgmt.mbxStatus = 0 ∧ State.reset.mgmt.linkUp = false ∧ State.reset.mgmt.energy = 0 ∧
  (∀ k < 320, nth State.reset.mgmt.slotTable k [] = Mgmt.startSlots) ∧
  State.reset.clk.stopped = none ∧ State.reset.clk.shut = false ∧ State.reset.grp = Group.empty

/-- Every instruction and every step of another agent answers a next state, but for a bank transition of a cluster or bank that
the device does not have; and so does every step of the machine whose agenda names no such transition. It rests on choices of
the model (log 23). -/
def Obligations.EveryInstructionAnswers : Prop :=
  (∀ i s, (∀ cl b, i = .bankTransition cl b → cl < 18 ∧ b < 32) → ∃ t, exec i s = .next t) ∧
  (∀ cl b s, ¬(cl < 18 ∧ b < 32) → exec (.bankTransition cl b) s = .fault .noSuchUnit) ∧
  ∀ s, (∀ cl b rest, s.sched.agenda = .bankTransition cl b :: rest → cl < 18 ∧ b < 32) → stepsOn s

namespace Sys2Proof.Claims

/-- Loads, stores and atomics (majors 0x41 to 0x50), their late performance, and the host's and peers' accesses. -/
def accessesMemory : Instr → Bool
  | .ldS8 _ | .ldN8 _ | .ldS16 _ | .ldN16 _ | .ldS32 _ | .ldN32 _ | .ldB64 _ | .ldq _ | .ldrl _ => true
  | .stB8 _ | .stB16 _ | .stB32 _ | .stB64 _ | .stq _ | .atom _ | .ared _ => true
  | .memoryAccessPerformed _ | .hostWrite _ _ _ | .hostRead _ _ | .hostAtomic _ _ _ _ | .hostSnoop _ _ => true
  | _ => false

end Sys2Proof.Claims

/-- Every load, store and atomic of threads, its late performance, and every access of the host keeps the canonical form of memory, whatever
it translates, pages in, traps or logs, so that equal memories stay equal data. -/
def Obligations.MemoryStaysCanonical : Prop :=
  ∀ (i : Instr) (s t : State), accessesMemory i = true → memoryWf s → exec i s = .next t → memoryWf t
end

