-- ==== Sys2Proof/Laws/Tab.lean ====
section
/-! SUPPORT. Laws of tables of records by number: what is listed after a record is set, unlisted or changed. -/

namespace Sys2Proof.Machine

variable {α : Type}

@[simp] theorem Tab.get?_nil (k : Nat) : Tab.get? k ([] : Tab α) = none := rfl

theorem Tab.get?_cons (k k' : Nat) (v : α) (t : Tab α) :
    Tab.get? k ((k', v) :: t) = if k' = k then some v else Tab.get? k t := rfl

@[simp] theorem Tab.get?_set_self (k : Nat) (v : α) (t : Tab α) : Tab.get? k (Tab.set k v t) = some v := by
  induction t with
  | nil => simp [Tab.set, Tab.get?]
  | cons e t ih =>
    obtain ⟨k', v'⟩ := e
    simp only [Tab.set]
    split
    · simp [Tab.get?]
    · split
      · simp [Tab.get?]
      · simp [Tab.get?_cons, *]

theorem Tab.get?_set_ne {k j : Nat} (h : j ≠ k) (v : α) (t : Tab α) : Tab.get? j (Tab.set k v t) = Tab.get? j t := by
  induction t with
  | nil => simp [Tab.set, Tab.get?, Ne.symm h]
  | cons e t ih =>
    obtain ⟨k', v'⟩ := e
    simp only [Tab.set]
    split
    · simp [Tab.get?_cons, Ne.symm h]
    · split
      · subst_vars; simp [Tab.get?_cons, Ne.symm h]
      · simp [Tab.get?_cons, ih]

/-- What is listed under any number after one record is set. -/
theorem Tab.get?_set (j k : Nat) (v : α) (t : Tab α) :
    Tab.get? j (Tab.set k v t) = if j = k then some v else Tab.get? j t := by
  by_cases h : j = k
  · subst h; simp
  · simp [h, Tab.get?_set_ne h]

theorem Tab.get?_del (j k : Nat) (t : Tab α) : Tab.get? j (Tab.del k t) = if j = k then none else Tab.get? j t := by
  induction t with
  | nil => simp [Tab.del]
  | cons e t ih =>
    obtain ⟨k', v'⟩ := e
    unfold Tab.del at ih ⊢
    by_cases h : k' = k
    · subst h
      rw [List.filter_cons]
      simp only [bne_self_eq_false, Bool.false_eq_true, if_false, ih, Tab.get?_cons]
      by_cases hj : j = k' <;> simp [hj, eq_comm]
    · have hb : (k' != k) = true := by simpa using h
      rw [List.filter_cons]
      simp only [hb, if_true, Tab.get?_cons, ih]
      by_cases hj : j = k
      · subst hj; simp [h]
      · simp [hj]

/-- Changing the records of some numbers in place. -/
theorem Tab.get?_map (j : Nat) (f : Nat → α → α) (t : Tab α) :
    Tab.get? j (t.map fun e => (e.1, f e.1 e.2)) = (Tab.get? j t).map (f j) := by
  induction t with
  | nil => rfl
  | cons e t ih =>
    obtain ⟨k', v'⟩ := e
    simp only [List.map_cons, Tab.get?_cons, ih]
    split
    · subst_vars; rfl
    · rfl

theorem Tab.getD_set (j k : Nat) (v d : α) (t : Tab α) : (Tab.set k v t).getD j d = if j = k then v else t.getD j d := by
  unfold Tab.getD
  rw [Tab.get?_set]
  split <;> simp

@[simp] theorem Tab.getD_set_self (k : Nat) (v d : α) (t : Tab α) : (Tab.set k v t).getD k d = v := by
  simp [Tab.getD_set]

theorem Tab.getD_of_get? {t : Tab α} {k : Nat} {v d : α} (h : t.get? k = some v) : t.getD k d = v := by
  simp [Tab.getD, h]

/-! ### List helpers -/

@[simp] theorem nth_set_self {l : List α} {n : Nat} (v d : α) (h : n < l.length) : nth (l.set n v) n d = v := by
  simp [nth, h]

theorem nth_set_ne {l : List α} {m n : Nat} (v d : α) (h : m ≠ n) : nth (l.set n v) m d = nth l m d := by
  simp [nth, Ne.symm h]

@[simp] theorem vget_vset_self {m : Nat} {v : Vector α m} {n : Nat} (x d : α) (h : n < m) : vget (vset v n x) n d = x := by
  simp [vget, vset, h]

theorem vget_vset_ne {m : Nat} {v : Vector α m} {k n : Nat} (x d : α) (h : k ≠ n) : vget (vset v n x) k d = vget v k d := by
  simp [vget, vset, Ne.symm h]

theorem mem_dedup [BEq α] [LawfulBEq α] (x : α) (l : List α) : x ∈ dedup l ↔ x ∈ l := by
  induction l with
  | nil => simp [dedup]
  | cons y ys ih =>
    simp only [dedup, List.mem_cons, List.mem_filter, ih]
    by_cases h : x = y <;> simp [h]

end Sys2Proof.Machine
end

