-- ==== Sys2Proof/Laws/State.lean ====
section
/-! SUPPORT. One lemma per field and per update of the state, so that no proof unfolds a record update, and what the
lookups of threads, gangs and the other objects give after an update. -/

namespace Sys2Proof.Machine.State

/-! ### setCluster -/

@[simp] theorem setCluster_mem (s : State) (k : Nat) (v : Cluster) : (s.setCluster k v).mem = s.mem := rfl
@[simp] theorem setCluster_clk (s : State) (k : Nat) (v : Cluster) : (s.setCluster k v).clk = s.clk := rfl
@[simp] theorem setCluster_clusters (s : State) (k : Nat) (v : Cluster) : (s.setCluster k v).clusters = s.clusters.set k v := rfl
@[simp] theorem setCluster_cores (s : State) (k : Nat) (v : Cluster) : (s.setCluster k v).cores = s.cores := rfl
@[simp] theorem setCluster_threads (s : State) (k : Nat) (v : Cluster) : (s.setCluster k v).threads = s.threads := rfl
@[simp] theorem setCluster_gangs (s : State) (k : Nat) (v : Cluster) : (s.setCluster k v).gangs = s.gangs := rfl
@[simp] theorem setCluster_teams (s : State) (k : Nat) (v : Cluster) : (s.setCluster k v).teams = s.teams := rfl
@[simp] theorem setCluster_grids (s : State) (k : Nat) (v : Cluster) : (s.setCluster k v).grids = s.grids := rfl
@[simp] theorem setCluster_tiles (s : State) (k : Nat) (v : Cluster) : (s.setCluster k v).tiles = s.tiles := rfl
@[simp] theorem setCluster_ops (s : State) (k : Nat) (v : Cluster) : (s.setCluster k v).ops = s.ops := rfl
@[simp] theorem setCluster_accs (s : State) (k : Nat) (v : Cluster) : (s.setCluster k v).accs = s.accs := rfl
@[simp] theorem setCluster_ctxs (s : State) (k : Nat) (v : Cluster) : (s.setCluster k v).ctxs = s.ctxs := rfl
@[simp] theorem setCluster_queues (s : State) (k : Nat) (v : Cluster) : (s.setCluster k v).queues = s.queues := rfl
@[simp] theorem setCluster_insts (s : State) (k : Nat) (v : Cluster) : (s.setCluster k v).insts = s.insts := rfl
@[simp] theorem setCluster_frames (s : State) (k : Nat) (v : Cluster) : (s.setCluster k v).frames = s.frames := rfl
@[simp] theorem setCluster_structs (s : State) (k : Nat) (v : Cluster) : (s.setCluster k v).structs = s.structs := rfl
@[simp] theorem setCluster_mgmt (s : State) (k : Nat) (v : Cluster) : (s.setCluster k v).mgmt = s.mgmt := rfl
@[simp] theorem setCluster_grp (s : State) (k : Nat) (v : Cluster) : (s.setCluster k v).grp = s.grp := rfl
@[simp] theorem setCluster_grp2 (s : State) (k : Nat) (v : Cluster) : (s.setCluster k v).grp2 = s.grp2 := rfl
@[simp] theorem setCluster_sched (s : State) (k : Nat) (v : Cluster) : (s.setCluster k v).sched = s.sched := rfl

/-! ### setCore -/

@[simp] theorem setCore_mem (s : State) (k : Nat) (v : Core) : (s.setCore k v).mem = s.mem := rfl
@[simp] theorem setCore_clk (s : State) (k : Nat) (v : Core) : (s.setCore k v).clk = s.clk := rfl
@[simp] theorem setCore_clusters (s : State) (k : Nat) (v : Core) : (s.setCore k v).clusters = s.clusters := rfl
@[simp] theorem setCore_cores (s : State) (k : Nat) (v : Core) : (s.setCore k v).cores = s.cores.set k v := rfl
@[simp] theorem setCore_threads (s : State) (k : Nat) (v : Core) : (s.setCore k v).threads = s.threads := rfl
@[simp] theorem setCore_gangs (s : State) (k : Nat) (v : Core) : (s.setCore k v).gangs = s.gangs := rfl
@[simp] theorem setCore_teams (s : State) (k : Nat) (v : Core) : (s.setCore k v).teams = s.teams := rfl
@[simp] theorem setCore_grids (s : State) (k : Nat) (v : Core) : (s.setCore k v).grids = s.grids := rfl
@[simp] theorem setCore_tiles (s : State) (k : Nat) (v : Core) : (s.setCore k v).tiles = s.tiles := rfl
@[simp] theorem setCore_ops (s : State) (k : Nat) (v : Core) : (s.setCore k v).ops = s.ops := rfl
@[simp] theorem setCore_accs (s : State) (k : Nat) (v : Core) : (s.setCore k v).accs = s.accs := rfl
@[simp] theorem setCore_ctxs (s : State) (k : Nat) (v : Core) : (s.setCore k v).ctxs = s.ctxs := rfl
@[simp] theorem setCore_queues (s : State) (k : Nat) (v : Core) : (s.setCore k v).queues = s.queues := rfl
@[simp] theorem setCore_insts (s : State) (k : Nat) (v : Core) : (s.setCore k v).insts = s.insts := rfl
@[simp] theorem setCore_frames (s : State) (k : Nat) (v : Core) : (s.setCore k v).frames = s.frames := rfl
@[simp] theorem setCore_structs (s : State) (k : Nat) (v : Core) : (s.setCore k v).structs = s.structs := rfl
@[simp] theorem setCore_mgmt (s : State) (k : Nat) (v : Core) : (s.setCore k v).mgmt = s.mgmt := rfl
@[simp] theorem setCore_grp (s : State) (k : Nat) (v : Core) : (s.setCore k v).grp = s.grp := rfl
@[simp] theorem setCore_grp2 (s : State) (k : Nat) (v : Core) : (s.setCore k v).grp2 = s.grp2 := rfl
@[simp] theorem setCore_sched (s : State) (k : Nat) (v : Core) : (s.setCore k v).sched = s.sched := rfl

/-! ### setThread -/

@[simp] theorem setThread_mem (s : State) (k : Nat) (v : Thread) : (s.setThread k v).mem = s.mem := rfl
@[simp] theorem setThread_clk (s : State) (k : Nat) (v : Thread) : (s.setThread k v).clk = s.clk := rfl
@[simp] theorem setThread_clusters (s : State) (k : Nat) (v : Thread) : (s.setThread k v).clusters = s.clusters := rfl
@[simp] theorem setThread_cores (s : State) (k : Nat) (v : Thread) : (s.setThread k v).cores = s.cores := rfl
@[simp] theorem setThread_threads (s : State) (k : Nat) (v : Thread) : (s.setThread k v).threads = s.threads.set k v := rfl
@[simp] theorem setThread_gangs (s : State) (k : Nat) (v : Thread) : (s.setThread k v).gangs = s.gangs := rfl
@[simp] theorem setThread_teams (s : State) (k : Nat) (v : Thread) : (s.setThread k v).teams = s.teams := rfl
@[simp] theorem setThread_grids (s : State) (k : Nat) (v : Thread) : (s.setThread k v).grids = s.grids := rfl
@[simp] theorem setThread_tiles (s : State) (k : Nat) (v : Thread) : (s.setThread k v).tiles = s.tiles := rfl
@[simp] theorem setThread_ops (s : State) (k : Nat) (v : Thread) : (s.setThread k v).ops = s.ops := rfl
@[simp] theorem setThread_accs (s : State) (k : Nat) (v : Thread) : (s.setThread k v).accs = s.accs := rfl
@[simp] theorem setThread_ctxs (s : State) (k : Nat) (v : Thread) : (s.setThread k v).ctxs = s.ctxs := rfl
@[simp] theorem setThread_queues (s : State) (k : Nat) (v : Thread) : (s.setThread k v).queues = s.queues := rfl
@[simp] theorem setThread_insts (s : State) (k : Nat) (v : Thread) : (s.setThread k v).insts = s.insts := rfl
@[simp] theorem setThread_frames (s : State) (k : Nat) (v : Thread) : (s.setThread k v).frames = s.frames := rfl
@[simp] theorem setThread_structs (s : State) (k : Nat) (v : Thread) : (s.setThread k v).structs = s.structs := rfl
@[simp] theorem setThread_mgmt (s : State) (k : Nat) (v : Thread) : (s.setThread k v).mgmt = s.mgmt := rfl
@[simp] theorem setThread_grp (s : State) (k : Nat) (v : Thread) : (s.setThread k v).grp = s.grp := rfl
@[simp] theorem setThread_grp2 (s : State) (k : Nat) (v : Thread) : (s.setThread k v).grp2 = s.grp2 := rfl
@[simp] theorem setThread_sched (s : State) (k : Nat) (v : Thread) : (s.setThread k v).sched = s.sched := rfl

/-! ### setGang -/

@[simp] theorem setGang_mem (s : State) (k : Nat) (v : Gang) : (s.setGang k v).mem = s.mem := rfl
@[simp] theorem setGang_clk (s : State) (k : Nat) (v : Gang) : (s.setGang k v).clk = s.clk := rfl
@[simp] theorem setGang_clusters (s : State) (k : Nat) (v : Gang) : (s.setGang k v).clusters = s.clusters := rfl
@[simp] theorem setGang_cores (s : State) (k : Nat) (v : Gang) : (s.setGang k v).cores = s.cores := rfl
@[simp] theorem setGang_threads (s : State) (k : Nat) (v : Gang) : (s.setGang k v).threads = s.threads := rfl
@[simp] theorem setGang_gangs (s : State) (k : Nat) (v : Gang) : (s.setGang k v).gangs = s.gangs.set k v := rfl
@[simp] theorem setGang_teams (s : State) (k : Nat) (v : Gang) : (s.setGang k v).teams = s.teams := rfl
@[simp] theorem setGang_grids (s : State) (k : Nat) (v : Gang) : (s.setGang k v).grids = s.grids := rfl
@[simp] theorem setGang_tiles (s : State) (k : Nat) (v : Gang) : (s.setGang k v).tiles = s.tiles := rfl
@[simp] theorem setGang_ops (s : State) (k : Nat) (v : Gang) : (s.setGang k v).ops = s.ops := rfl
@[simp] theorem setGang_accs (s : State) (k : Nat) (v : Gang) : (s.setGang k v).accs = s.accs := rfl
@[simp] theorem setGang_ctxs (s : State) (k : Nat) (v : Gang) : (s.setGang k v).ctxs = s.ctxs := rfl
@[simp] theorem setGang_queues (s : State) (k : Nat) (v : Gang) : (s.setGang k v).queues = s.queues := rfl
@[simp] theorem setGang_insts (s : State) (k : Nat) (v : Gang) : (s.setGang k v).insts = s.insts := rfl
@[simp] theorem setGang_frames (s : State) (k : Nat) (v : Gang) : (s.setGang k v).frames = s.frames := rfl
@[simp] theorem setGang_structs (s : State) (k : Nat) (v : Gang) : (s.setGang k v).structs = s.structs := rfl
@[simp] theorem setGang_mgmt (s : State) (k : Nat) (v : Gang) : (s.setGang k v).mgmt = s.mgmt := rfl
@[simp] theorem setGang_grp (s : State) (k : Nat) (v : Gang) : (s.setGang k v).grp = s.grp := rfl
@[simp] theorem setGang_grp2 (s : State) (k : Nat) (v : Gang) : (s.setGang k v).grp2 = s.grp2 := rfl
@[simp] theorem setGang_sched (s : State) (k : Nat) (v : Gang) : (s.setGang k v).sched = s.sched := rfl

/-! ### setTeam -/

@[simp] theorem setTeam_mem (s : State) (k : Nat) (v : Team) : (s.setTeam k v).mem = s.mem := rfl
@[simp] theorem setTeam_clk (s : State) (k : Nat) (v : Team) : (s.setTeam k v).clk = s.clk := rfl
@[simp] theorem setTeam_clusters (s : State) (k : Nat) (v : Team) : (s.setTeam k v).clusters = s.clusters := rfl
@[simp] theorem setTeam_cores (s : State) (k : Nat) (v : Team) : (s.setTeam k v).cores = s.cores := rfl
@[simp] theorem setTeam_threads (s : State) (k : Nat) (v : Team) : (s.setTeam k v).threads = s.threads := rfl
@[simp] theorem setTeam_gangs (s : State) (k : Nat) (v : Team) : (s.setTeam k v).gangs = s.gangs := rfl
@[simp] theorem setTeam_teams (s : State) (k : Nat) (v : Team) : (s.setTeam k v).teams = s.teams.set k v := rfl
@[simp] theorem setTeam_grids (s : State) (k : Nat) (v : Team) : (s.setTeam k v).grids = s.grids := rfl
@[simp] theorem setTeam_tiles (s : State) (k : Nat) (v : Team) : (s.setTeam k v).tiles = s.tiles := rfl
@[simp] theorem setTeam_ops (s : State) (k : Nat) (v : Team) : (s.setTeam k v).ops = s.ops := rfl
@[simp] theorem setTeam_accs (s : State) (k : Nat) (v : Team) : (s.setTeam k v).accs = s.accs := rfl
@[simp] theorem setTeam_ctxs (s : State) (k : Nat) (v : Team) : (s.setTeam k v).ctxs = s.ctxs := rfl
@[simp] theorem setTeam_queues (s : State) (k : Nat) (v : Team) : (s.setTeam k v).queues = s.queues := rfl
@[simp] theorem setTeam_insts (s : State) (k : Nat) (v : Team) : (s.setTeam k v).insts = s.insts := rfl
@[simp] theorem setTeam_frames (s : State) (k : Nat) (v : Team) : (s.setTeam k v).frames = s.frames := rfl
@[simp] theorem setTeam_structs (s : State) (k : Nat) (v : Team) : (s.setTeam k v).structs = s.structs := rfl
@[simp] theorem setTeam_mgmt (s : State) (k : Nat) (v : Team) : (s.setTeam k v).mgmt = s.mgmt := rfl
@[simp] theorem setTeam_grp (s : State) (k : Nat) (v : Team) : (s.setTeam k v).grp = s.grp := rfl
@[simp] theorem setTeam_grp2 (s : State) (k : Nat) (v : Team) : (s.setTeam k v).grp2 = s.grp2 := rfl
@[simp] theorem setTeam_sched (s : State) (k : Nat) (v : Team) : (s.setTeam k v).sched = s.sched := rfl

/-! ### setGrid -/

@[simp] theorem setGrid_mem (s : State) (k : Nat) (v : Grid) : (s.setGrid k v).mem = s.mem := rfl
@[simp] theorem setGrid_clk (s : State) (k : Nat) (v : Grid) : (s.setGrid k v).clk = s.clk := rfl
@[simp] theorem setGrid_clusters (s : State) (k : Nat) (v : Grid) : (s.setGrid k v).clusters = s.clusters := rfl
@[simp] theorem setGrid_cores (s : State) (k : Nat) (v : Grid) : (s.setGrid k v).cores = s.cores := rfl
@[simp] theorem setGrid_threads (s : State) (k : Nat) (v : Grid) : (s.setGrid k v).threads = s.threads := rfl
@[simp] theorem setGrid_gangs (s : State) (k : Nat) (v : Grid) : (s.setGrid k v).gangs = s.gangs := rfl
@[simp] theorem setGrid_teams (s : State) (k : Nat) (v : Grid) : (s.setGrid k v).teams = s.teams := rfl
@[simp] theorem setGrid_grids (s : State) (k : Nat) (v : Grid) : (s.setGrid k v).grids = s.grids.set k v := rfl
@[simp] theorem setGrid_tiles (s : State) (k : Nat) (v : Grid) : (s.setGrid k v).tiles = s.tiles := rfl
@[simp] theorem setGrid_ops (s : State) (k : Nat) (v : Grid) : (s.setGrid k v).ops = s.ops := rfl
@[simp] theorem setGrid_accs (s : State) (k : Nat) (v : Grid) : (s.setGrid k v).accs = s.accs := rfl
@[simp] theorem setGrid_ctxs (s : State) (k : Nat) (v : Grid) : (s.setGrid k v).ctxs = s.ctxs := rfl
@[simp] theorem setGrid_queues (s : State) (k : Nat) (v : Grid) : (s.setGrid k v).queues = s.queues := rfl
@[simp] theorem setGrid_insts (s : State) (k : Nat) (v : Grid) : (s.setGrid k v).insts = s.insts := rfl
@[simp] theorem setGrid_frames (s : State) (k : Nat) (v : Grid) : (s.setGrid k v).frames = s.frames := rfl
@[simp] theorem setGrid_structs (s : State) (k : Nat) (v : Grid) : (s.setGrid k v).structs = s.structs := rfl
@[simp] theorem setGrid_mgmt (s : State) (k : Nat) (v : Grid) : (s.setGrid k v).mgmt = s.mgmt := rfl
@[simp] theorem setGrid_grp (s : State) (k : Nat) (v : Grid) : (s.setGrid k v).grp = s.grp := rfl
@[simp] theorem setGrid_grp2 (s : State) (k : Nat) (v : Grid) : (s.setGrid k v).grp2 = s.grp2 := rfl
@[simp] theorem setGrid_sched (s : State) (k : Nat) (v : Grid) : (s.setGrid k v).sched = s.sched := rfl

/-! ### setTile -/

@[simp] theorem setTile_mem (s : State) (k : Nat) (v : Tile) : (s.setTile k v).mem = s.mem := rfl
@[simp] theorem setTile_clk (s : State) (k : Nat) (v : Tile) : (s.setTile k v).clk = s.clk := rfl
@[simp] theorem setTile_clusters (s : State) (k : Nat) (v : Tile) : (s.setTile k v).clusters = s.clusters := rfl
@[simp] theorem setTile_cores (s : State) (k : Nat) (v : Tile) : (s.setTile k v).cores = s.cores := rfl
@[simp] theorem setTile_threads (s : State) (k : Nat) (v : Tile) : (s.setTile k v).threads = s.threads := rfl
@[simp] theorem setTile_gangs (s : State) (k : Nat) (v : Tile) : (s.setTile k v).gangs = s.gangs := rfl
@[simp] theorem setTile_teams (s : State) (k : Nat) (v : Tile) : (s.setTile k v).teams = s.teams := rfl
@[simp] theorem setTile_grids (s : State) (k : Nat) (v : Tile) : (s.setTile k v).grids = s.grids := rfl
@[simp] theorem setTile_tiles (s : State) (k : Nat) (v : Tile) : (s.setTile k v).tiles = s.tiles.set k v := rfl
@[simp] theorem setTile_ops (s : State) (k : Nat) (v : Tile) : (s.setTile k v).ops = s.ops := rfl
@[simp] theorem setTile_accs (s : State) (k : Nat) (v : Tile) : (s.setTile k v).accs = s.accs := rfl
@[simp] theorem setTile_ctxs (s : State) (k : Nat) (v : Tile) : (s.setTile k v).ctxs = s.ctxs := rfl
@[simp] theorem setTile_queues (s : State) (k : Nat) (v : Tile) : (s.setTile k v).queues = s.queues := rfl
@[simp] theorem setTile_insts (s : State) (k : Nat) (v : Tile) : (s.setTile k v).insts = s.insts := rfl
@[simp] theorem setTile_frames (s : State) (k : Nat) (v : Tile) : (s.setTile k v).frames = s.frames := rfl
@[simp] theorem setTile_structs (s : State) (k : Nat) (v : Tile) : (s.setTile k v).structs = s.structs := rfl
@[simp] theorem setTile_mgmt (s : State) (k : Nat) (v : Tile) : (s.setTile k v).mgmt = s.mgmt := rfl
@[simp] theorem setTile_grp (s : State) (k : Nat) (v : Tile) : (s.setTile k v).grp = s.grp := rfl
@[simp] theorem setTile_grp2 (s : State) (k : Nat) (v : Tile) : (s.setTile k v).grp2 = s.grp2 := rfl
@[simp] theorem setTile_sched (s : State) (k : Nat) (v : Tile) : (s.setTile k v).sched = s.sched := rfl

/-! ### setOp -/

@[simp] theorem setOp_mem (s : State) (k : Nat) (v : Op) : (s.setOp k v).mem = s.mem := rfl
@[simp] theorem setOp_clk (s : State) (k : Nat) (v : Op) : (s.setOp k v).clk = s.clk := rfl
@[simp] theorem setOp_clusters (s : State) (k : Nat) (v : Op) : (s.setOp k v).clusters = s.clusters := rfl
@[simp] theorem setOp_cores (s : State) (k : Nat) (v : Op) : (s.setOp k v).cores = s.cores := rfl
@[simp] theorem setOp_threads (s : State) (k : Nat) (v : Op) : (s.setOp k v).threads = s.threads := rfl
@[simp] theorem setOp_gangs (s : State) (k : Nat) (v : Op) : (s.setOp k v).gangs = s.gangs := rfl
@[simp] theorem setOp_teams (s : State) (k : Nat) (v : Op) : (s.setOp k v).teams = s.teams := rfl
@[simp] theorem setOp_grids (s : State) (k : Nat) (v : Op) : (s.setOp k v).grids = s.grids := rfl
@[simp] theorem setOp_tiles (s : State) (k : Nat) (v : Op) : (s.setOp k v).tiles = s.tiles := rfl
@[simp] theorem setOp_ops (s : State) (k : Nat) (v : Op) : (s.setOp k v).ops = s.ops.set k v := rfl
@[simp] theorem setOp_accs (s : State) (k : Nat) (v : Op) : (s.setOp k v).accs = s.accs := rfl
@[simp] theorem setOp_ctxs (s : State) (k : Nat) (v : Op) : (s.setOp k v).ctxs = s.ctxs := rfl
@[simp] theorem setOp_queues (s : State) (k : Nat) (v : Op) : (s.setOp k v).queues = s.queues := rfl
@[simp] theorem setOp_insts (s : State) (k : Nat) (v : Op) : (s.setOp k v).insts = s.insts := rfl
@[simp] theorem setOp_frames (s : State) (k : Nat) (v : Op) : (s.setOp k v).frames = s.frames := rfl
@[simp] theorem setOp_structs (s : State) (k : Nat) (v : Op) : (s.setOp k v).structs = s.structs := rfl
@[simp] theorem setOp_mgmt (s : State) (k : Nat) (v : Op) : (s.setOp k v).mgmt = s.mgmt := rfl
@[simp] theorem setOp_grp (s : State) (k : Nat) (v : Op) : (s.setOp k v).grp = s.grp := rfl
@[simp] theorem setOp_grp2 (s : State) (k : Nat) (v : Op) : (s.setOp k v).grp2 = s.grp2 := rfl
@[simp] theorem setOp_sched (s : State) (k : Nat) (v : Op) : (s.setOp k v).sched = s.sched := rfl

/-! ### setCtx -/

@[simp] theorem setCtx_mem (s : State) (k : Nat) (v : Context) : (s.setCtx k v).mem = s.mem := rfl
@[simp] theorem setCtx_clk (s : State) (k : Nat) (v : Context) : (s.setCtx k v).clk = s.clk := rfl
@[simp] theorem setCtx_clusters (s : State) (k : Nat) (v : Context) : (s.setCtx k v).clusters = s.clusters := rfl
@[simp] theorem setCtx_cores (s : State) (k : Nat) (v : Context) : (s.setCtx k v).cores = s.cores := rfl
@[simp] theorem setCtx_threads (s : State) (k : Nat) (v : Context) : (s.setCtx k v).threads = s.threads := rfl
@[simp] theorem setCtx_gangs (s : State) (k : Nat) (v : Context) : (s.setCtx k v).gangs = s.gangs := rfl
@[simp] theorem setCtx_teams (s : State) (k : Nat) (v : Context) : (s.setCtx k v).teams = s.teams := rfl
@[simp] theorem setCtx_grids (s : State) (k : Nat) (v : Context) : (s.setCtx k v).grids = s.grids := rfl
@[simp] theorem setCtx_tiles (s : State) (k : Nat) (v : Context) : (s.setCtx k v).tiles = s.tiles := rfl
@[simp] theorem setCtx_ops (s : State) (k : Nat) (v : Context) : (s.setCtx k v).ops = s.ops := rfl
@[simp] theorem setCtx_accs (s : State) (k : Nat) (v : Context) : (s.setCtx k v).accs = s.accs := rfl
@[simp] theorem setCtx_ctxs (s : State) (k : Nat) (v : Context) : (s.setCtx k v).ctxs = s.ctxs.set k v := rfl
@[simp] theorem setCtx_queues (s : State) (k : Nat) (v : Context) : (s.setCtx k v).queues = s.queues := rfl
@[simp] theorem setCtx_insts (s : State) (k : Nat) (v : Context) : (s.setCtx k v).insts = s.insts := rfl
@[simp] theorem setCtx_frames (s : State) (k : Nat) (v : Context) : (s.setCtx k v).frames = s.frames := rfl
@[simp] theorem setCtx_structs (s : State) (k : Nat) (v : Context) : (s.setCtx k v).structs = s.structs := rfl
@[simp] theorem setCtx_mgmt (s : State) (k : Nat) (v : Context) : (s.setCtx k v).mgmt = s.mgmt := rfl
@[simp] theorem setCtx_grp (s : State) (k : Nat) (v : Context) : (s.setCtx k v).grp = s.grp := rfl
@[simp] theorem setCtx_grp2 (s : State) (k : Nat) (v : Context) : (s.setCtx k v).grp2 = s.grp2 := rfl
@[simp] theorem setCtx_sched (s : State) (k : Nat) (v : Context) : (s.setCtx k v).sched = s.sched := rfl

/-! ### setQueue -/

@[simp] theorem setQueue_mem (s : State) (k : Nat) (v : Queue) : (s.setQueue k v).mem = s.mem := rfl
@[simp] theorem setQueue_clk (s : State) (k : Nat) (v : Queue) : (s.setQueue k v).clk = s.clk := rfl
@[simp] theorem setQueue_clusters (s : State) (k : Nat) (v : Queue) : (s.setQueue k v).clusters = s.clusters := rfl
@[simp] theorem setQueue_cores (s : State) (k : Nat) (v : Queue) : (s.setQueue k v).cores = s.cores := rfl
@[simp] theorem setQueue_threads (s : State) (k : Nat) (v : Queue) : (s.setQueue k v).threads = s.threads := rfl
@[simp] theorem setQueue_gangs (s : State) (k : Nat) (v : Queue) : (s.setQueue k v).gangs = s.gangs := rfl
@[simp] theorem setQueue_teams (s : State) (k : Nat) (v : Queue) : (s.setQueue k v).teams = s.teams := rfl
@[simp] theorem setQueue_grids (s : State) (k : Nat) (v : Queue) : (s.setQueue k v).grids = s.grids := rfl
@[simp] theorem setQueue_tiles (s : State) (k : Nat) (v : Queue) : (s.setQueue k v).tiles = s.tiles := rfl
@[simp] theorem setQueue_ops (s : State) (k : Nat) (v : Queue) : (s.setQueue k v).ops = s.ops := rfl
@[simp] theorem setQueue_accs (s : State) (k : Nat) (v : Queue) : (s.setQueue k v).accs = s.accs := rfl
@[simp] theorem setQueue_ctxs (s : State) (k : Nat) (v : Queue) : (s.setQueue k v).ctxs = s.ctxs := rfl
@[simp] theorem setQueue_queues (s : State) (k : Nat) (v : Queue) : (s.setQueue k v).queues = s.queues.set k v := rfl
@[simp] theorem setQueue_insts (s : State) (k : Nat) (v : Queue) : (s.setQueue k v).insts = s.insts := rfl
@[simp] theorem setQueue_frames (s : State) (k : Nat) (v : Queue) : (s.setQueue k v).frames = s.frames := rfl
@[simp] theorem setQueue_structs (s : State) (k : Nat) (v : Queue) : (s.setQueue k v).structs = s.structs := rfl
@[simp] theorem setQueue_mgmt (s : State) (k : Nat) (v : Queue) : (s.setQueue k v).mgmt = s.mgmt := rfl
@[simp] theorem setQueue_grp (s : State) (k : Nat) (v : Queue) : (s.setQueue k v).grp = s.grp := rfl
@[simp] theorem setQueue_grp2 (s : State) (k : Nat) (v : Queue) : (s.setQueue k v).grp2 = s.grp2 := rfl
@[simp] theorem setQueue_sched (s : State) (k : Nat) (v : Queue) : (s.setQueue k v).sched = s.sched := rfl

/-! ### setInst -/

@[simp] theorem setInst_mem (s : State) (k : Nat) (v : Instance) : (s.setInst k v).mem = s.mem := rfl
@[simp] theorem setInst_clk (s : State) (k : Nat) (v : Instance) : (s.setInst k v).clk = s.clk := rfl
@[simp] theorem setInst_clusters (s : State) (k : Nat) (v : Instance) : (s.setInst k v).clusters = s.clusters := rfl
@[simp] theorem setInst_cores (s : State) (k : Nat) (v : Instance) : (s.setInst k v).cores = s.cores := rfl
@[simp] theorem setInst_threads (s : State) (k : Nat) (v : Instance) : (s.setInst k v).threads = s.threads := rfl
@[simp] theorem setInst_gangs (s : State) (k : Nat) (v : Instance) : (s.setInst k v).gangs = s.gangs := rfl
@[simp] theorem setInst_teams (s : State) (k : Nat) (v : Instance) : (s.setInst k v).teams = s.teams := rfl
@[simp] theorem setInst_grids (s : State) (k : Nat) (v : Instance) : (s.setInst k v).grids = s.grids := rfl
@[simp] theorem setInst_tiles (s : State) (k : Nat) (v : Instance) : (s.setInst k v).tiles = s.tiles := rfl
@[simp] theorem setInst_ops (s : State) (k : Nat) (v : Instance) : (s.setInst k v).ops = s.ops := rfl
@[simp] theorem setInst_accs (s : State) (k : Nat) (v : Instance) : (s.setInst k v).accs = s.accs := rfl
@[simp] theorem setInst_ctxs (s : State) (k : Nat) (v : Instance) : (s.setInst k v).ctxs = s.ctxs := rfl
@[simp] theorem setInst_queues (s : State) (k : Nat) (v : Instance) : (s.setInst k v).queues = s.queues := rfl
@[simp] theorem setInst_insts (s : State) (k : Nat) (v : Instance) : (s.setInst k v).insts = s.insts.set k v := rfl
@[simp] theorem setInst_frames (s : State) (k : Nat) (v : Instance) : (s.setInst k v).frames = s.frames := rfl
@[simp] theorem setInst_structs (s : State) (k : Nat) (v : Instance) : (s.setInst k v).structs = s.structs := rfl
@[simp] theorem setInst_mgmt (s : State) (k : Nat) (v : Instance) : (s.setInst k v).mgmt = s.mgmt := rfl
@[simp] theorem setInst_grp (s : State) (k : Nat) (v : Instance) : (s.setInst k v).grp = s.grp := rfl
@[simp] theorem setInst_grp2 (s : State) (k : Nat) (v : Instance) : (s.setInst k v).grp2 = s.grp2 := rfl
@[simp] theorem setInst_sched (s : State) (k : Nat) (v : Instance) : (s.setInst k v).sched = s.sched := rfl

/-! ### setFrame -/

@[simp] theorem setFrame_mem (s : State) (k : Nat) (v : Frame) : (s.setFrame k v).mem = s.mem := rfl
@[simp] theorem setFrame_clk (s : State) (k : Nat) (v : Frame) : (s.setFrame k v).clk = s.clk := rfl
@[simp] theorem setFrame_clusters (s : State) (k : Nat) (v : Frame) : (s.setFrame k v).clusters = s.clusters := rfl
@[simp] theorem setFrame_cores (s : State) (k : Nat) (v : Frame) : (s.setFrame k v).cores = s.cores := rfl
@[simp] theorem setFrame_threads (s : State) (k : Nat) (v : Frame) : (s.setFrame k v).threads = s.threads := rfl
@[simp] theorem setFrame_gangs (s : State) (k : Nat) (v : Frame) : (s.setFrame k v).gangs = s.gangs := rfl
@[simp] theorem setFrame_teams (s : State) (k : Nat) (v : Frame) : (s.setFrame k v).teams = s.teams := rfl
@[simp] theorem setFrame_grids (s : State) (k : Nat) (v : Frame) : (s.setFrame k v).grids = s.grids := rfl
@[simp] theorem setFrame_tiles (s : State) (k : Nat) (v : Frame) : (s.setFrame k v).tiles = s.tiles := rfl
@[simp] theorem setFrame_ops (s : State) (k : Nat) (v : Frame) : (s.setFrame k v).ops = s.ops := rfl
@[simp] theorem setFrame_accs (s : State) (k : Nat) (v : Frame) : (s.setFrame k v).accs = s.accs := rfl
@[simp] theorem setFrame_ctxs (s : State) (k : Nat) (v : Frame) : (s.setFrame k v).ctxs = s.ctxs := rfl
@[simp] theorem setFrame_queues (s : State) (k : Nat) (v : Frame) : (s.setFrame k v).queues = s.queues := rfl
@[simp] theorem setFrame_insts (s : State) (k : Nat) (v : Frame) : (s.setFrame k v).insts = s.insts := rfl
@[simp] theorem setFrame_frames (s : State) (k : Nat) (v : Frame) : (s.setFrame k v).frames = s.frames.set k v := rfl
@[simp] theorem setFrame_structs (s : State) (k : Nat) (v : Frame) : (s.setFrame k v).structs = s.structs := rfl
@[simp] theorem setFrame_mgmt (s : State) (k : Nat) (v : Frame) : (s.setFrame k v).mgmt = s.mgmt := rfl
@[simp] theorem setFrame_grp (s : State) (k : Nat) (v : Frame) : (s.setFrame k v).grp = s.grp := rfl
@[simp] theorem setFrame_grp2 (s : State) (k : Nat) (v : Frame) : (s.setFrame k v).grp2 = s.grp2 := rfl
@[simp] theorem setFrame_sched (s : State) (k : Nat) (v : Frame) : (s.setFrame k v).sched = s.sched := rfl

/-! ### setStruct -/

@[simp] theorem setStruct_mem (s : State) (k : Nat) (v : Struct) : (s.setStruct k v).mem = s.mem := rfl
@[simp] theorem setStruct_clk (s : State) (k : Nat) (v : Struct) : (s.setStruct k v).clk = s.clk := rfl
@[simp] theorem setStruct_clusters (s : State) (k : Nat) (v : Struct) : (s.setStruct k v).clusters = s.clusters := rfl
@[simp] theorem setStruct_cores (s : State) (k : Nat) (v : Struct) : (s.setStruct k v).cores = s.cores := rfl
@[simp] theorem setStruct_threads (s : State) (k : Nat) (v : Struct) : (s.setStruct k v).threads = s.threads := rfl
@[simp] theorem setStruct_gangs (s : State) (k : Nat) (v : Struct) : (s.setStruct k v).gangs = s.gangs := rfl
@[simp] theorem setStruct_teams (s : State) (k : Nat) (v : Struct) : (s.setStruct k v).teams = s.teams := rfl
@[simp] theorem setStruct_grids (s : State) (k : Nat) (v : Struct) : (s.setStruct k v).grids = s.grids := rfl
@[simp] theorem setStruct_tiles (s : State) (k : Nat) (v : Struct) : (s.setStruct k v).tiles = s.tiles := rfl
@[simp] theorem setStruct_ops (s : State) (k : Nat) (v : Struct) : (s.setStruct k v).ops = s.ops := rfl
@[simp] theorem setStruct_accs (s : State) (k : Nat) (v : Struct) : (s.setStruct k v).accs = s.accs := rfl
@[simp] theorem setStruct_ctxs (s : State) (k : Nat) (v : Struct) : (s.setStruct k v).ctxs = s.ctxs := rfl
@[simp] theorem setStruct_queues (s : State) (k : Nat) (v : Struct) : (s.setStruct k v).queues = s.queues := rfl
@[simp] theorem setStruct_insts (s : State) (k : Nat) (v : Struct) : (s.setStruct k v).insts = s.insts := rfl
@[simp] theorem setStruct_frames (s : State) (k : Nat) (v : Struct) : (s.setStruct k v).frames = s.frames := rfl
@[simp] theorem setStruct_structs (s : State) (k : Nat) (v : Struct) : (s.setStruct k v).structs = s.structs.set k v := rfl
@[simp] theorem setStruct_mgmt (s : State) (k : Nat) (v : Struct) : (s.setStruct k v).mgmt = s.mgmt := rfl
@[simp] theorem setStruct_grp (s : State) (k : Nat) (v : Struct) : (s.setStruct k v).grp = s.grp := rfl
@[simp] theorem setStruct_grp2 (s : State) (k : Nat) (v : Struct) : (s.setStruct k v).grp2 = s.grp2 := rfl
@[simp] theorem setStruct_sched (s : State) (k : Nat) (v : Struct) : (s.setStruct k v).sched = s.sched := rfl

/-! ### setMem -/

@[simp] theorem setMem_mem (s : State) (v : MemSys) : (s.setMem v).mem = v := rfl
@[simp] theorem setMem_clk (s : State) (v : MemSys) : (s.setMem v).clk = s.clk := rfl
@[simp] theorem setMem_clusters (s : State) (v : MemSys) : (s.setMem v).clusters = s.clusters := rfl
@[simp] theorem setMem_cores (s : State) (v : MemSys) : (s.setMem v).cores = s.cores := rfl
@[simp] theorem setMem_threads (s : State) (v : MemSys) : (s.setMem v).threads = s.threads := rfl
@[simp] theorem setMem_gangs (s : State) (v : MemSys) : (s.setMem v).gangs = s.gangs := rfl
@[simp] theorem setMem_teams (s : State) (v : MemSys) : (s.setMem v).teams = s.teams := rfl
@[simp] theorem setMem_grids (s : State) (v : MemSys) : (s.setMem v).grids = s.grids := rfl
@[simp] theorem setMem_tiles (s : State) (v : MemSys) : (s.setMem v).tiles = s.tiles := rfl
@[simp] theorem setMem_ops (s : State) (v : MemSys) : (s.setMem v).ops = s.ops := rfl
@[simp] theorem setMem_accs (s : State) (v : MemSys) : (s.setMem v).accs = s.accs := rfl
@[simp] theorem setMem_ctxs (s : State) (v : MemSys) : (s.setMem v).ctxs = s.ctxs := rfl
@[simp] theorem setMem_queues (s : State) (v : MemSys) : (s.setMem v).queues = s.queues := rfl
@[simp] theorem setMem_insts (s : State) (v : MemSys) : (s.setMem v).insts = s.insts := rfl
@[simp] theorem setMem_frames (s : State) (v : MemSys) : (s.setMem v).frames = s.frames := rfl
@[simp] theorem setMem_structs (s : State) (v : MemSys) : (s.setMem v).structs = s.structs := rfl
@[simp] theorem setMem_mgmt (s : State) (v : MemSys) : (s.setMem v).mgmt = s.mgmt := rfl
@[simp] theorem setMem_grp (s : State) (v : MemSys) : (s.setMem v).grp = s.grp := rfl
@[simp] theorem setMem_grp2 (s : State) (v : MemSys) : (s.setMem v).grp2 = s.grp2 := rfl
@[simp] theorem setMem_sched (s : State) (v : MemSys) : (s.setMem v).sched = s.sched := rfl

/-! ### setMgmt -/

@[simp] theorem setMgmt_mem (s : State) (v : Mgmt) : (s.setMgmt v).mem = s.mem := rfl
@[simp] theorem setMgmt_clk (s : State) (v : Mgmt) : (s.setMgmt v).clk = s.clk := rfl
@[simp] theorem setMgmt_clusters (s : State) (v : Mgmt) : (s.setMgmt v).clusters = s.clusters := rfl
@[simp] theorem setMgmt_cores (s : State) (v : Mgmt) : (s.setMgmt v).cores = s.cores := rfl
@[simp] theorem setMgmt_threads (s : State) (v : Mgmt) : (s.setMgmt v).threads = s.threads := rfl
@[simp] theorem setMgmt_gangs (s : State) (v : Mgmt) : (s.setMgmt v).gangs = s.gangs := rfl
@[simp] theorem setMgmt_teams (s : State) (v : Mgmt) : (s.setMgmt v).teams = s.teams := rfl
@[simp] theorem setMgmt_grids (s : State) (v : Mgmt) : (s.setMgmt v).grids = s.grids := rfl
@[simp] theorem setMgmt_tiles (s : State) (v : Mgmt) : (s.setMgmt v).tiles = s.tiles := rfl
@[simp] theorem setMgmt_ops (s : State) (v : Mgmt) : (s.setMgmt v).ops = s.ops := rfl
@[simp] theorem setMgmt_accs (s : State) (v : Mgmt) : (s.setMgmt v).accs = s.accs := rfl
@[simp] theorem setMgmt_ctxs (s : State) (v : Mgmt) : (s.setMgmt v).ctxs = s.ctxs := rfl
@[simp] theorem setMgmt_queues (s : State) (v : Mgmt) : (s.setMgmt v).queues = s.queues := rfl
@[simp] theorem setMgmt_insts (s : State) (v : Mgmt) : (s.setMgmt v).insts = s.insts := rfl
@[simp] theorem setMgmt_frames (s : State) (v : Mgmt) : (s.setMgmt v).frames = s.frames := rfl
@[simp] theorem setMgmt_structs (s : State) (v : Mgmt) : (s.setMgmt v).structs = s.structs := rfl
@[simp] theorem setMgmt_mgmt (s : State) (v : Mgmt) : (s.setMgmt v).mgmt = v := rfl
@[simp] theorem setMgmt_grp (s : State) (v : Mgmt) : (s.setMgmt v).grp = s.grp := rfl
@[simp] theorem setMgmt_grp2 (s : State) (v : Mgmt) : (s.setMgmt v).grp2 = s.grp2 := rfl
@[simp] theorem setMgmt_sched (s : State) (v : Mgmt) : (s.setMgmt v).sched = s.sched := rfl

/-! ### setSched -/

@[simp] theorem setSched_mem (s : State) (v : Sched) : (s.setSched v).mem = s.mem := rfl
@[simp] theorem setSched_clk (s : State) (v : Sched) : (s.setSched v).clk = s.clk := rfl
@[simp] theorem setSched_clusters (s : State) (v : Sched) : (s.setSched v).clusters = s.clusters := rfl
@[simp] theorem setSched_cores (s : State) (v : Sched) : (s.setSched v).cores = s.cores := rfl
@[simp] theorem setSched_threads (s : State) (v : Sched) : (s.setSched v).threads = s.threads := rfl
@[simp] theorem setSched_gangs (s : State) (v : Sched) : (s.setSched v).gangs = s.gangs := rfl
@[simp] theorem setSched_teams (s : State) (v : Sched) : (s.setSched v).teams = s.teams := rfl
@[simp] theorem setSched_grids (s : State) (v : Sched) : (s.setSched v).grids = s.grids := rfl
@[simp] theorem setSched_tiles (s : State) (v : Sched) : (s.setSched v).tiles = s.tiles := rfl
@[simp] theorem setSched_ops (s : State) (v : Sched) : (s.setSched v).ops = s.ops := rfl
@[simp] theorem setSched_accs (s : State) (v : Sched) : (s.setSched v).accs = s.accs := rfl
@[simp] theorem setSched_ctxs (s : State) (v : Sched) : (s.setSched v).ctxs = s.ctxs := rfl
@[simp] theorem setSched_queues (s : State) (v : Sched) : (s.setSched v).queues = s.queues := rfl
@[simp] theorem setSched_insts (s : State) (v : Sched) : (s.setSched v).insts = s.insts := rfl
@[simp] theorem setSched_frames (s : State) (v : Sched) : (s.setSched v).frames = s.frames := rfl
@[simp] theorem setSched_structs (s : State) (v : Sched) : (s.setSched v).structs = s.structs := rfl
@[simp] theorem setSched_mgmt (s : State) (v : Sched) : (s.setSched v).mgmt = s.mgmt := rfl
@[simp] theorem setSched_grp (s : State) (v : Sched) : (s.setSched v).grp = s.grp := rfl
@[simp] theorem setSched_grp2 (s : State) (v : Sched) : (s.setSched v).grp2 = s.grp2 := rfl
@[simp] theorem setSched_sched (s : State) (v : Sched) : (s.setSched v).sched = v := rfl

/-! ### modCluster -/

@[simp] theorem modCluster_mem (s : State) (k : Nat) (f : Cluster → Cluster) : (s.modCluster k f).mem = s.mem := rfl
@[simp] theorem modCluster_clk (s : State) (k : Nat) (f : Cluster → Cluster) : (s.modCluster k f).clk = s.clk := rfl
@[simp] theorem modCluster_cores (s : State) (k : Nat) (f : Cluster → Cluster) : (s.modCluster k f).cores = s.cores := rfl
@[simp] theorem modCluster_threads (s : State) (k : Nat) (f : Cluster → Cluster) : (s.modCluster k f).threads = s.threads := rfl
@[simp] theorem modCluster_gangs (s : State) (k : Nat) (f : Cluster → Cluster) : (s.modCluster k f).gangs = s.gangs := rfl
@[simp] theorem modCluster_teams (s : State) (k : Nat) (f : Cluster → Cluster) : (s.modCluster k f).teams = s.teams := rfl
@[simp] theorem modCluster_grids (s : State) (k : Nat) (f : Cluster → Cluster) : (s.modCluster k f).grids = s.grids := rfl
@[simp] theorem modCluster_tiles (s : State) (k : Nat) (f : Cluster → Cluster) : (s.modCluster k f).tiles = s.tiles := rfl
@[simp] theorem modCluster_ops (s : State) (k : Nat) (f : Cluster → Cluster) : (s.modCluster k f).ops = s.ops := rfl
@[simp] theorem modCluster_accs (s : State) (k : Nat) (f : Cluster → Cluster) : (s.modCluster k f).accs = s.accs := rfl
@[simp] theorem modCluster_ctxs (s : State) (k : Nat) (f : Cluster → Cluster) : (s.modCluster k f).ctxs = s.ctxs := rfl
@[simp] theorem modCluster_queues (s : State) (k : Nat) (f : Cluster → Cluster) : (s.modCluster k f).queues = s.queues := rfl
@[simp] theorem modCluster_insts (s : State) (k : Nat) (f : Cluster → Cluster) : (s.modCluster k f).insts = s.insts := rfl
@[simp] theorem modCluster_frames (s : State) (k : Nat) (f : Cluster → Cluster) : (s.modCluster k f).frames = s.frames := rfl
@[simp] theorem modCluster_structs (s : State) (k : Nat) (f : Cluster → Cluster) : (s.modCluster k f).structs = s.structs := rfl
@[simp] theorem modCluster_mgmt (s : State) (k : Nat) (f : Cluster → Cluster) : (s.modCluster k f).mgmt = s.mgmt := rfl
@[simp] theorem modCluster_grp (s : State) (k : Nat) (f : Cluster → Cluster) : (s.modCluster k f).grp = s.grp := rfl
@[simp] theorem modCluster_grp2 (s : State) (k : Nat) (f : Cluster → Cluster) : (s.modCluster k f).grp2 = s.grp2 := rfl
@[simp] theorem modCluster_sched (s : State) (k : Nat) (f : Cluster → Cluster) : (s.modCluster k f).sched = s.sched := rfl

/-! ### modCore -/

@[simp] theorem modCore_mem (s : State) (k : Nat) (f : Core → Core) : (s.modCore k f).mem = s.mem := rfl
@[simp] theorem modCore_clk (s : State) (k : Nat) (f : Core → Core) : (s.modCore k f).clk = s.clk := rfl
@[simp] theorem modCore_clusters (s : State) (k : Nat) (f : Core → Core) : (s.modCore k f).clusters = s.clusters := rfl
@[simp] theorem modCore_threads (s : State) (k : Nat) (f : Core → Core) : (s.modCore k f).threads = s.threads := rfl
@[simp] theorem modCore_gangs (s : State) (k : Nat) (f : Core → Core) : (s.modCore k f).gangs = s.gangs := rfl
@[simp] theorem modCore_teams (s : State) (k : Nat) (f : Core → Core) : (s.modCore k f).teams = s.teams := rfl
@[simp] theorem modCore_grids (s : State) (k : Nat) (f : Core → Core) : (s.modCore k f).grids = s.grids := rfl
@[simp] theorem modCore_tiles (s : State) (k : Nat) (f : Core → Core) : (s.modCore k f).tiles = s.tiles := rfl
@[simp] theorem modCore_ops (s : State) (k : Nat) (f : Core → Core) : (s.modCore k f).ops = s.ops := rfl
@[simp] theorem modCore_accs (s : State) (k : Nat) (f : Core → Core) : (s.modCore k f).accs = s.accs := rfl
@[simp] theorem modCore_ctxs (s : State) (k : Nat) (f : Core → Core) : (s.modCore k f).ctxs = s.ctxs := rfl
@[simp] theorem modCore_queues (s : State) (k : Nat) (f : Core → Core) : (s.modCore k f).queues = s.queues := rfl
@[simp] theorem modCore_insts (s : State) (k : Nat) (f : Core → Core) : (s.modCore k f).insts = s.insts := rfl
@[simp] theorem modCore_frames (s : State) (k : Nat) (f : Core → Core) : (s.modCore k f).frames = s.frames := rfl
@[simp] theorem modCore_structs (s : State) (k : Nat) (f : Core → Core) : (s.modCore k f).structs = s.structs := rfl
@[simp] theorem modCore_mgmt (s : State) (k : Nat) (f : Core → Core) : (s.modCore k f).mgmt = s.mgmt := rfl
@[simp] theorem modCore_grp (s : State) (k : Nat) (f : Core → Core) : (s.modCore k f).grp = s.grp := rfl
@[simp] theorem modCore_grp2 (s : State) (k : Nat) (f : Core → Core) : (s.modCore k f).grp2 = s.grp2 := rfl
@[simp] theorem modCore_sched (s : State) (k : Nat) (f : Core → Core) : (s.modCore k f).sched = s.sched := rfl

/-! ### modThread -/

@[simp] theorem modThread_mem (s : State) (k : Nat) (f : Thread → Thread) : (s.modThread k f).mem = s.mem := by unfold modThread; split <;> rfl
@[simp] theorem modThread_clk (s : State) (k : Nat) (f : Thread → Thread) : (s.modThread k f).clk = s.clk := by unfold modThread; split <;> rfl
@[simp] theorem modThread_clusters (s : State) (k : Nat) (f : Thread → Thread) : (s.modThread k f).clusters = s.clusters := by unfold modThread; split <;> rfl
@[simp] theorem modThread_cores (s : State) (k : Nat) (f : Thread → Thread) : (s.modThread k f).cores = s.cores := by unfold modThread; split <;> rfl
@[simp] theorem modThread_gangs (s : State) (k : Nat) (f : Thread → Thread) : (s.modThread k f).gangs = s.gangs := by unfold modThread; split <;> rfl
@[simp] theorem modThread_teams (s : State) (k : Nat) (f : Thread → Thread) : (s.modThread k f).teams = s.teams := by unfold modThread; split <;> rfl
@[simp] theorem modThread_grids (s : State) (k : Nat) (f : Thread → Thread) : (s.modThread k f).grids = s.grids := by unfold modThread; split <;> rfl
@[simp] theorem modThread_tiles (s : State) (k : Nat) (f : Thread → Thread) : (s.modThread k f).tiles = s.tiles := by unfold modThread; split <;> rfl
@[simp] theorem modThread_ops (s : State) (k : Nat) (f : Thread → Thread) : (s.modThread k f).ops = s.ops := by unfold modThread; split <;> rfl
@[simp] theorem modThread_accs (s : State) (k : Nat) (f : Thread → Thread) : (s.modThread k f).accs = s.accs := by unfold modThread; split <;> rfl
@[simp] theorem modThread_ctxs (s : State) (k : Nat) (f : Thread → Thread) : (s.modThread k f).ctxs = s.ctxs := by unfold modThread; split <;> rfl
@[simp] theorem modThread_queues (s : State) (k : Nat) (f : Thread → Thread) : (s.modThread k f).queues = s.queues := by unfold modThread; split <;> rfl
@[simp] theorem modThread_insts (s : State) (k : Nat) (f : Thread → Thread) : (s.modThread k f).insts = s.insts := by unfold modThread; split <;> rfl
@[simp] theorem modThread_frames (s : State) (k : Nat) (f : Thread → Thread) : (s.modThread k f).frames = s.frames := by unfold modThread; split <;> rfl
@[simp] theorem modThread_structs (s : State) (k : Nat) (f : Thread → Thread) : (s.modThread k f).structs = s.structs := by unfold modThread; split <;> rfl
@[simp] theorem modThread_mgmt (s : State) (k : Nat) (f : Thread → Thread) : (s.modThread k f).mgmt = s.mgmt := by unfold modThread; split <;> rfl
@[simp] theorem modThread_grp (s : State) (k : Nat) (f : Thread → Thread) : (s.modThread k f).grp = s.grp := by unfold modThread; split <;> rfl
@[simp] theorem modThread_grp2 (s : State) (k : Nat) (f : Thread → Thread) : (s.modThread k f).grp2 = s.grp2 := by unfold modThread; split <;> rfl
@[simp] theorem modThread_sched (s : State) (k : Nat) (f : Thread → Thread) : (s.modThread k f).sched = s.sched := by unfold modThread; split <;> rfl

/-! ### modGang -/

@[simp] theorem modGang_mem (s : State) (k : Nat) (f : Gang → Gang) : (s.modGang k f).mem = s.mem := by unfold modGang; split <;> rfl
@[simp] theorem modGang_clk (s : State) (k : Nat) (f : Gang → Gang) : (s.modGang k f).clk = s.clk := by unfold modGang; split <;> rfl
@[simp] theorem modGang_clusters (s : State) (k : Nat) (f : Gang → Gang) : (s.modGang k f).clusters = s.clusters := by unfold modGang; split <;> rfl
@[simp] theorem modGang_cores (s : State) (k : Nat) (f : Gang → Gang) : (s.modGang k f).cores = s.cores := by unfold modGang; split <;> rfl
@[simp] theorem modGang_threads (s : State) (k : Nat) (f : Gang → Gang) : (s.modGang k f).threads = s.threads := by unfold modGang; split <;> rfl
@[simp] theorem modGang_teams (s : State) (k : Nat) (f : Gang → Gang) : (s.modGang k f).teams = s.teams := by unfold modGang; split <;> rfl
@[simp] theorem modGang_grids (s : State) (k : Nat) (f : Gang → Gang) : (s.modGang k f).grids = s.grids := by unfold modGang; split <;> rfl
@[simp] theorem modGang_tiles (s : State) (k : Nat) (f : Gang → Gang) : (s.modGang k f).tiles = s.tiles := by unfold modGang; split <;> rfl
@[simp] theorem modGang_ops (s : State) (k : Nat) (f : Gang → Gang) : (s.modGang k f).ops = s.ops := by unfold modGang; split <;> rfl
@[simp] theorem modGang_accs (s : State) (k : Nat) (f : Gang → Gang) : (s.modGang k f).accs = s.accs := by unfold modGang; split <;> rfl
@[simp] theorem modGang_ctxs (s : State) (k : Nat) (f : Gang → Gang) : (s.modGang k f).ctxs = s.ctxs := by unfold modGang; split <;> rfl
@[simp] theorem modGang_queues (s : State) (k : Nat) (f : Gang → Gang) : (s.modGang k f).queues = s.queues := by unfold modGang; split <;> rfl
@[simp] theorem modGang_insts (s : State) (k : Nat) (f : Gang → Gang) : (s.modGang k f).insts = s.insts := by unfold modGang; split <;> rfl
@[simp] theorem modGang_frames (s : State) (k : Nat) (f : Gang → Gang) : (s.modGang k f).frames = s.frames := by unfold modGang; split <;> rfl
@[simp] theorem modGang_structs (s : State) (k : Nat) (f : Gang → Gang) : (s.modGang k f).structs = s.structs := by unfold modGang; split <;> rfl
@[simp] theorem modGang_mgmt (s : State) (k : Nat) (f : Gang → Gang) : (s.modGang k f).mgmt = s.mgmt := by unfold modGang; split <;> rfl
@[simp] theorem modGang_grp (s : State) (k : Nat) (f : Gang → Gang) : (s.modGang k f).grp = s.grp := by unfold modGang; split <;> rfl
@[simp] theorem modGang_grp2 (s : State) (k : Nat) (f : Gang → Gang) : (s.modGang k f).grp2 = s.grp2 := by unfold modGang; split <;> rfl
@[simp] theorem modGang_sched (s : State) (k : Nat) (f : Gang → Gang) : (s.modGang k f).sched = s.sched := by unfold modGang; split <;> rfl

/-! ### modTeam -/

@[simp] theorem modTeam_mem (s : State) (k : Nat) (f : Team → Team) : (s.modTeam k f).mem = s.mem := by unfold modTeam; split <;> rfl
@[simp] theorem modTeam_clk (s : State) (k : Nat) (f : Team → Team) : (s.modTeam k f).clk = s.clk := by unfold modTeam; split <;> rfl
@[simp] theorem modTeam_clusters (s : State) (k : Nat) (f : Team → Team) : (s.modTeam k f).clusters = s.clusters := by unfold modTeam; split <;> rfl
@[simp] theorem modTeam_cores (s : State) (k : Nat) (f : Team → Team) : (s.modTeam k f).cores = s.cores := by unfold modTeam; split <;> rfl
@[simp] theorem modTeam_threads (s : State) (k : Nat) (f : Team → Team) : (s.modTeam k f).threads = s.threads := by unfold modTeam; split <;> rfl
@[simp] theorem modTeam_gangs (s : State) (k : Nat) (f : Team → Team) : (s.modTeam k f).gangs = s.gangs := by unfold modTeam; split <;> rfl
@[simp] theorem modTeam_grids (s : State) (k : Nat) (f : Team → Team) : (s.modTeam k f).grids = s.grids := by unfold modTeam; split <;> rfl
@[simp] theorem modTeam_tiles (s : State) (k : Nat) (f : Team → Team) : (s.modTeam k f).tiles = s.tiles := by unfold modTeam; split <;> rfl
@[simp] theorem modTeam_ops (s : State) (k : Nat) (f : Team → Team) : (s.modTeam k f).ops = s.ops := by unfold modTeam; split <;> rfl
@[simp] theorem modTeam_accs (s : State) (k : Nat) (f : Team → Team) : (s.modTeam k f).accs = s.accs := by unfold modTeam; split <;> rfl
@[simp] theorem modTeam_ctxs (s : State) (k : Nat) (f : Team → Team) : (s.modTeam k f).ctxs = s.ctxs := by unfold modTeam; split <;> rfl
@[simp] theorem modTeam_queues (s : State) (k : Nat) (f : Team → Team) : (s.modTeam k f).queues = s.queues := by unfold modTeam; split <;> rfl
@[simp] theorem modTeam_insts (s : State) (k : Nat) (f : Team → Team) : (s.modTeam k f).insts = s.insts := by unfold modTeam; split <;> rfl
@[simp] theorem modTeam_frames (s : State) (k : Nat) (f : Team → Team) : (s.modTeam k f).frames = s.frames := by unfold modTeam; split <;> rfl
@[simp] theorem modTeam_structs (s : State) (k : Nat) (f : Team → Team) : (s.modTeam k f).structs = s.structs := by unfold modTeam; split <;> rfl
@[simp] theorem modTeam_mgmt (s : State) (k : Nat) (f : Team → Team) : (s.modTeam k f).mgmt = s.mgmt := by unfold modTeam; split <;> rfl
@[simp] theorem modTeam_grp (s : State) (k : Nat) (f : Team → Team) : (s.modTeam k f).grp = s.grp := by unfold modTeam; split <;> rfl
@[simp] theorem modTeam_grp2 (s : State) (k : Nat) (f : Team → Team) : (s.modTeam k f).grp2 = s.grp2 := by unfold modTeam; split <;> rfl
@[simp] theorem modTeam_sched (s : State) (k : Nat) (f : Team → Team) : (s.modTeam k f).sched = s.sched := by unfold modTeam; split <;> rfl

/-! ### modGrid -/

@[simp] theorem modGrid_mem (s : State) (k : Nat) (f : Grid → Grid) : (s.modGrid k f).mem = s.mem := by unfold modGrid; split <;> rfl
@[simp] theorem modGrid_clk (s : State) (k : Nat) (f : Grid → Grid) : (s.modGrid k f).clk = s.clk := by unfold modGrid; split <;> rfl
@[simp] theorem modGrid_clusters (s : State) (k : Nat) (f : Grid → Grid) : (s.modGrid k f).clusters = s.clusters := by unfold modGrid; split <;> rfl
@[simp] theorem modGrid_cores (s : State) (k : Nat) (f : Grid → Grid) : (s.modGrid k f).cores = s.cores := by unfold modGrid; split <;> rfl
@[simp] theorem modGrid_threads (s : State) (k : Nat) (f : Grid → Grid) : (s.modGrid k f).threads = s.threads := by unfold modGrid; split <;> rfl
@[simp] theorem modGrid_gangs (s : State) (k : Nat) (f : Grid → Grid) : (s.modGrid k f).gangs = s.gangs := by unfold modGrid; split <;> rfl
@[simp] theorem modGrid_teams (s : State) (k : Nat) (f : Grid → Grid) : (s.modGrid k f).teams = s.teams := by unfold modGrid; split <;> rfl
@[simp] theorem modGrid_tiles (s : State) (k : Nat) (f : Grid → Grid) : (s.modGrid k f).tiles = s.tiles := by unfold modGrid; split <;> rfl
@[simp] theorem modGrid_ops (s : State) (k : Nat) (f : Grid → Grid) : (s.modGrid k f).ops = s.ops := by unfold modGrid; split <;> rfl
@[simp] theorem modGrid_accs (s : State) (k : Nat) (f : Grid → Grid) : (s.modGrid k f).accs = s.accs := by unfold modGrid; split <;> rfl
@[simp] theorem modGrid_ctxs (s : State) (k : Nat) (f : Grid → Grid) : (s.modGrid k f).ctxs = s.ctxs := by unfold modGrid; split <;> rfl
@[simp] theorem modGrid_queues (s : State) (k : Nat) (f : Grid → Grid) : (s.modGrid k f).queues = s.queues := by unfold modGrid; split <;> rfl
@[simp] theorem modGrid_insts (s : State) (k : Nat) (f : Grid → Grid) : (s.modGrid k f).insts = s.insts := by unfold modGrid; split <;> rfl
@[simp] theorem modGrid_frames (s : State) (k : Nat) (f : Grid → Grid) : (s.modGrid k f).frames = s.frames := by unfold modGrid; split <;> rfl
@[simp] theorem modGrid_structs (s : State) (k : Nat) (f : Grid → Grid) : (s.modGrid k f).structs = s.structs := by unfold modGrid; split <;> rfl
@[simp] theorem modGrid_mgmt (s : State) (k : Nat) (f : Grid → Grid) : (s.modGrid k f).mgmt = s.mgmt := by unfold modGrid; split <;> rfl
@[simp] theorem modGrid_grp (s : State) (k : Nat) (f : Grid → Grid) : (s.modGrid k f).grp = s.grp := by unfold modGrid; split <;> rfl
@[simp] theorem modGrid_grp2 (s : State) (k : Nat) (f : Grid → Grid) : (s.modGrid k f).grp2 = s.grp2 := by unfold modGrid; split <;> rfl
@[simp] theorem modGrid_sched (s : State) (k : Nat) (f : Grid → Grid) : (s.modGrid k f).sched = s.sched := by unfold modGrid; split <;> rfl

/-! ### modTile -/

@[simp] theorem modTile_mem (s : State) (k : Nat) (f : Tile → Tile) : (s.modTile k f).mem = s.mem := by unfold modTile; split <;> rfl
@[simp] theorem modTile_clk (s : State) (k : Nat) (f : Tile → Tile) : (s.modTile k f).clk = s.clk := by unfold modTile; split <;> rfl
@[simp] theorem modTile_clusters (s : State) (k : Nat) (f : Tile → Tile) : (s.modTile k f).clusters = s.clusters := by unfold modTile; split <;> rfl
@[simp] theorem modTile_cores (s : State) (k : Nat) (f : Tile → Tile) : (s.modTile k f).cores = s.cores := by unfold modTile; split <;> rfl
@[simp] theorem modTile_threads (s : State) (k : Nat) (f : Tile → Tile) : (s.modTile k f).threads = s.threads := by unfold modTile; split <;> rfl
@[simp] theorem modTile_gangs (s : State) (k : Nat) (f : Tile → Tile) : (s.modTile k f).gangs = s.gangs := by unfold modTile; split <;> rfl
@[simp] theorem modTile_teams (s : State) (k : Nat) (f : Tile → Tile) : (s.modTile k f).teams = s.teams := by unfold modTile; split <;> rfl
@[simp] theorem modTile_grids (s : State) (k : Nat) (f : Tile → Tile) : (s.modTile k f).grids = s.grids := by unfold modTile; split <;> rfl
@[simp] theorem modTile_ops (s : State) (k : Nat) (f : Tile → Tile) : (s.modTile k f).ops = s.ops := by unfold modTile; split <;> rfl
@[simp] theorem modTile_accs (s : State) (k : Nat) (f : Tile → Tile) : (s.modTile k f).accs = s.accs := by unfold modTile; split <;> rfl
@[simp] theorem modTile_ctxs (s : State) (k : Nat) (f : Tile → Tile) : (s.modTile k f).ctxs = s.ctxs := by unfold modTile; split <;> rfl
@[simp] theorem modTile_queues (s : State) (k : Nat) (f : Tile → Tile) : (s.modTile k f).queues = s.queues := by unfold modTile; split <;> rfl
@[simp] theorem modTile_insts (s : State) (k : Nat) (f : Tile → Tile) : (s.modTile k f).insts = s.insts := by unfold modTile; split <;> rfl
@[simp] theorem modTile_frames (s : State) (k : Nat) (f : Tile → Tile) : (s.modTile k f).frames = s.frames := by unfold modTile; split <;> rfl
@[simp] theorem modTile_structs (s : State) (k : Nat) (f : Tile → Tile) : (s.modTile k f).structs = s.structs := by unfold modTile; split <;> rfl
@[simp] theorem modTile_mgmt (s : State) (k : Nat) (f : Tile → Tile) : (s.modTile k f).mgmt = s.mgmt := by unfold modTile; split <;> rfl
@[simp] theorem modTile_grp (s : State) (k : Nat) (f : Tile → Tile) : (s.modTile k f).grp = s.grp := by unfold modTile; split <;> rfl
@[simp] theorem modTile_grp2 (s : State) (k : Nat) (f : Tile → Tile) : (s.modTile k f).grp2 = s.grp2 := by unfold modTile; split <;> rfl
@[simp] theorem modTile_sched (s : State) (k : Nat) (f : Tile → Tile) : (s.modTile k f).sched = s.sched := by unfold modTile; split <;> rfl

/-! ### modCtx -/

@[simp] theorem modCtx_mem (s : State) (k : Nat) (f : Context → Context) : (s.modCtx k f).mem = s.mem := by unfold modCtx; split <;> rfl
@[simp] theorem modCtx_clk (s : State) (k : Nat) (f : Context → Context) : (s.modCtx k f).clk = s.clk := by unfold modCtx; split <;> rfl
@[simp] theorem modCtx_clusters (s : State) (k : Nat) (f : Context → Context) : (s.modCtx k f).clusters = s.clusters := by unfold modCtx; split <;> rfl
@[simp] theorem modCtx_cores (s : State) (k : Nat) (f : Context → Context) : (s.modCtx k f).cores = s.cores := by unfold modCtx; split <;> rfl
@[simp] theorem modCtx_threads (s : State) (k : Nat) (f : Context → Context) : (s.modCtx k f).threads = s.threads := by unfold modCtx; split <;> rfl
@[simp] theorem modCtx_gangs (s : State) (k : Nat) (f : Context → Context) : (s.modCtx k f).gangs = s.gangs := by unfold modCtx; split <;> rfl
@[simp] theorem modCtx_teams (s : State) (k : Nat) (f : Context → Context) : (s.modCtx k f).teams = s.teams := by unfold modCtx; split <;> rfl
@[simp] theorem modCtx_grids (s : State) (k : Nat) (f : Context → Context) : (s.modCtx k f).grids = s.grids := by unfold modCtx; split <;> rfl
@[simp] theorem modCtx_tiles (s : State) (k : Nat) (f : Context → Context) : (s.modCtx k f).tiles = s.tiles := by unfold modCtx; split <;> rfl
@[simp] theorem modCtx_ops (s : State) (k : Nat) (f : Context → Context) : (s.modCtx k f).ops = s.ops := by unfold modCtx; split <;> rfl
@[simp] theorem modCtx_accs (s : State) (k : Nat) (f : Context → Context) : (s.modCtx k f).accs = s.accs := by unfold modCtx; split <;> rfl
@[simp] theorem modCtx_queues (s : State) (k : Nat) (f : Context → Context) : (s.modCtx k f).queues = s.queues := by unfold modCtx; split <;> rfl
@[simp] theorem modCtx_insts (s : State) (k : Nat) (f : Context → Context) : (s.modCtx k f).insts = s.insts := by unfold modCtx; split <;> rfl
@[simp] theorem modCtx_frames (s : State) (k : Nat) (f : Context → Context) : (s.modCtx k f).frames = s.frames := by unfold modCtx; split <;> rfl
@[simp] theorem modCtx_structs (s : State) (k : Nat) (f : Context → Context) : (s.modCtx k f).structs = s.structs := by unfold modCtx; split <;> rfl
@[simp] theorem modCtx_mgmt (s : State) (k : Nat) (f : Context → Context) : (s.modCtx k f).mgmt = s.mgmt := by unfold modCtx; split <;> rfl
@[simp] theorem modCtx_grp (s : State) (k : Nat) (f : Context → Context) : (s.modCtx k f).grp = s.grp := by unfold modCtx; split <;> rfl
@[simp] theorem modCtx_grp2 (s : State) (k : Nat) (f : Context → Context) : (s.modCtx k f).grp2 = s.grp2 := by unfold modCtx; split <;> rfl
@[simp] theorem modCtx_sched (s : State) (k : Nat) (f : Context → Context) : (s.modCtx k f).sched = s.sched := by unfold modCtx; split <;> rfl

/-! ### modQueue -/

@[simp] theorem modQueue_mem (s : State) (k : Nat) (f : Queue → Queue) : (s.modQueue k f).mem = s.mem := by unfold modQueue; split <;> rfl
@[simp] theorem modQueue_clk (s : State) (k : Nat) (f : Queue → Queue) : (s.modQueue k f).clk = s.clk := by unfold modQueue; split <;> rfl
@[simp] theorem modQueue_clusters (s : State) (k : Nat) (f : Queue → Queue) : (s.modQueue k f).clusters = s.clusters := by unfold modQueue; split <;> rfl
@[simp] theorem modQueue_cores (s : State) (k : Nat) (f : Queue → Queue) : (s.modQueue k f).cores = s.cores := by unfold modQueue; split <;> rfl
@[simp] theorem modQueue_threads (s : State) (k : Nat) (f : Queue → Queue) : (s.modQueue k f).threads = s.threads := by unfold modQueue; split <;> rfl
@[simp] theorem modQueue_gangs (s : State) (k : Nat) (f : Queue → Queue) : (s.modQueue k f).gangs = s.gangs := by unfold modQueue; split <;> rfl
@[simp] theorem modQueue_teams (s : State) (k : Nat) (f : Queue → Queue) : (s.modQueue k f).teams = s.teams := by unfold modQueue; split <;> rfl
@[simp] theorem modQueue_grids (s : State) (k : Nat) (f : Queue → Queue) : (s.modQueue k f).grids = s.grids := by unfold modQueue; split <;> rfl
@[simp] theorem modQueue_tiles (s : State) (k : Nat) (f : Queue → Queue) : (s.modQueue k f).tiles = s.tiles := by unfold modQueue; split <;> rfl
@[simp] theorem modQueue_ops (s : State) (k : Nat) (f : Queue → Queue) : (s.modQueue k f).ops = s.ops := by unfold modQueue; split <;> rfl
@[simp] theorem modQueue_accs (s : State) (k : Nat) (f : Queue → Queue) : (s.modQueue k f).accs = s.accs := by unfold modQueue; split <;> rfl
@[simp] theorem modQueue_ctxs (s : State) (k : Nat) (f : Queue → Queue) : (s.modQueue k f).ctxs = s.ctxs := by unfold modQueue; split <;> rfl
@[simp] theorem modQueue_insts (s : State) (k : Nat) (f : Queue → Queue) : (s.modQueue k f).insts = s.insts := by unfold modQueue; split <;> rfl
@[simp] theorem modQueue_frames (s : State) (k : Nat) (f : Queue → Queue) : (s.modQueue k f).frames = s.frames := by unfold modQueue; split <;> rfl
@[simp] theorem modQueue_structs (s : State) (k : Nat) (f : Queue → Queue) : (s.modQueue k f).structs = s.structs := by unfold modQueue; split <;> rfl
@[simp] theorem modQueue_mgmt (s : State) (k : Nat) (f : Queue → Queue) : (s.modQueue k f).mgmt = s.mgmt := by unfold modQueue; split <;> rfl
@[simp] theorem modQueue_grp (s : State) (k : Nat) (f : Queue → Queue) : (s.modQueue k f).grp = s.grp := by unfold modQueue; split <;> rfl
@[simp] theorem modQueue_grp2 (s : State) (k : Nat) (f : Queue → Queue) : (s.modQueue k f).grp2 = s.grp2 := by unfold modQueue; split <;> rfl
@[simp] theorem modQueue_sched (s : State) (k : Nat) (f : Queue → Queue) : (s.modQueue k f).sched = s.sched := by unfold modQueue; split <;> rfl

/-! ### modInst -/

@[simp] theorem modInst_mem (s : State) (k : Nat) (f : Instance → Instance) : (s.modInst k f).mem = s.mem := by unfold modInst; split <;> rfl
@[simp] theorem modInst_clk (s : State) (k : Nat) (f : Instance → Instance) : (s.modInst k f).clk = s.clk := by unfold modInst; split <;> rfl
@[simp] theorem modInst_clusters (s : State) (k : Nat) (f : Instance → Instance) : (s.modInst k f).clusters = s.clusters := by unfold modInst; split <;> rfl
@[simp] theorem modInst_cores (s : State) (k : Nat) (f : Instance → Instance) : (s.modInst k f).cores = s.cores := by unfold modInst; split <;> rfl
@[simp] theorem modInst_threads (s : State) (k : Nat) (f : Instance → Instance) : (s.modInst k f).threads = s.threads := by unfold modInst; split <;> rfl
@[simp] theorem modInst_gangs (s : State) (k : Nat) (f : Instance → Instance) : (s.modInst k f).gangs = s.gangs := by unfold modInst; split <;> rfl
@[simp] theorem modInst_teams (s : State) (k : Nat) (f : Instance → Instance) : (s.modInst k f).teams = s.teams := by unfold modInst; split <;> rfl
@[simp] theorem modInst_grids (s : State) (k : Nat) (f : Instance → Instance) : (s.modInst k f).grids = s.grids := by unfold modInst; split <;> rfl
@[simp] theorem modInst_tiles (s : State) (k : Nat) (f : Instance → Instance) : (s.modInst k f).tiles = s.tiles := by unfold modInst; split <;> rfl
@[simp] theorem modInst_ops (s : State) (k : Nat) (f : Instance → Instance) : (s.modInst k f).ops = s.ops := by unfold modInst; split <;> rfl
@[simp] theorem modInst_accs (s : State) (k : Nat) (f : Instance → Instance) : (s.modInst k f).accs = s.accs := by unfold modInst; split <;> rfl
@[simp] theorem modInst_ctxs (s : State) (k : Nat) (f : Instance → Instance) : (s.modInst k f).ctxs = s.ctxs := by unfold modInst; split <;> rfl
@[simp] theorem modInst_queues (s : State) (k : Nat) (f : Instance → Instance) : (s.modInst k f).queues = s.queues := by unfold modInst; split <;> rfl
@[simp] theorem modInst_frames (s : State) (k : Nat) (f : Instance → Instance) : (s.modInst k f).frames = s.frames := by unfold modInst; split <;> rfl
@[simp] theorem modInst_structs (s : State) (k : Nat) (f : Instance → Instance) : (s.modInst k f).structs = s.structs := by unfold modInst; split <;> rfl
@[simp] theorem modInst_mgmt (s : State) (k : Nat) (f : Instance → Instance) : (s.modInst k f).mgmt = s.mgmt := by unfold modInst; split <;> rfl
@[simp] theorem modInst_grp (s : State) (k : Nat) (f : Instance → Instance) : (s.modInst k f).grp = s.grp := by unfold modInst; split <;> rfl
@[simp] theorem modInst_grp2 (s : State) (k : Nat) (f : Instance → Instance) : (s.modInst k f).grp2 = s.grp2 := by unfold modInst; split <;> rfl
@[simp] theorem modInst_sched (s : State) (k : Nat) (f : Instance → Instance) : (s.modInst k f).sched = s.sched := by unfold modInst; split <;> rfl

/-! ### modFrame -/

@[simp] theorem modFrame_mem (s : State) (k : Nat) (f : Frame → Frame) : (s.modFrame k f).mem = s.mem := by unfold modFrame; split <;> rfl
@[simp] theorem modFrame_clk (s : State) (k : Nat) (f : Frame → Frame) : (s.modFrame k f).clk = s.clk := by unfold modFrame; split <;> rfl
@[simp] theorem modFrame_clusters (s : State) (k : Nat) (f : Frame → Frame) : (s.modFrame k f).clusters = s.clusters := by unfold modFrame; split <;> rfl
@[simp] theorem modFrame_cores (s : State) (k : Nat) (f : Frame → Frame) : (s.modFrame k f).cores = s.cores := by unfold modFrame; split <;> rfl
@[simp] theorem modFrame_threads (s : State) (k : Nat) (f : Frame → Frame) : (s.modFrame k f).threads = s.threads := by unfold modFrame; split <;> rfl
@[simp] theorem modFrame_gangs (s : State) (k : Nat) (f : Frame → Frame) : (s.modFrame k f).gangs = s.gangs := by unfold modFrame; split <;> rfl
@[simp] theorem modFrame_teams (s : State) (k : Nat) (f : Frame → Frame) : (s.modFrame k f).teams = s.teams := by unfold modFrame; split <;> rfl
@[simp] theorem modFrame_grids (s : State) (k : Nat) (f : Frame → Frame) : (s.modFrame k f).grids = s.grids := by unfold modFrame; split <;> rfl
@[simp] theorem modFrame_tiles (s : State) (k : Nat) (f : Frame → Frame) : (s.modFrame k f).tiles = s.tiles := by unfold modFrame; split <;> rfl
@[simp] theorem modFrame_ops (s : State) (k : Nat) (f : Frame → Frame) : (s.modFrame k f).ops = s.ops := by unfold modFrame; split <;> rfl
@[simp] theorem modFrame_accs (s : State) (k : Nat) (f : Frame → Frame) : (s.modFrame k f).accs = s.accs := by unfold modFrame; split <;> rfl
@[simp] theorem modFrame_ctxs (s : State) (k : Nat) (f : Frame → Frame) : (s.modFrame k f).ctxs = s.ctxs := by unfold modFrame; split <;> rfl
@[simp] theorem modFrame_queues (s : State) (k : Nat) (f : Frame → Frame) : (s.modFrame k f).queues = s.queues := by unfold modFrame; split <;> rfl
@[simp] theorem modFrame_insts (s : State) (k : Nat) (f : Frame → Frame) : (s.modFrame k f).insts = s.insts := by unfold modFrame; split <;> rfl
@[simp] theorem modFrame_structs (s : State) (k : Nat) (f : Frame → Frame) : (s.modFrame k f).structs = s.structs := by unfold modFrame; split <;> rfl
@[simp] theorem modFrame_mgmt (s : State) (k : Nat) (f : Frame → Frame) : (s.modFrame k f).mgmt = s.mgmt := by unfold modFrame; split <;> rfl
@[simp] theorem modFrame_grp (s : State) (k : Nat) (f : Frame → Frame) : (s.modFrame k f).grp = s.grp := by unfold modFrame; split <;> rfl
@[simp] theorem modFrame_grp2 (s : State) (k : Nat) (f : Frame → Frame) : (s.modFrame k f).grp2 = s.grp2 := by unfold modFrame; split <;> rfl
@[simp] theorem modFrame_sched (s : State) (k : Nat) (f : Frame → Frame) : (s.modFrame k f).sched = s.sched := by unfold modFrame; split <;> rfl

/-! ### modMgmt -/

@[simp] theorem modMgmt_mem (s : State) (f : Mgmt → Mgmt) : (s.modMgmt f).mem = s.mem := rfl
@[simp] theorem modMgmt_clk (s : State) (f : Mgmt → Mgmt) : (s.modMgmt f).clk = s.clk := rfl
@[simp] theorem modMgmt_clusters (s : State) (f : Mgmt → Mgmt) : (s.modMgmt f).clusters = s.clusters := rfl
@[simp] theorem modMgmt_cores (s : State) (f : Mgmt → Mgmt) : (s.modMgmt f).cores = s.cores := rfl
@[simp] theorem modMgmt_threads (s : State) (f : Mgmt → Mgmt) : (s.modMgmt f).threads = s.threads := rfl
@[simp] theorem modMgmt_gangs (s : State) (f : Mgmt → Mgmt) : (s.modMgmt f).gangs = s.gangs := rfl
@[simp] theorem modMgmt_teams (s : State) (f : Mgmt → Mgmt) : (s.modMgmt f).teams = s.teams := rfl
@[simp] theorem modMgmt_grids (s : State) (f : Mgmt → Mgmt) : (s.modMgmt f).grids = s.grids := rfl
@[simp] theorem modMgmt_tiles (s : State) (f : Mgmt → Mgmt) : (s.modMgmt f).tiles = s.tiles := rfl
@[simp] theorem modMgmt_ops (s : State) (f : Mgmt → Mgmt) : (s.modMgmt f).ops = s.ops := rfl
@[simp] theorem modMgmt_accs (s : State) (f : Mgmt → Mgmt) : (s.modMgmt f).accs = s.accs := rfl
@[simp] theorem modMgmt_ctxs (s : State) (f : Mgmt → Mgmt) : (s.modMgmt f).ctxs = s.ctxs := rfl
@[simp] theorem modMgmt_queues (s : State) (f : Mgmt → Mgmt) : (s.modMgmt f).queues = s.queues := rfl
@[simp] theorem modMgmt_insts (s : State) (f : Mgmt → Mgmt) : (s.modMgmt f).insts = s.insts := rfl
@[simp] theorem modMgmt_frames (s : State) (f : Mgmt → Mgmt) : (s.modMgmt f).frames = s.frames := rfl
@[simp] theorem modMgmt_structs (s : State) (f : Mgmt → Mgmt) : (s.modMgmt f).structs = s.structs := rfl
@[simp] theorem modMgmt_mgmt (s : State) (f : Mgmt → Mgmt) : (s.modMgmt f).mgmt = f s.mgmt := rfl
@[simp] theorem modMgmt_grp (s : State) (f : Mgmt → Mgmt) : (s.modMgmt f).grp = s.grp := rfl
@[simp] theorem modMgmt_grp2 (s : State) (f : Mgmt → Mgmt) : (s.modMgmt f).grp2 = s.grp2 := rfl
@[simp] theorem modMgmt_sched (s : State) (f : Mgmt → Mgmt) : (s.modMgmt f).sched = s.sched := rfl

/-! ### modMem -/

@[simp] theorem modMem_mem (s : State) (f : MemSys → MemSys) : (s.modMem f).mem = f s.mem := rfl
@[simp] theorem modMem_clk (s : State) (f : MemSys → MemSys) : (s.modMem f).clk = s.clk := rfl
@[simp] theorem modMem_clusters (s : State) (f : MemSys → MemSys) : (s.modMem f).clusters = s.clusters := rfl
@[simp] theorem modMem_cores (s : State) (f : MemSys → MemSys) : (s.modMem f).cores = s.cores := rfl
@[simp] theorem modMem_threads (s : State) (f : MemSys → MemSys) : (s.modMem f).threads = s.threads := rfl
@[simp] theorem modMem_gangs (s : State) (f : MemSys → MemSys) : (s.modMem f).gangs = s.gangs := rfl
@[simp] theorem modMem_teams (s : State) (f : MemSys → MemSys) : (s.modMem f).teams = s.teams := rfl
@[simp] theorem modMem_grids (s : State) (f : MemSys → MemSys) : (s.modMem f).grids = s.grids := rfl
@[simp] theorem modMem_tiles (s : State) (f : MemSys → MemSys) : (s.modMem f).tiles = s.tiles := rfl
@[simp] theorem modMem_ops (s : State) (f : MemSys → MemSys) : (s.modMem f).ops = s.ops := rfl
@[simp] theorem modMem_accs (s : State) (f : MemSys → MemSys) : (s.modMem f).accs = s.accs := rfl
@[simp] theorem modMem_ctxs (s : State) (f : MemSys → MemSys) : (s.modMem f).ctxs = s.ctxs := rfl
@[simp] theorem modMem_queues (s : State) (f : MemSys → MemSys) : (s.modMem f).queues = s.queues := rfl
@[simp] theorem modMem_insts (s : State) (f : MemSys → MemSys) : (s.modMem f).insts = s.insts := rfl
@[simp] theorem modMem_frames (s : State) (f : MemSys → MemSys) : (s.modMem f).frames = s.frames := rfl
@[simp] theorem modMem_structs (s : State) (f : MemSys → MemSys) : (s.modMem f).structs = s.structs := rfl
@[simp] theorem modMem_mgmt (s : State) (f : MemSys → MemSys) : (s.modMem f).mgmt = s.mgmt := rfl
@[simp] theorem modMem_grp (s : State) (f : MemSys → MemSys) : (s.modMem f).grp = s.grp := rfl
@[simp] theorem modMem_grp2 (s : State) (f : MemSys → MemSys) : (s.modMem f).grp2 = s.grp2 := rfl
@[simp] theorem modMem_sched (s : State) (f : MemSys → MemSys) : (s.modMem f).sched = s.sched := rfl


end Sys2Proof.Machine.State
end

