-- ==== Sys2Proof/Laws/Access.lean ====
section
/-! SUPPORT. What the lookups of threads and gangs give after their updates, and what the register operations leave alone. -/

namespace Sys2Proof.Machine.State

theorem thread_of_get? {s : State} {t : Nat} {x : Thread} (h : s.threads.get? t = some x) : s.thread t = x := by
  simp [thread, Tab.getD_of_get? h]

theorem gang_of_get? {s : State} {g : Nat} {x : Gang} (h : s.gangs.get? g = some x) : s.gang g = x := by
  simp [gang, Tab.getD_of_get? h]

theorem get?_modThread (s : State) (j k : Nat) (f : Thread → Thread) :
    (s.modThread k f).threads.get? j = if j = k then (s.threads.get? k).map f else s.threads.get? j := by
  unfold modThread
  cases h : s.threads.get? k with
  | none => by_cases hj : j = k <;> simp [hj, h]
  | some v => by_cases hj : j = k <;> simp [hj, Tab.get?_set]

theorem thread_modThread_self {s : State} {k : Nat} {x : Thread} (h : s.threads.get? k = some x) (f : Thread → Thread) :
    (s.modThread k f).thread k = f x := thread_of_get? (by simp [get?_modThread, h])

theorem thread_modThread_ne (s : State) {j k : Nat} (h : j ≠ k) (f : Thread → Thread) :
    (s.modThread k f).thread j = s.thread j := by
  simp [thread, Tab.getD, get?_modThread, h]

theorem get?_modGang (s : State) (j k : Nat) (f : Gang → Gang) :
    (s.modGang k f).gangs.get? j = if j = k then (s.gangs.get? k).map f else s.gangs.get? j := by
  unfold modGang
  cases h : s.gangs.get? k with
  | none => by_cases hj : j = k <;> simp [hj, h]
  | some v => by_cases hj : j = k <;> simp [hj, Tab.get?_set]

theorem gang_modGang_ne (s : State) {j k : Nat} (h : j ≠ k) (f : Gang → Gang) :
    (s.modGang k f).gang j = s.gang j := by
  simp [gang, Tab.getD, get?_modGang, h]

theorem gang_modGang_self {s : State} {k : Nat} {x : Gang} (h : s.gangs.get? k = some x) (f : Gang → Gang) :
    (s.modGang k f).gang k = f x := gang_of_get? (by simp [get?_modGang, h])

/-! ### Threads in bulk -/

theorem get?_mapThreads (s : State) (l : List Nat) (f : Nat → Thread → Thread) (t : Nat) :
    (s.mapThreads l f).threads.get? t = (s.threads.get? t).map fun x => if t ∈ l then f t x else x := by
  have h : (s.mapThreads l f).threads = s.threads.map fun e => (e.1, (fun k x => if l.contains k then f k x else x) e.1 e.2) := by
    simp only [mapThreads]
    apply List.map_congr_left
    intro e _
    split <;> rfl
  rw [h, Tab.get?_map t (fun k x => if l.contains k then f k x else x)]
  simp

theorem thread_mapThreads_mem {s : State} {l : List Nat} {f : Nat → Thread → Thread} {t : Nat} {x : Thread}
    (hx : s.threads.get? t = some x) (ht : t ∈ l) : (s.mapThreads l f).thread t = f t x :=
  thread_of_get? (by simp [get?_mapThreads, hx, ht])

theorem thread_mapThreads_notMem (s : State) {l : List Nat} (f : Nat → Thread → Thread) {t : Nat} (ht : t ∉ l) :
    (s.mapThreads l f).thread t = s.thread t := by
  have h : (s.mapThreads l f).threads.get? t = s.threads.get? t := by
    rw [get?_mapThreads]; cases s.threads.get? t <;> simp [ht]
  simp [thread, Tab.getD, h]

/-! ### Fields that the register operations leave alone -/

@[simp] theorem setG_eq (s : State) (t n : Nat) (v : Word) : s.setG t n v = s.modThread t fun x => { x with g := vset x.g n v } := rfl

end Sys2Proof.Machine.State
end

