-- ==== Sys2Proof/Laws/Memory.lean ====
section
/-! SUPPORT. Laws of memory: what a byte reads as after a write, and that every operation on the list of bytes keeps its
canonical form. -/

namespace Sys2Proof.Machine

/-! ### The canonical form -/

theorem Memory.wfFrom_cons {lo k : Nat} {v : Byte} {m : List Host.Cell} :
    Memory.wfFrom lo ((k, v) :: m) = true ↔ lo ≤ k ∧ v ≠ emptyByte ∧ Memory.wfFrom (k + 1) m = true := by
  simp only [Memory.wfFrom, Bool.and_eq_true, decide_eq_true_eq, and_assoc]

/-- A list above a bound is above every lower bound. -/
theorem Memory.wfFrom_mono {m : List Host.Cell} {a b : Nat} (h : a ≤ b) (hm : Memory.wfFrom b m = true) : Memory.wfFrom a m = true := by
  cases m with
  | nil => rfl
  | cons c m =>
    obtain ⟨k, v⟩ := c
    rw [Memory.wfFrom_cons] at *
    exact ⟨Nat.le_trans h hm.1, hm.2⟩

theorem Memory.wf_of_wfFrom {m : List Host.Cell} {a : Nat} (hm : Memory.wfFrom a m = true) : Memory.wf m = true :=
  Memory.wfFrom_mono (Nat.zero_le a) hm

/-- Below the bound of a list every byte reads as an unlisted one. -/
theorem readCell_below {m : List Host.Cell} {lo k : Nat} (hm : Memory.wfFrom lo m = true) (h : k < lo) : readCell k m = emptyByte := by
  induction m generalizing lo with
  | nil => rfl
  | cons c m ih =>
    obtain ⟨k', v⟩ := c
    rw [Memory.wfFrom_cons] at hm
    have : k' ≠ k := by omega
    simp only [readCell, this, if_false]
    exact ih hm.2.2 (by omega)

/-! ### One byte -/

theorem wfFrom_writeCell {m : List Host.Cell} {lo k : Nat} {v : Byte} (h : lo ≤ k) (hm : Memory.wfFrom lo m = true) :
    Memory.wfFrom lo (writeCell k v m) = true := by
  induction m generalizing lo with
  | nil => unfold writeCell; split <;> simp_all [Memory.wfFrom]
  | cons c m ih =>
    obtain ⟨k', v'⟩ := c
    have hc := Memory.wfFrom_cons.1 hm
    simp only [writeCell]
    split
    · split
      · exact hm
      · exact Memory.wfFrom_cons.2 ⟨h, ‹_›, Memory.wfFrom_cons.2 ⟨by omega, hc.2⟩⟩
    · split
      · split
        · exact Memory.wfFrom_mono (by omega) hc.2.2
        · subst_vars; exact Memory.wfFrom_cons.2 ⟨h, ‹_›, hc.2.2⟩
      · exact Memory.wfFrom_cons.2 ⟨hc.1, hc.2.1, ih (by omega) hc.2.2⟩

/-- A write of one byte keeps the canonical form. -/
theorem wf_writeCell {m : List Host.Cell} (k : Nat) (v : Byte) (hm : Memory.wf m = true) : Memory.wf (writeCell k v m) = true :=
  wfFrom_writeCell (Nat.zero_le k) hm

/-- Every other byte reads as before a write. -/
theorem readCell_writeCell_ne {a k : Nat} (h : a ≠ k) (v : Byte) (m : List Host.Cell) : readCell a (writeCell k v m) = readCell a m := by
  induction m with
  | nil => simp only [writeCell]; split <;> simp [readCell, Ne.symm h]
  | cons c m ih =>
    obtain ⟨k', v'⟩ := c
    simp only [writeCell]
    split
    · split <;> simp [readCell, Ne.symm h]
    · split
      · subst_vars; split <;> simp [readCell, Ne.symm h]
      · simp [readCell, ih]

theorem readCell_writeCell_from {m : List Host.Cell} {lo k : Nat} (v : Byte) (hm : Memory.wfFrom lo m = true) :
    readCell k (writeCell k v m) = v := by
  induction m generalizing lo with
  | nil => simp only [writeCell]; split <;> simp_all [readCell]
  | cons c m ih =>
    obtain ⟨k', v'⟩ := c
    have hc := Memory.wfFrom_cons.1 hm
    simp only [writeCell]
    split
    · split
      · subst_vars
        have : k' ≠ k := by omega
        simp only [readCell, this, if_false]
        exact readCell_below hc.2.2 (by omega)
      · simp [readCell]
    · split
      · split
        · subst_vars; exact readCell_below hc.2.2 (by omega)
        · simp [readCell]
      · simp only [readCell, *, if_false]
        exact ih hc.2.2

/-- A byte reads as written. -/
theorem readCell_writeCell {m : List Host.Cell} (k : Nat) (v : Byte) (hm : Memory.wf m = true) : readCell k (writeCell k v m) = v :=
  readCell_writeCell_from v hm

/-! ### Several bytes -/

/-- A write of several bytes keeps the canonical form. -/
theorem wf_writeCells {m : List Host.Cell} (k : Nat) (bs : List Byte) (hm : Memory.wf m = true) : Memory.wf (writeCells m k bs) = true := by
  induction bs generalizing m k with
  | nil => exact hm
  | cons b bs ih => exact ih (k + 1) (wf_writeCell k b hm)

/-- Bytes outside those written read as before. -/
theorem readCell_writeCells_outside {a k : Nat} {bs : List Byte} (m : List Host.Cell) (h : a < k ∨ k + bs.length ≤ a) :
    readCell a (writeCells m k bs) = readCell a m := by
  induction bs generalizing m k with
  | nil => rfl
  | cons b bs ih =>
    simp only [List.length_cons] at h
    simp only [writeCells]
    rw [ih _ (by omega), readCell_writeCell_ne (by omega)]

theorem readCells_congr {m m' : List Host.Cell} {k n : Nat} (h : ∀ a, k ≤ a → a < k + n → readCell a m = readCell a m') :
    readCells m k n = readCells m' k n := by
  induction n generalizing k with
  | zero => rfl
  | succ n ih =>
    simp only [readCells]
    rw [h k (Nat.le_refl k) (by omega), ih fun a ha hb => h a (by omega) (by omega)]

/-- The bytes read as written. -/
theorem readCells_writeCells {m : List Host.Cell} (k : Nat) (bs : List Byte) (hm : Memory.wf m = true) :
    readCells (writeCells m k bs) k bs.length = bs := by
  induction bs generalizing m k with
  | nil => rfl
  | cons b bs ih =>
    simp only [writeCells, List.length_cons, readCells]
    rw [ih (k + 1) (wf_writeCell k b hm), readCell_writeCells_outside _ (Or.inl (Nat.lt_succ_self k)), readCell_writeCell k b hm]

theorem length_readCells (m : List Host.Cell) (k n : Nat) : (readCells m k n).length = n := by
  induction n generalizing k with
  | zero => rfl
  | succ n ih => simp [readCells, ih]

theorem length_bytesOfNat (x n : Nat) : (bytesOfNat x n).length = n := by
  induction n generalizing x with
  | zero => rfl
  | succ n ih => simp [bytesOfNat, ih]

/-- The bytes of a number give it back, up to their width. -/
theorem natOfBytes_bytesOfNat (x n : Nat) : natOfBytes (bytesOfNat x n) = x % 256 ^ n := by
  induction n generalizing x with
  | zero => simp [bytesOfNat, natOfBytes, Nat.mod_one]
  | succ n ih =>
    simp only [bytesOfNat, natOfBytes, ih, BitVec.toNat_ofNat]
    rw [show (256 : Nat) ^ (n + 1) = 256 * 256 ^ n from Nat.pow_succ', Nat.mod_mul]

/-- A number reads as written. -/
theorem readNat_writeCells {m : List Host.Cell} (k x n : Nat) (hm : Memory.wf m = true) :
    readNat (writeCells m k (bytesOfNat x n)) k n = x % 256 ^ n := by
  have h := readCells_writeCells k (bytesOfNat x n) hm
  rw [length_bytesOfNat] at h
  rw [readNat, h, natOfBytes_bytesOfNat]

/-! ### The other operations on the list -/

theorem wfFrom_filter {m : List Host.Cell} {lo : Nat} (p : Host.Cell → Bool) (hm : Memory.wfFrom lo m = true) :
    Memory.wfFrom lo (m.filter p) = true := by
  induction m generalizing lo with
  | nil => rfl
  | cons c m ih =>
    obtain ⟨k, v⟩ := c
    rw [Memory.wfFrom_cons] at hm
    simp only [List.filter_cons]
    split
    · exact Memory.wfFrom_cons.2 ⟨hm.1, hm.2.1, ih hm.2.2⟩
    · exact Memory.wfFrom_mono (by omega) (ih hm.2.2)

/-- Bytes that are lost leave the canonical form. -/
theorem wf_filter {m : List Host.Cell} (p : Host.Cell → Bool) (hm : Memory.wf m = true) : Memory.wf (m.filter p) = true :=
  wfFrom_filter p hm

/-- A run of writes of single bytes, at any keys, keeps the canonical form. -/
theorem wf_foldl_writeCell {α : Type} (l : List α) (f : α → Nat) (g : α → Byte) {m : List Host.Cell} (hm : Memory.wf m = true) :
    Memory.wf (l.foldl (fun m a => writeCell (f a) (g a) m) m) = true := by
  induction l generalizing m with
  | nil => exact hm
  | cons a l ih => exact ih (wf_writeCell _ _ hm)

/-- The transfer of a page keeps the canonical form. -/
theorem wf_copyCells {m : List Host.Cell} (src dst n : Nat) (hm : Memory.wf m = true) : Memory.wf (copyCells m src dst n) = true :=
  wf_foldl_writeCell _ _ _ (wf_filter _ hm)

/-- Clearing ACC of a page-table entry keeps the canonical form. -/
theorem wf_clearAcc {m : List Host.Cell} (q : PagedPage) (hm : Memory.wf m = true) : Memory.wf (clearAcc m q) = true := by
  simp only [clearAcc]
  split
  · exact wf_writeCells _ _ hm
  · exact hm

theorem wf_foldl_clearAcc (l : List PagedPage) {m : List Host.Cell} (hm : Memory.wf m = true) : Memory.wf (l.foldl clearAcc m) = true := by
  induction l generalizing m with
  | nil => exact hm
  | cons a l ih => exact ih (wf_clearAcc a hm)

/-- A program loaded from outside keeps the canonical form. -/
theorem wf_placedCells {m : List Host.Cell} (w : Nat) (hm : Memory.wf m = true) : Memory.wf (placedCells m w) = true :=
  wf_writeCells _ _ (wf_writeCells _ _ (wf_writeCells _ _ hm))

/-- Memory at reset is in canonical form. -/
theorem wf_reset : Memory.wf State.reset.mem.cells = true := rfl

/-! ### Equal reads are equal memories -/

theorem eq_of_readCell_from {m m' : List Host.Cell} {lo : Nat} (hm : Memory.wfFrom lo m = true) (hm' : Memory.wfFrom lo m' = true)
    (h : ∀ k, readCell k m = readCell k m') : m = m' := by
  induction m generalizing lo m' with
  | nil =>
    cases m' with
    | nil => rfl
    | cons c m' =>
      obtain ⟨k, v⟩ := c
      have := h k
      simp only [readCell, if_true] at this
      exact absurd this.symm (Memory.wfFrom_cons.1 hm').2.1
  | cons c m ih =>
    obtain ⟨k, v⟩ := c
    have hc := Memory.wfFrom_cons.1 hm
    cases m' with
    | nil =>
      have := h k
      simp only [readCell, if_true] at this
      exact absurd this hc.2.1
    | cons c' m' =>
      obtain ⟨k', v'⟩ := c'
      have hc' := Memory.wfFrom_cons.1 hm'
      have hk : k = k' := by
        rcases Nat.lt_trichotomy k k' with hlt | he | hlt
        · have := h k
          rw [readCell_below (Memory.wfFrom_cons.2 ⟨Nat.le_refl k', hc'.2⟩) hlt] at this
          simp only [readCell, if_true] at this
          exact absurd this hc.2.1
        · exact he
        · have := h k'
          rw [readCell_below (Memory.wfFrom_cons.2 ⟨Nat.le_refl k, hc.2⟩) hlt] at this
          simp only [readCell, if_true] at this
          exact absurd this.symm hc'.2.1
      subst hk
      have hv := h k
      simp only [readCell, if_true] at hv
      subst hv
      congr 1
      refine ih hc.2.2 hc'.2.2 fun a => ?_
      by_cases ha : k = a
      · subst ha; rw [readCell_below hc.2.2 (Nat.lt_succ_self k), readCell_below hc'.2.2 (Nat.lt_succ_self k)]
      · have := h a
        simpa only [readCell, ha, if_false] using this

/-- Two memories in canonical form that read alike at every key are equal. -/
theorem eq_of_readCell {m m' : List Host.Cell} (hm : Memory.wf m = true) (hm' : Memory.wf m' = true) (h : ∀ k, readCell k m = readCell k m') :
    m = m' := eq_of_readCell_from hm hm' h

end Sys2Proof.Machine
end

