-- ==== Sys2Proof/Laws/Ops.lean ====
section
/-! SUPPORT. What carrying an instruction does: the start, the per-thread effects, the end of the instruction for each thread,
and the effect of the instructions that write one general register or one predicate. -/

namespace Sys2Proof.Machine

/-! ### The start of an instruction -/

section Start
variable (i : Instr) (s : State)

@[simp] theorem startIssue_mem : (startIssue i s).mem = s.mem := rfl
@[simp] theorem startIssue_clk : (startIssue i s).clk = s.clk := rfl
@[simp] theorem startIssue_clusters : (startIssue i s).clusters = s.clusters := rfl
@[simp] theorem startIssue_cores : (startIssue i s).cores = s.cores := rfl
@[simp] theorem startIssue_gangs : (startIssue i s).gangs = s.gangs := rfl
@[simp] theorem startIssue_teams : (startIssue i s).teams = s.teams := rfl
@[simp] theorem startIssue_grids : (startIssue i s).grids = s.grids := rfl
@[simp] theorem startIssue_tiles : (startIssue i s).tiles = s.tiles := rfl
@[simp] theorem startIssue_ops : (startIssue i s).ops = s.ops := rfl
@[simp] theorem startIssue_accs : (startIssue i s).accs = s.accs := rfl
@[simp] theorem startIssue_ctxs : (startIssue i s).ctxs = s.ctxs := rfl
@[simp] theorem startIssue_queues : (startIssue i s).queues = s.queues := rfl
@[simp] theorem startIssue_insts : (startIssue i s).insts = s.insts := rfl
@[simp] theorem startIssue_frames : (startIssue i s).frames = s.frames := rfl
@[simp] theorem startIssue_structs : (startIssue i s).structs = s.structs := rfl
@[simp] theorem startIssue_mgmt : (startIssue i s).mgmt = s.mgmt := rfl
@[simp] theorem startIssue_grp : (startIssue i s).grp = s.grp := rfl
@[simp] theorem startIssue_grp2 : (startIssue i s).grp2 = s.grp2 := rfl
@[simp] theorem startIssue_agenda : (startIssue i s).sched.agenda = s.sched.agenda := rfl

end Start

theorem get?_startIssue (i : Instr) (s : State) (t : Nat) :
    (startIssue i s).threads.get? t =
      (s.threads.get? t).map fun x => if t ∈ s.grp.threads then { x with after := s.grp.cursor + i.len } else x := by
  simp only [startIssue, State.get?_mapThreads]

/-- The start changes only where a thread goes on. -/
theorem thread_startIssue (i : Instr) (s : State) (t : Nat) :
    (startIssue i s).thread t = { s.thread t with after := ((startIssue i s).thread t).after } := by
  simp only [State.thread, Tab.getD, get?_startIssue]
  cases s.threads.get? t with
  | none => rfl
  | some x => simp only [Option.map_some, Option.getD_some]; split <;> rfl

theorem clause_startIssue (i : Instr) (s : State) (t : Nat) : ((startIssue i s).thread t).clause = (s.thread t).clause := by
  rw [thread_startIssue]

theorem entered_startIssue (i : Instr) (s : State) (t : Nat) : ((startIssue i s).thread t).entered = (s.thread t).entered := by
  rw [thread_startIssue]

theorem gangOf_startIssue (i : Instr) (s : State) (t : Nat) : (startIssue i s).gangOf t = s.gangOf t := by
  simp only [State.gangOf, State.gang, startIssue_gangs]
  rw [thread_startIssue]

theorem encodingBad_startIssue (i j : Instr) (s : State) (t : Nat) : encodingBad (startIssue i s) j t = encodingBad s j t := by
  simp only [encodingBad, State.isMgmt, State.coreOf, gangOf_startIssue, startIssue_grp]
  rw [thread_startIssue]

theorem guardOf_startIssue (i : Instr) (s : State) (t : Nat) : (startIssue i s).guardOf t = s.guardOf t := by
  simp only [State.guardOf, State.pr, startIssue_grp]
  rw [thread_startIssue]

theorem active_startIssue (i : Instr) (s : State) : (startIssue i s).active = s.active := by
  simp only [State.active, startIssue_grp]
  exact List.filter_congr fun t _ => guardOf_startIssue i s t

theorem nowOf_startIssue (i : Instr) (s : State) (t : Nat) : (startIssue i s).nowOf t = s.nowOf t := by
  unfold State.nowOf State.coreOf
  rw [gangOf_startIssue]
  rfl

/-! ### The undo log -/

/-- The undo log changes nothing but gangs, and of them only the log. -/
structure OnlyUndo (s t : State) : Prop where
  gangs : ∀ g, { t.gang g with undo := [] } = { s.gang g with undo := [] }
  rest : { t with gangs := [] } = { s with gangs := [] }

theorem OnlyUndo.refl (s : State) : OnlyUndo s s := ⟨fun _ => rfl, rfl⟩

theorem OnlyUndo.trans {s t u : State} (h : OnlyUndo s t) (k : OnlyUndo t u) : OnlyUndo s u :=
  ⟨fun g => (k.gangs g).trans (h.gangs g), k.rest.trans h.rest⟩

theorem onlyUndo_modGang (s : State) (gid : Nat) (l : List Undo) :
    OnlyUndo s (s.modGang gid fun g => { g with undo := g.undo ++ l }) := by
  refine ⟨fun g => ?_, ?_⟩
  · by_cases h : g = gid
    · subst h
      cases hg : s.gangs.get? g with
      | none => simp [State.modGang, hg]
      | some x => rw [State.gang_modGang_self hg, State.gang_of_get? hg]
    · rw [State.gang_modGang_ne _ h]
  · unfold State.modGang; split <;> rfl

theorem onlyUndo_unless (s : State) (gid : Nat) (l : List Undo) (c : Prop) [Decidable c] :
    OnlyUndo s (if c then s else s.modGang gid fun g => { g with undo := g.undo ++ l }) := by
  split
  · exact OnlyUndo.refl s
  · exact onlyUndo_modGang s gid l

theorem onlyUndo_logGang (i : Instr) (s0 s : State) (gid : Nat) (ths : List Nat) : OnlyUndo s (logGang i s0 s gid ths) := by
  unfold logGang
  split
  · exact OnlyUndo.refl s
  · exact onlyUndo_unless s gid _ _

theorem onlyUndo_foldl {α : Type} (f : State → α → State) (hf : ∀ s a, OnlyUndo s (f s a)) (l : List α) (s : State) :
    OnlyUndo s (l.foldl f s) := by
  induction l generalizing s with
  | nil => exact OnlyUndo.refl s
  | cons a l ih => exact (hf s a).trans (ih (f s a))

theorem onlyUndo_logUndo (i : Instr) (s0 s : State) (good : List Nat) : OnlyUndo s (logUndo i s0 s good) := by
  unfold logUndo
  split
  · exact OnlyUndo.refl s
  · exact onlyUndo_foldl _ (fun st g => onlyUndo_logGang i s0 st g _) _ s

theorem OnlyUndo.threads {s t : State} (h : OnlyUndo s t) : t.threads = s.threads := by
  have := congrArg State.threads h.rest
  exact this

/-! ### Last uses -/

theorem vget_poisonRegs_notMem {g : Vector Word 64} {l : List Nat} {r : Nat} (h : r ∉ l) : vget (poisonRegs g l) r 0 = vget g r 0 := by
  unfold poisonRegs
  induction l generalizing g with
  | nil => rfl
  | cons n l ih =>
    simp only [List.mem_cons, not_or] at h
    rw [List.foldl_cons, ih h.2, vget_vset_ne _ _ h.1]

theorem vget_poisonRegs_mem {g : Vector Word 64} {l : List Nat} {r : Nat} (h : r ∈ l) (hr : r < 64) :
    vget (poisonRegs g l) r 0 = poisonValue := by
  unfold poisonRegs
  induction l generalizing g with
  | nil => simp at h
  | cons n l ih =>
    rw [List.foldl_cons]
    by_cases hl : r ∈ l
    · exact ih hl
    · have hn : r = n := by simpa [hl] using h
      subst hn
      have := vget_poisonRegs_notMem (g := vset g r poisonValue) hl
      unfold poisonRegs at this
      rw [this, vget_vset_self _ _ hr]

theorem poisonRegs_append (g : Vector Word 64) (l m : List Nat) : poisonRegs (poisonRegs g l) m = poisonRegs g (l ++ m) := by
  simp [poisonRegs, List.foldl_append]

/-- A register that the instruction wrote takes no poison from it (R262). -/
theorem notMem_poison_of_wrote {g : Group} {i : Instr} {act : Bool} {old : Option Clause} {r : Nat} (h : r ∈ wroteRegs i act) :
    r ∉ poisonNow i act ++ clausePoison g i act old := by
  simp only [List.mem_append, not_or]
  constructor
  · simp [poisonNow, h]
  · unfold clausePoison
    cases old with
    | none => simp
    | some c =>
      dsimp only
      split
      · simp [poisonLater, h]
      · simp

/-! ### The end of an instruction -/

/-- The state with no group being carried. -/
def State.noGroup (s : State) : State := { s with grp := Group.empty }

@[simp] theorem noGroup_mem (s : State) : s.noGroup.mem = s.mem := rfl
@[simp] theorem noGroup_clk (s : State) : s.noGroup.clk = s.clk := rfl
@[simp] theorem noGroup_clusters (s : State) : s.noGroup.clusters = s.clusters := rfl
@[simp] theorem noGroup_cores (s : State) : s.noGroup.cores = s.cores := rfl
@[simp] theorem noGroup_threads (s : State) : s.noGroup.threads = s.threads := rfl
@[simp] theorem noGroup_gangs (s : State) : s.noGroup.gangs = s.gangs := rfl
@[simp] theorem noGroup_teams (s : State) : s.noGroup.teams = s.teams := rfl
@[simp] theorem noGroup_grids (s : State) : s.noGroup.grids = s.grids := rfl
@[simp] theorem noGroup_tiles (s : State) : s.noGroup.tiles = s.tiles := rfl
@[simp] theorem noGroup_ops (s : State) : s.noGroup.ops = s.ops := rfl
@[simp] theorem noGroup_accs (s : State) : s.noGroup.accs = s.accs := rfl
@[simp] theorem noGroup_ctxs (s : State) : s.noGroup.ctxs = s.ctxs := rfl
@[simp] theorem noGroup_queues (s : State) : s.noGroup.queues = s.queues := rfl
@[simp] theorem noGroup_insts (s : State) : s.noGroup.insts = s.insts := rfl
@[simp] theorem noGroup_frames (s : State) : s.noGroup.frames = s.frames := rfl
@[simp] theorem noGroup_structs (s : State) : s.noGroup.structs = s.structs := rfl
@[simp] theorem noGroup_mgmt (s : State) : s.noGroup.mgmt = s.mgmt := rfl
@[simp] theorem noGroup_grp2 (s : State) : s.noGroup.grp2 = s.grp2 := rfl
@[simp] theorem noGroup_sched (s : State) : s.noGroup.sched = s.sched := rfl
@[simp] theorem mapThreads_mem (s : State) (l : List Nat) (f : Nat → Thread → Thread) : (s.mapThreads l f).mem = s.mem := rfl
@[simp] theorem mapThreads_clk (s : State) (l : List Nat) (f : Nat → Thread → Thread) : (s.mapThreads l f).clk = s.clk := rfl
@[simp] theorem mapThreads_clusters (s : State) (l : List Nat) (f : Nat → Thread → Thread) : (s.mapThreads l f).clusters = s.clusters := rfl
@[simp] theorem mapThreads_cores (s : State) (l : List Nat) (f : Nat → Thread → Thread) : (s.mapThreads l f).cores = s.cores := rfl
@[simp] theorem mapThreads_gangs (s : State) (l : List Nat) (f : Nat → Thread → Thread) : (s.mapThreads l f).gangs = s.gangs := rfl
@[simp] theorem mapThreads_teams (s : State) (l : List Nat) (f : Nat → Thread → Thread) : (s.mapThreads l f).teams = s.teams := rfl
@[simp] theorem mapThreads_grids (s : State) (l : List Nat) (f : Nat → Thread → Thread) : (s.mapThreads l f).grids = s.grids := rfl
@[simp] theorem mapThreads_tiles (s : State) (l : List Nat) (f : Nat → Thread → Thread) : (s.mapThreads l f).tiles = s.tiles := rfl
@[simp] theorem mapThreads_ops (s : State) (l : List Nat) (f : Nat → Thread → Thread) : (s.mapThreads l f).ops = s.ops := rfl
@[simp] theorem mapThreads_accs (s : State) (l : List Nat) (f : Nat → Thread → Thread) : (s.mapThreads l f).accs = s.accs := rfl
@[simp] theorem mapThreads_ctxs (s : State) (l : List Nat) (f : Nat → Thread → Thread) : (s.mapThreads l f).ctxs = s.ctxs := rfl
@[simp] theorem mapThreads_queues (s : State) (l : List Nat) (f : Nat → Thread → Thread) : (s.mapThreads l f).queues = s.queues := rfl
@[simp] theorem mapThreads_insts (s : State) (l : List Nat) (f : Nat → Thread → Thread) : (s.mapThreads l f).insts = s.insts := rfl
@[simp] theorem mapThreads_frames (s : State) (l : List Nat) (f : Nat → Thread → Thread) : (s.mapThreads l f).frames = s.frames := rfl
@[simp] theorem mapThreads_structs (s : State) (l : List Nat) (f : Nat → Thread → Thread) : (s.mapThreads l f).structs = s.structs := rfl
@[simp] theorem mapThreads_mgmt (s : State) (l : List Nat) (f : Nat → Thread → Thread) : (s.mapThreads l f).mgmt = s.mgmt := rfl
@[simp] theorem mapThreads_grp2 (s : State) (l : List Nat) (f : Nat → Thread → Thread) : (s.mapThreads l f).grp2 = s.grp2 := rfl
@[simp] theorem mapThreads_sched (s : State) (l : List Nat) (f : Nat → Thread → Thread) : (s.mapThreads l f).sched = s.sched := rfl

/-- What the end does when nothing faulted and nobody issues again. -/
theorem finish_clean (i : Instr) (s0 : State) (o : Out) (goes : State → Nat → Goes) (hf : o.fx = []) (hs : o.stay = []) :
    finish i s0 o goes =
      ((logUndo i s0 o.s s0.grp.threads).mapThreads s0.grp.threads (fun t x =>
          if (s0.thread t).entered.length < x.entered.length then x
          else finishThread s0.grp i (s0.guardOf t) (s0.thread t).clause (goes o.s t) (s0.nowOf t) x)).noGroup := by
  have hid : ∀ (s : State) f, s.mapThreads [] f = s := fun s f => by simp [State.mapThreads]
  have hg : (s0.grp.threads.filter fun t => !([] : List Nat).contains t) = s0.grp.threads := List.filter_eq_self.2 (by simp)
  simp only [finish, hf, hs, List.map_nil, List.append_nil, hg, hid, takeExceptions, List.isEmpty_nil, if_true, State.noGroup]

/-- A thread that goes on to the next halfword. -/
theorem finishThread_next {g : Group} {i : Instr} {act : Bool} {old : Option Clause} {now : Nat} {x : Thread} (h : x.run = .ready) :
    finishThread g i act old .next now x =
      { x with g := poisonRegs x.g (poisonNow i act ++ clausePoison g i act old), pc := g.cursor + i.len,
               clause := clauseAfter g i act old, since := now + 1 } := by
  simp [finishThread, h, poisonRegs_append]

/-! ### Effects on registers -/

/-- Running an effect that never faults and never waits is a fold over the threads. -/
theorem runThreads_done (f : State → Nat → State) (ths : List Nat) (s : State) :
    runThreads (fun s t => .done (f s t)) s ths = ⟨ths.foldl f s, [], []⟩ := by
  induction ths generalizing s with
  | nil => rfl
  | cons t ts ih => simp [runThreads, ih]

/-- A state that differs from s in the records of some threads only. -/
def OnlyThreads (s t : State) : Prop := { t with threads := [] } = { s with threads := [] }

theorem onlyThreads_modThread (s : State) (t : Nat) (f : Thread → Thread) : OnlyThreads s (s.modThread t f) := by
  unfold OnlyThreads State.modThread; split <;> rfl

theorem OnlyThreads.refl (s : State) : OnlyThreads s s := rfl

theorem OnlyThreads.trans {s t u : State} (h : OnlyThreads s t) (k : OnlyThreads t u) : OnlyThreads s u := Eq.trans k h

/-- A function of a state and a thread that reads of the threads' table nothing but that thread's record. -/
def ReadsOwn {α : Type} (f : State → Nat → α) : Prop :=
  ∀ s s' t, OnlyThreads s s' → s'.threads.get? t = s.threads.get? t → f s' t = f s t

/-- Each thread of a list without repeats has been changed by its own function, as it is at the beginning. -/
theorem foldl_modThread {F : State → Nat → Thread → Thread} (hF : ReadsOwn F) {ths : List Nat} (hn : ths.Nodup) (s : State) :
    OnlyThreads s (ths.foldl (fun st t => st.modThread t (F st t)) s) ∧
    ∀ t, (ths.foldl (fun st t => st.modThread t (F st t)) s).threads.get? t =
      if t ∈ ths then (s.threads.get? t).map (F s t) else s.threads.get? t := by
  induction ths generalizing s with
  | nil => exact ⟨rfl, fun t => by simp⟩
  | cons a l ih =>
    obtain ⟨ha, hl⟩ := List.nodup_cons.1 hn
    have h1 := onlyThreads_modThread s a (F s a)
    obtain ⟨h2, h3⟩ := ih hl (s.modThread a (F s a))
    refine ⟨h1.trans h2, fun t => ?_⟩
    rw [List.foldl_cons, h3 t, State.get?_modThread]
    by_cases hta : t = a
    · subst hta; simp [ha]
    · have hg : (s.modThread a (F s a)).threads.get? t = s.threads.get? t := by rw [State.get?_modThread, if_neg hta]
      simp only [hta, if_false, List.mem_cons, false_or]
      rw [hF s _ t h1 hg]

section Reads
variable {s s' : State} (h : OnlyThreads s s')
include h
theorem OnlyThreads.mem : s'.mem = s.mem := by have := congrArg State.mem h; exact this
theorem OnlyThreads.clk : s'.clk = s.clk := by have := congrArg State.clk h; exact this
theorem OnlyThreads.clusters : s'.clusters = s.clusters := by have := congrArg State.clusters h; exact this
theorem OnlyThreads.cores : s'.cores = s.cores := by have := congrArg State.cores h; exact this
theorem OnlyThreads.gangs : s'.gangs = s.gangs := by have := congrArg State.gangs h; exact this
theorem OnlyThreads.teams : s'.teams = s.teams := by have := congrArg State.teams h; exact this
theorem OnlyThreads.grids : s'.grids = s.grids := by have := congrArg State.grids h; exact this
theorem OnlyThreads.tiles : s'.tiles = s.tiles := by have := congrArg State.tiles h; exact this
theorem OnlyThreads.ops : s'.ops = s.ops := by have := congrArg State.ops h; exact this
theorem OnlyThreads.accs : s'.accs = s.accs := by have := congrArg State.accs h; exact this
theorem OnlyThreads.ctxs : s'.ctxs = s.ctxs := by have := congrArg State.ctxs h; exact this
theorem OnlyThreads.queues : s'.queues = s.queues := by have := congrArg State.queues h; exact this
theorem OnlyThreads.insts : s'.insts = s.insts := by have := congrArg State.insts h; exact this
theorem OnlyThreads.frames : s'.frames = s.frames := by have := congrArg State.frames h; exact this
theorem OnlyThreads.structs : s'.structs = s.structs := by have := congrArg State.structs h; exact this
theorem OnlyThreads.mgmt : s'.mgmt = s.mgmt := by have := congrArg State.mgmt h; exact this
theorem OnlyThreads.grp : s'.grp = s.grp := by have := congrArg State.grp h; exact this
theorem OnlyThreads.grp2 : s'.grp2 = s.grp2 := by have := congrArg State.grp2 h; exact this
theorem OnlyThreads.sched : s'.sched = s.sched := by have := congrArg State.sched h; exact this
end Reads

theorem ReadsOwn.comp {α β : Type} {f : State → Nat → α} (hf : ReadsOwn f) (k : α → β) : ReadsOwn fun s t => k (f s t) :=
  fun s s' t h hg => congrArg k (hf s s' t h hg)

theorem ReadsOwn.comp2 {α β γ : Type} {f : State → Nat → α} {g : State → Nat → β} (hf : ReadsOwn f) (hg : ReadsOwn g) (k : α → β → γ) :
    ReadsOwn fun s t => k (f s t) (g s t) := fun s s' t h he => by
  simp only [hf s s' t h he, hg s s' t h he]

theorem ReadsOwn.comp3 {α β γ δ : Type} {f : State → Nat → α} {g : State → Nat → β} {e : State → Nat → γ} (hf : ReadsOwn f) (hg : ReadsOwn g)
    (he : ReadsOwn e) (k : α → β → γ → δ) : ReadsOwn fun s t => k (f s t) (g s t) (e s t) := fun s s' t h h' => by
  simp only [hf s s' t h h', hg s s' t h h', he s s' t h h']

/-- What the registers of a thread are in a state that has its record. -/
theorem ReadsOwn.gr (n : Nat) : ReadsOwn fun s t => s.gr t n := by
  intro s s' t _ hg
  simp only [State.gr, State.thread, Tab.getD, hg]

theorem ReadsOwn.pr (n : Nat) : ReadsOwn fun s t => s.pr t n := by
  intro s s' t _ hg
  simp only [State.pr, State.thread, Tab.getD, hg]

theorem ReadsOwn.ur (n : Nat) : ReadsOwn fun s t => s.ur t n := by
  intro s s' t h hg
  simp only [State.ur, State.gangOf, State.gang, State.thread, Tab.getD, hg, h.gangs]

theorem ReadsOwn.mode : ReadsOwn fun s _ => s.mode := by
  intro s s' t h _
  simp only [State.mode, h.grp]

theorem ReadsOwn.ftz : ReadsOwn fun s _ => s.ftz := by
  intro s s' t h _
  simp only [State.ftz, h.grp]

theorem gr_startIssue (i : Instr) (s : State) (t n : Nat) : (startIssue i s).gr t n = s.gr t n := by
  simp only [State.gr]; rw [thread_startIssue]

theorem pr_startIssue (i : Instr) (s : State) (t n : Nat) : (startIssue i s).pr t n = s.pr t n := by
  simp only [State.pr]; rw [thread_startIssue]

theorem ur_startIssue (i : Instr) (s : State) (t n : Nat) : (startIssue i s).ur t n = s.ur t n := by
  simp only [State.ur, gangOf_startIssue]

@[simp] theorem mode_startIssue (i : Instr) (s : State) : (startIssue i s).mode = s.mode := rfl
@[simp] theorem ftz_startIssue (i : Instr) (s : State) : (startIssue i s).ftz = s.ftz := rfl

/-! ### The device outside the threads -/

theorem sameElse_trans {s t u : State} (h : SameElse s t) (k : SameElse t u) : SameElse s u :=
  ⟨k.mem.trans h.mem, k.clk.trans h.clk, k.clusters.trans h.clusters, k.cores.trans h.cores,
    k.teams.trans h.teams, k.grids.trans h.grids, k.tiles.trans h.tiles, k.ops.trans h.ops, k.accs.trans h.accs, k.ctxs.trans h.ctxs,
    k.queues.trans h.queues, k.insts.trans h.insts, k.frames.trans h.frames, k.structs.trans h.structs, k.mgmt.trans h.mgmt,
    k.second.trans h.second, k.agenda.trans h.agenda⟩

theorem sameDevice_trans {s t u : State} (h : SameDevice s t) (k : SameDevice t u) : SameDevice s u :=
  ⟨sameElse_trans h.toSameElse k.toSameElse, fun g => (k.gangs g).trans (h.gangs g)⟩

theorem sameElse_ofOnly {s t : State} (h : OnlyThreads s t) : SameElse s t :=
  ⟨h.mem, h.clk, h.clusters, h.cores, h.teams, h.grids, h.tiles, h.ops, h.accs, h.ctxs,
    h.queues, h.insts, h.frames, h.structs, h.mgmt, h.grp2, by rw [h.sched]⟩

theorem sameDevice_ofOnly {s t : State} (h : OnlyThreads s t) : SameDevice s t :=
  ⟨sameElse_ofOnly h, fun g => by simp only [State.gang, h.gangs]⟩

theorem sameDevice_ofStart (i : Instr) (s : State) : SameDevice s (startIssue i s) :=
  ⟨⟨rfl, rfl, rfl, rfl, rfl, rfl, rfl, rfl, rfl, rfl, rfl, rfl, rfl, rfl, rfl, rfl, rfl⟩, fun _ => rfl⟩

theorem sameDevice_ofThreads {s : State} (l : List Nat) (f : Nat → Thread → Thread) : SameDevice s (s.mapThreads l f).noGroup :=
  ⟨⟨rfl, rfl, rfl, rfl, rfl, rfl, rfl, rfl, rfl, rfl, rfl, rfl, rfl, rfl, rfl, rfl, rfl⟩, fun _ => rfl⟩

theorem sameDevice_ofUndo {s t : State} (h : OnlyUndo s t) : SameDevice s t := by
  have hr := h.rest
  exact ⟨⟨by have := congrArg State.mem hr; exact this, by have := congrArg State.clk hr; exact this,
    by have := congrArg State.clusters hr; exact this, by have := congrArg State.cores hr; exact this,
    by have := congrArg State.teams hr; exact this, by have := congrArg State.grids hr; exact this,
    by have := congrArg State.tiles hr; exact this, by have := congrArg State.ops hr; exact this,
    by have := congrArg State.accs hr; exact this, by have := congrArg State.ctxs hr; exact this,
    by have := congrArg State.queues hr; exact this, by have := congrArg State.insts hr; exact this,
    by have := congrArg State.frames hr; exact this, by have := congrArg State.structs hr; exact this,
    by have := congrArg State.mgmt hr; exact this, by have := congrArg State.grp2 hr; exact this,
    by have := congrArg (fun s => s.sched.agenda) hr; exact this⟩, h.gangs⟩

/-! ### Instructions that change records of their own threads only -/

/-- Nothing faults in the group when no thread has the encoding cause. -/
theorem issueTo_legal {i : Instr} {s : State} (hc : Carries s i) (eff : State → List Nat → Out) (goes : State → Nat → Goes) :
    issueTo i eff goes s = finish i (startIssue i s) (eff (startIssue i s) s.active) goes := by
  have hb : (s.grp.threads.filter fun t => encodingBad (startIssue i s) i t) = [] := by
    rw [List.filter_eq_nil_iff]
    intro t ht
    simp [encodingBad_startIssue, hc.legal t ht]
  simp only [issueTo, startIssue_grp, hb, List.map_nil, List.nil_append, active_startIssue, List.contains_nil, Bool.not_false]
  rw [List.filter_eq_self.2 (by simp)]

theorem mem_group_of_active {s : State} {t : Nat} (h : t ∈ s.active) : t ∈ s.grp.threads := (List.mem_filter.1 h).1

theorem distinct_of_carries {s : State} {i : Instr} (hc : Carries s i) : s.grp.threads.Nodup :=
  hc.lanes.imp fun {a b} h => by rintro rfl; exact Nat.lt_irrefl _ h

theorem nodup_active {s : State} {i : Instr} (hc : Carries s i) : s.active.Nodup := (distinct_of_carries hc).filter _

/-- The state after an instruction that changes the record of each thread with a true guard by F, and its other fields not. -/
structure Changed (s : State) (i : Instr) (F : Nat → Thread → Thread) (t : State) : Prop where
  group : t.grp = Group.empty
  carried : ∀ th ∈ s.grp.threads, ∀ x, s.threads.get? th = some x →
    t.threads.get? th = some (
      let y := if th ∈ s.active then F th { x with after := s.grp.cursor + i.len } else { x with after := s.grp.cursor + i.len }
      { y with g := poisonRegs y.g (poisonedBy s i th), pc := s.grp.cursor + i.len, clause := clauseAfter s.grp i (s.guardOf th) x.clause,
               since := s.nowOf th + 1 })
  others : ∀ th, th ∉ s.grp.threads → t.threads.get? th = s.threads.get? th
  device : SameDevice s t

theorem finish_carried {i : Instr} {s0 r : State} {goes : State → Nat → Goes} {th : Nat} {x : Thread}
    (hx : r.threads.get? th = some x) (hin : th ∈ s0.grp.threads) (hent : x.entered = (s0.thread th).entered) :
    (finish i s0 ⟨r, [], []⟩ goes).threads.get? th =
      some (finishThread s0.grp i (s0.guardOf th) (s0.thread th).clause (goes r th) (s0.nowOf th) x) := by
  rw [finish_clean _ _ _ _ rfl rfl, noGroup_threads, State.get?_mapThreads, (onlyUndo_logUndo i s0 r s0.grp.threads).threads, hx]
  simp [hin, hent]

theorem finish_others {i : Instr} {s0 r : State} {goes : State → Nat → Goes} {th : Nat} (hin : th ∉ s0.grp.threads) :
    (finish i s0 ⟨r, [], []⟩ goes).threads.get? th = r.threads.get? th := by
  rw [finish_clean _ _ _ _ rfl rfl, noGroup_threads, State.get?_mapThreads, (onlyUndo_logUndo i s0 r s0.grp.threads).threads]
  cases r.threads.get? th <;> simp [hin]

/-- The end of an instruction changes nothing of the device but threads and undo logs. -/
theorem finish_device (i : Instr) (s0 r : State) (goes : State → Nat → Goes) : SameDevice r (finish i s0 ⟨r, [], []⟩ goes) := by
  rw [finish_clean _ _ _ _ rfl rfl]
  exact sameDevice_trans (sameDevice_ofUndo (onlyUndo_logUndo i s0 r s0.grp.threads)) (sameDevice_ofThreads _ _)

/-- An instruction whose effect on each thread is a change of its own record that keeps it Ready and enters no handler. -/
theorem issue_changes {i : Instr} {s : State} {F : State → Nat → Thread → Thread} (hc : Carries s i) (hF : ReadsOwn F)
    (hrun : ∀ s t x, (F s t x).run = x.run) (hent : ∀ s t x, (F s t x).entered = x.entered) :
    Changed s i (F (startIssue i s)) (issue i (runThreads fun s t => .done (s.modThread t (F s t))) s) := by
  obtain ⟨ho, hget⟩ := foldl_modThread hF (nodup_active hc) (startIssue i s)
  unfold issue
  rw [issueTo_legal hc, runThreads_done]
  generalize s.active.foldl (fun st t => st.modThread t (F st t)) (startIssue i s) = r at *
  refine ⟨?_, fun th hth x hx => ?_, fun th hth => ?_, ?_⟩
  · rw [finish_clean _ _ _ _ rfl rfl]; rfl
  · obtain ⟨x', hx', hready⟩ := hc.ready th hth
    obtain rfl : x' = x := by simpa using hx'.symm.trans hx
    have hs := State.thread_of_get? hx
    have hr := hget th
    rw [get?_startIssue, hx, Option.map_some, if_pos hth] at hr
    by_cases ha : th ∈ s.active
    · rw [if_pos ha, Option.map_some] at hr
      rw [finish_carried (s0 := startIssue i s) hr hth (by rw [hent, entered_startIssue, hs]), finishThread_next (by rw [hrun]; exact hready)]
      simp [ha, poisonedBy, hs, guardOf_startIssue, nowOf_startIssue, clause_startIssue]
    · rw [if_neg ha] at hr
      rw [finish_carried (s0 := startIssue i s) hr hth (by rw [entered_startIssue, hs]),
        finishThread_next (x := { x' with after := s.grp.cursor + i.len }) hready]
      simp [ha, poisonedBy, hs, guardOf_startIssue, nowOf_startIssue, clause_startIssue]
  · have ha : th ∉ s.active := fun h => hth (mem_group_of_active h)
    rw [finish_others (s0 := startIssue i s) hth, hget th, if_neg ha, get?_startIssue]
    cases s.threads.get? th <;> simp [hth]
  · exact sameDevice_trans (sameDevice_ofStart i s) (sameDevice_trans (sameDevice_ofOnly ho) (finish_device i _ r _))

theorem gr_of_get? {s : State} {t n : Nat} {x : Thread} (h : s.threads.get? t = some x) : s.gr t n = vget x.g n 0 := by
  simp only [State.gr, State.thread_of_get? h]

theorem active_iff {s : State} {t : Nat} (h : t ∈ s.grp.threads) : t ∈ s.active ↔ s.guardOf t = true := by
  simp [State.active, h]

theorem thread_eq_of_get? {s t : State} {th : Nat} (h : t.threads.get? th = s.threads.get? th) : t.thread th = s.thread th := by
  simp only [State.thread, Tab.getD, h]

/-- The end of an instruction for a group whose threads' registers an effect has changed. -/
theorem goesOn_of_changed {s t : State} {i : Instr} {F : Nat → Thread → Thread} (hc : Carries s i) (h : Changed s i F t)
    (hrun : ∀ th x, (F th x).run = x.run) : GoesOn s i t := by
  refine ⟨h.group, fun th hth => ?_, fun th hth => ?_, fun th hth => ?_⟩ <;> obtain ⟨x, hx, hr⟩ := hc.ready th hth <;>
    rw [State.thread_of_get? (h.carried th hth x hx)]
  · dsimp only
    split <;> simp [hrun, hr]
  · rw [State.thread_of_get? hx]

/-- An effect that sets registers `ws` and no others of the threads with a true guard. -/
theorem regFrame_of_changed {s t : State} {i : Instr} {F : Nat → Thread → Thread} (hc : Carries s i) (h : Changed s i F t)
    (ws : Nat → List Nat) (hF : ∀ th x r, th ∈ s.active → r ∉ ws th → vget (F th x).g r 0 = vget x.g r 0) : RegFrame s i ws t := by
  refine ⟨fun th hth r hr hp => ?_, fun th hth r hr h64 => ?_, fun th hth => thread_eq_of_get? (h.others th hth)⟩ <;>
    obtain ⟨x, hx, _⟩ := hc.ready th hth <;> rw [gr_of_get? (h.carried th hth x hx)]
  · dsimp only
    rw [vget_poisonRegs_notMem hp, gr_of_get? hx]
    split
    · exact hF th _ r ‹_› hr
    · rfl
  · dsimp only
    exact vget_poisonRegs_mem hr h64

/-- Threads of the group keep everything that an effect keeps, whatever the end of the instruction does. -/
theorem keeps_of_changed {α : Type} {s t : State} {i : Instr} {F : Nat → Thread → Thread} (hc : Carries s i) (h : Changed s i F t)
    (k : Thread → α) (hF : ∀ th x, k (F th x) = k x)
    (hk : ∀ (x : Thread) g pc cl n a, k { x with g := g, pc := pc, clause := cl, since := n } = k x ∧ k { x with after := a } = k x) (th : Nat) :
    k (t.thread th) = k (s.thread th) := by
  by_cases hg : th ∈ s.grp.threads
  · obtain ⟨x, hx, _⟩ := hc.ready th hg
    rw [State.thread_of_get? (h.carried th hg x hx), State.thread_of_get? hx]
    dsimp only
    rw [(hk _ _ _ _ _ 0).1]
    split
    · rw [hF, (hk x x.g 0 none 0 _).2]
    · rw [(hk x x.g 0 none 0 _).2]
  · rw [thread_eq_of_get? (h.others th hg)]

theorem writesReg_of_changed {s t : State} {i : Instr} {d : Reg} {v : Nat → Word} (hc : Carries s i) (hw : written i.uses = [d.val])
    (h : Changed s i (fun th x => { x with g := vset x.g d.val (v th) }) t) : WritesReg s i d.val v t := by
  refine ⟨goesOn_of_changed hc h fun _ _ => rfl, fun th hth => ?_, regFrame_of_changed hc h _
    fun th x r hth hr => ?_, keeps_of_changed hc h (·.p) (fun _ _ => rfl) fun _ _ _ _ _ _ => ⟨rfl, rfl⟩,
    keeps_of_changed hc h threadRest (fun _ _ => rfl) fun _ _ _ _ _ _ => ⟨rfl, rfl⟩, h.device⟩
  · have hg := mem_group_of_active hth
    obtain ⟨x, hx, _⟩ := hc.ready th hg
    rw [gr_of_get? (h.carried th hg x hx)]
    simp only [hth, if_true]
    rw [vget_poisonRegs_notMem, vget_vset_self _ _ d.isLt]
    exact notMem_poison_of_wrote (by simp [wroteRegs, (active_iff hg).1 hth, hw])
  · simp only [hth, if_true, List.mem_singleton] at hr
    exact vget_vset_ne _ _ hr

/-- What an instruction that writes one general register does (R258, R262). -/
theorem regOp_writes {i : Instr} {d : Reg} {f : State → Nat → Word} {s : State} (hc : Carries s i) (hf : ReadsOwn f)
    (hs : ∀ t, f (startIssue i s) t = f s t) (hw : written i.uses = [d.val]) :
    ∃ t, regOp i d f s = .next t ∧ WritesReg s i d.val (f s) t := by
  have h := issue_changes hc (F := fun s t x => { x with g := vset x.g d.val (f s t) })
    (fun s s' t ho hg => by simp only [hf s s' t ho hg]) (fun _ _ _ => rfl) (fun _ _ _ => rfl)
  simp only [hs] at h
  exact ⟨_, rfl, writesReg_of_changed hc hw h⟩

end Sys2Proof.Machine
end

