-- ==== Sys2Proof/Tests/Slice0.lean ====
section
/-! SUPPORT. Tests: words that the spec writes out decode to their instructions, ill-formed instructions are refused, the
hypotheses of every statement can be met, and a few steps give the results of the spec's examples. -/

open Sys2Proof Sys2Proof.Machine Sys2Proof.Claims

-- One theorem after the other: their kernel evaluations side by side would take a thread's stack each.
set_option Elab.async false


/-! ### The witness state -/

namespace Sys2Proof.Tests

/-- One thread of a gang of width 8 in a resident team on core 0 of context 1, its group behind a clause header (see
`State.loaded`); registers 0, 4,096 bytes of local memory from key 2^63. -/
def W : State :=
  { State.reset.loaded 0 with grp := { Group.empty with core := 0, threads := [1], pc := placedPc, cursor := placedPc + 4, started := true } }

/-- The same with some registers of the thread set. -/
def regs (s : State) (l : List (Nat × Word)) : State := l.foldl (fun st e => st.setG 1 e.1 e.2) s

/-- The same with other fields of the thread, its gang, its team. -/
def withThread (s : State) (f : Thread → Thread) : State := s.modThread 1 f
def withGang (s : State) (f : Gang → Gang) : State := s.modGang 1 f
def withTeam (s : State) (f : Team → Team) : State := s.modTeam 1 f

/-- A state whose group holds thread 1 alone, Ready in gang 1, carries every instruction without an encoding cause for it. -/
theorem carries {s : State} (i : Instr) (hg : s.grp.threads = [1]) (hr : (s.threads.get? 1).map (·.run) = some .ready)
    (hk : (s.gangs.get? (s.thread 1).gang).isSome = true) (he : encodingBad s i 1 = false) : Carries s i := by
  constructor
  · rw [hg]; exact List.pairwise_singleton _ _
  · intro th h
    rw [hg, List.mem_singleton] at h
    subst h
    cases hx : s.threads.get? 1 with
    | none => rw [hx] at hr; cases hr
    | some x => rw [hx] at hr; exact ⟨x, rfl, Option.some.inj hr⟩
  · intro th h
    rw [hg, List.mem_singleton] at h
    subst h
    exact Option.isSome_iff_exists.1 hk
  · intro th h
    rw [hg, List.mem_singleton] at h
    subst h
    exact he

theorem carriesW (i : Instr) (he : encodingBad W i 1 = false) : Carries W i := carries i rfl rfl rfl he

/-- A goal about every thread of a list of one. -/
theorem all_one {α : Type} {p : α → Prop} {l : List α} {a : α} (hl : l = [a]) (h : p a) : ∀ th ∈ l, p th := by
  intro th ht
  rw [hl, List.mem_singleton] at ht
  exact ht ▸ h

/-- What holds of every record of a table and of the default holds of what a number names. -/
theorem getD_of {α : Type} {p : α → Prop} {d : α} (k : Nat) (hd : p d) : ∀ {l : Tab α}, (∀ e ∈ l, p e.2) → p (l.getD k d)
  | [], _ => hd
  | (k', v) :: t, h => by
    unfold Tab.getD Tab.get?
    split
    · exact h _ List.mem_cons_self
    · exact getD_of k hd fun e he => h e (List.mem_cons_of_mem _ he)

/-- Where every listed thread is Ready, none is Blocked. -/
theorem not_blocked {s : State} (h : ∀ e ∈ s.threads, e.2.run = .ready) (th : Nat) (w : Why) : (s.thread th).run ≠ .blocked w :=
  getD_of (p := fun x : Thread => x.run ≠ .blocked w) th (fun hw => nomatch (rfl : Thread.none.run = .exited).symm.trans hw) fun e he hw => nomatch (h e he).symm.trans hw

/-- Operands used by the witnesses. -/
def o3 : Op3 := ⟨.w32, .none, 7, .none, 6, 5⟩
def o3F : Op3F := ⟨.f32, .none, 7, .none, 6, 5⟩
def o3X : Op3X := ⟨.none, 7, .none, 6, 5⟩
def o2 : Op2 := ⟨.none, 6, 5⟩
def oAB : OpAB := ⟨.none, 7, .none, 6⟩
def o2W : Op2W := ⟨.w32, .none, 6, 5⟩
def o2F : Op2F := ⟨.f32, .none, 6, 5⟩
def oI : OpI := ⟨-1, .none, 6, 5⟩
def oL : OpL := ⟨0xBEEF, 3, 5⟩
def oSh : OpSh := ⟨.w16, 15, .none, 6, 5⟩
def oCmp : OpCmp := ⟨1, .lt, 7, .none, 6, .none, true⟩
def oShfli : OpShfli := ⟨.w8, 7, .none, 6, 5⟩
def oRed : OpRed := ⟨.s32, .none, 6, 5⟩
def oU3 : OpU3 := ⟨.none, 31, .none, 30, 29⟩
def oUI : OpUI := ⟨-512, .none, 30, 29⟩
def oUL : OpUL := ⟨0xBEEF, 3, 29⟩
def oS : OpS := ⟨31, 63⟩
def oSI : OpSI := ⟨-16, 63⟩
def oVote : OpVote := ⟨15, 0⟩

/-! ### Lane instructions: the hypotheses of their statements hold -/

theorem witness_IntegerOperations : ∃ f, (Instr.add o3, f) ∈ integerTable o3 o3.wid.size ∧ Carries W (.add o3) :=
  ⟨_, List.mem_cons_self, carriesW _ (by decide)⟩

theorem witness_BitCounts : ∃ f, (Instr.popc o2W, f) ∈ bitCountTable o2W o2W.wid.size ∧ Carries W (.popc o2W) :=
  ⟨_, List.mem_cons_self, carriesW _ (by decide)⟩

theorem witness_Immediates_words : ∃ d f, (Instr.addImm oI, d, f) ∈ immediateTable oI oL ∧ Carries W (.addImm oI) :=
  ⟨_, _, List.mem_cons_self, carriesW _ (by decide)⟩

theorem witness_Immediates_shifts : ∃ f, (Instr.shlImm oSh, f) ∈ shiftTable oSh oSh.wid.size ∧ Carries W (.shlImm oSh) :=
  ⟨_, List.mem_cons_self, carriesW _ (by decide)⟩

theorem witness_SelectWritesEveryThread : Carries W (.sel o3X) := carriesW _ (by decide)

theorem witness_FloatArithmetic : ∃ f, (Instr.addF o3F, f) ∈ floatTable o3F W.mode ∧ Carries W (.addF o3F) :=
  ⟨_, List.mem_cons_self, carriesW _ (by decide)⟩

theorem witness_ClassAndRound : Carries W (.classOp o2F) ∧ Carries W (.rnd o2F) := ⟨carriesW _ (by decide), carriesW _ (by decide)⟩

theorem witness_Compares : ∃ f, (Instr.cmpS oCmp, f) ∈ compareTable oCmp ∧ Carries W (.cmpS oCmp) :=
  ⟨_, List.mem_cons_self, carriesW _ (by decide)⟩

theorem witness_plop : Carries W (.plop ⟨0x80, 15, 15, 15, 0⟩) := carriesW _ (by decide)

theorem witness_Conversions : Carries W (.cvt ⟨.e2m1, .f32, .none, 6, 5⟩) := carriesW _ (by decide)

theorem witness_SpecialFunctions_float : ∃ f, (Instr.rcp o2F, f) ∈ specialTable o2F W.mode W.ftz ∧ Carries W (.rcp o2F) :=
  ⟨_, List.mem_cons_self, carriesW _ (by decide)⟩

theorem witness_SpecialFunctions_log : ∃ d f, (Instr.tolog o2F, d, f) ∈ logTable o2F o2 o3X W ∧ Carries W (.tolog o2F) :=
  ⟨_, _, List.mem_cons_self, carriesW _ (by decide)⟩

theorem witness_ShortForms_words : ∃ f, (Instr.add16 oS, f) ∈ shortTable oS ∧ Carries W (.add16 oS) :=
  ⟨_, List.mem_cons_self, carriesW _ (by decide)⟩

theorem witness_ShortForms_immediates : ∃ f, (Instr.addi16 oSI, f) ∈ shortImmTable oSI ∧ Carries W (.addi16 oSI) :=
  ⟨_, List.mem_cons_self, carriesW _ (by decide)⟩

theorem witness_ShortForms_floats : ∃ fmt f, (Instr.fadd16 oS, fmt, f) ∈ shortFloatTable oS W.mode ∧ Carries W (.fadd16 oS) :=
  ⟨_, _, List.mem_cons_self, carriesW _ (by decide)⟩

/-! ### Control transfer and joins -/

theorem witness_NopGoesOn : Carries W .nop := carriesW _ (by decide)

theorem witness_bra : Carries W (.bra ⟨0x10000, false, 15, .none⟩) := carriesW _ (by decide)


theorem witness_call : Carries W (.call ⟨0x20000, 5⟩) := carriesW _ (by decide)

theorem witness_jmp : Carries W (.jmp ⟨.none, .none, 6⟩) ∧ ∀ th ∈ W.active, jumpable (W.gr th 6) :=
  ⟨carriesW _ (by decide), all_one (a := 1) rfl ⟨by decide, by decide⟩⟩

/-- A second thread of the same gang, Ready elsewhere, so that its team still runs. -/
def W2 : State :=
  { W with
    threads := W.threads.set 2 { placedThread with pos := 1, tid := 1 }
    gangs := W.gangs.set 1 { placedGang with at_ := [some 1, some 2] ++ List.replicate 6 none } }

theorem carriesW2 (i : Instr) (he : encodingBad W2 i 1 = false) : Carries W2 i := carries i rfl rfl rfl he

/-- No join of a gang is Open: it stays so. -/
theorem staysOpen_of_idle {s : State} {g : Nat} {off : List Nat} (h : ∀ n < (s.gang g).jcount, (joinOf s g n).st ≠ .opened) : StaysOpen s g off :=
  fun n hn ho => absurd ho (h n hn)

theorem witness_ExitEndsThreads : Carries W2 .exit ∧
    ∀ th ∈ W2.active, (W2.thread th).entered = [] ∧ (W2.thread th).region = none ∧ (W2.thread th).query = none ∧ itemsOf W2 th = [] ∧
      StaysOpen W2 (W2.thread th).gang W2.active ∧ (W2.teamIdOf th = 0 ∨ hasCards W2 (W2.teamIdOf th) = false ∧
        ∃ u ∈ teamThreads W2 (W2.teamIdOf th), u ∉ W2.active ∧ (W2.thread u).run = .ready) :=
  ⟨carriesW2 _ (by decide), all_one (a := 1) rfl
    ⟨rfl, rfl, rfl, rfl, staysOpen_of_idle (by decide), Or.inr ⟨by decide, 2, by decide, by decide, rfl⟩⟩⟩

/-- Only gang 1 has a participant. -/
theorem only_gang {s : State} (ha : s.active = [1]) (hg : (s.thread 1).gang = 1) {g : Nat} (h : participants s g ≠ []) : g = 1 := by
  by_cases hgg : g = 1
  · exact hgg
  · refine absurd ?_ h
    simp [participants, inGang, ha, hg, Ne.symm hgg]

theorem witness_JsetDeclares : Carries W (.jset ⟨7, .none, 6⟩) ∧
    ∀ g, participants W g ≠ [] → (joinOf W g 7).sigs = [] ∧ NoWaiters W g ∧ (7 : JReg).val < (W.gang g).joins.length ∧
      (W.team (W.gang g).team).res = .resident :=
  ⟨carriesW _ (by decide), fun g h => by rw [only_gang rfl rfl h]; exact ⟨rfl, all_one (a := 1) rfl rfl, by decide, rfl⟩⟩

/-- Join 0 of the gang Open, expecting positions 0 and 1. -/
def WOpen : State := { W2 with gangs := W2.gangs.set 1 { W2.gang 1 with joins := ⟨.opened, 3, 0, []⟩ :: List.replicate 7 .idle } }

theorem witness_JarriveRecords : Carries WOpen (.jarrive 0) ∧ (joinOf WOpen 1 0).st = .opened ∧ participants WOpen 1 ≠ [] ∧
    ∀ g, participants WOpen g ≠ [] → (joinOf WOpen g 0).sigs = [] ∧ NoWaiters WOpen g ∧ (0 : JReg).val < (WOpen.gang g).joins.length ∧
      (WOpen.team (WOpen.gang g).team).res = .resident :=
  ⟨carries _ rfl rfl rfl (by decide), rfl, by decide, fun g h => by
    rw [only_gang rfl rfl h]
    refine ⟨rfl, ?_, by decide, rfl⟩
    intro th ht
    have : th = 1 ∨ th = 2 := by simpa using (show th ∈ [1, 2] from ht)
    rcases this with rfl | rfl <;> rfl⟩

theorem witness_jwait_reads : Carries W (.jwait ⟨7, 0⟩) ∧ ∀ g, participants W g ≠ [] → (joinOf W g 7).st ≠ .opened ∧ StaysOpen W g [] :=
  ⟨carriesW _ (by decide), fun g h => by rw [only_gang rfl rfl h]; exact ⟨by decide, staysOpen_of_idle (by decide)⟩⟩

theorem witness_jwait_blocks : Carries WOpen (.jwait ⟨0, 15⟩) ∧
    ∀ g, participants WOpen g ≠ [] → (joinOf WOpen g 0).st = .opened ∧ StaysOpen WOpen g WOpen.active :=
  ⟨carries _ rfl rfl rfl (by decide), fun g h => by
    rw [only_gang rfl rfl h]
    refine ⟨rfl, fun n hn ho => ?_⟩
    have h0 : n = 0 := by
      have : ∀ n < 8, (joinOf WOpen 1 n).st = .opened → n = 0 := by decide
      exact this n hn ho
    subst h0
    exact ⟨1, by decide, 2, rfl, by decide, by decide, by decide⟩⟩

/-! ### Cross-lane and uniform instructions -/

theorem witness_Shuffles : ∃ w d a src, (Instr.shfl o3, w, d, a, src) ∈ shuffleTable o3 oShfli W ∧ Carries W (.shfl o3) :=
  ⟨_, _, _, _, List.mem_cons_self, carriesW _ (by decide)⟩

theorem witness_shfli : ∃ w d a src, (Instr.shfliIdx oShfli, w, d, a, src) ∈ shuffleTable o3 oShfli W ∧ Carries W (.shfliIdx oShfli) :=
  ⟨_, _, _, _, List.mem_cons_of_mem _ List.mem_cons_self, carriesW _ (by decide)⟩

theorem witness_bcast : Carries W (.bcast ⟨63, .none, 6, 5⟩) := carriesW _ (by decide)
theorem witness_ballot : Carries W (.ballot ⟨15, 5⟩) := carriesW _ (by decide)
theorem witness_match : Carries W (.matchOp o2W) := carriesW _ (by decide)

theorem witness_vote : ∃ f, (Instr.voteAny oVote, f) ∈ voteTable oVote ∧ Carries W (.voteAny oVote) :=
  ⟨_, List.mem_cons_self, carriesW _ (by decide)⟩

theorem witness_Reductions : ∃ f, (Instr.reduceAdd oRed, f) ∈ reduceTable oRed W.mode W.ftz ∧ Carries W (.reduceAdd oRed) :=
  ⟨_, by simp [reduceTable]; rfl, carriesW _ (by decide)⟩

theorem witness_xmov : Carries W (.xmovG ⟨.none, 31, 5⟩) ∧ Carries W (.xmovW ⟨.none, 6, 31⟩) := ⟨carriesW _ (by decide), carriesW _ (by decide)⟩

theorem witness_uniform : ∃ d f, (Instr.addU oU3, d, f) ∈ uniformTable oU3 oUI oUL ∧ Carries W (.addU oU3) :=
  ⟨_, _, List.mem_cons_self, carriesW _ (by decide)⟩

/-! ### Memory -/

theorem alone {s : State} {i : Instr} (hc : Carries s i) (ha : s.active = [1]) (hp : s.accsOf 1 = []) (hd : s.sched.defer = []) : Alone s i 1 :=
  ⟨hc, ha, hp, hd⟩

theorem aloneW (i : Instr) (he : encodingBad W i 1 = false) : Alone W i 1 := ⟨carriesW i he, rfl, rfl, rfl⟩

/-- Loads: a plain load of a global byte, and a consuming load of a granule of local memory that is full. -/
def ldg : OpLd := ⟨0, .plain, .gl, .none, 6, 5⟩
def ldf : OpLd := ⟨31, .fec, .lo, .none, 6, 5⟩
def WFull : State := { W with mem := { W.mem with full := [2 ^ 63 + 240] } }

theorem witness_loads_global : ∃ z f s1 k, (Instr.ldS8 ldg, z, f) ∈ loadTable ldg ∧ LoadsAt W (.ldS8 ldg) 1 ldg.q ldg.sp (address (W.gr 1 6) ldg.off z) z s1 k :=
  ⟨1, _, _, 0, List.mem_cons_self, ⟨aloneW _ (by decide), by decide, rfl, by decide, by decide, by decide⟩⟩

theorem witness_loads_consume : ∃ z f s1 k, (Instr.ldB64 ldf, z, f) ∈ loadTable ldf ∧
    LoadsAt WFull (.ldB64 ldf) 1 ldf.q ldf.sp (address (WFull.gr 1 6) ldf.off z) z s1 k :=
  ⟨8, _, _, 2 ^ 63 + 248, by simp [loadTable]; rfl, ⟨alone (carries _ rfl rfl rfl (by decide)) rfl rfl rfl, by decide, rfl, by decide, by decide, by decide⟩⟩


theorem witness_loads_quad : ∃ s1 k, LoadsAt W (.ldq ⟨31, .acq, .lo, .none, 6, 31⟩) 1 .acq .lo (address (W.gr 1 6) (31 : BitVec 6) 16) 16 s1 k :=
  ⟨_, 2 ^ 63 + 496, ⟨aloneW _ (by decide), by decide, rfl, by decide, by decide, by decide⟩⟩

/-- A consuming load of an empty granule. -/
theorem witness_loads_block : ∃ z f, (Instr.ldB64 ldf, z, f) ∈ loadTable ldf ∧ Alone W (.ldB64 ldf) 1 ∧ ldf.q = .fec ∧
    address (W.gr 1 ldf.a) ldf.off z % z = 0 ∧ keyNow (startIssue (.ldB64 ldf) W) 1 ldf.sp (address (W.gr 1 ldf.a) ldf.off z) z = some (2 ^ 63 + 248) ∧
    granuleFull W (2 ^ 63 + 248) = false ∧ beforeFill W (2 ^ 63 + 248) = none :=
  ⟨8, _, by simp [loadTable]; rfl, aloneW _ (by decide), rfl, by decide, by rfl, by decide, by decide⟩

def ldl : OpLd := ⟨0, .plain, .lo, .none, 6, 5⟩

theorem witness_LocalLoadsOfAGroup : ∃ z f, (Instr.ldS8 ldl, z, f) ∈ loadTable ldl ∧ Carries W (.ldS8 ldl) ∧ ldl.sp = .lo ∧ ldl.q = .plain ∧
    W.sched.defer = [] ∧ ∀ th ∈ W.active, W.accsOf th = [] ∧ address (W.gr th ldl.a) ldl.off z % z = 0 ∧
      localKey W th (address (W.gr th ldl.a) ldl.off z) z = some (2 ^ 63) ∧ isSram (2 ^ 63) = true ∧ poisonFlt W (2 ^ 63) z = none :=
  ⟨1, _, List.mem_cons_self, carriesW _ (by decide), rfl, rfl, rfl, all_one (a := 1) rfl ⟨rfl, by decide, by decide, by decide, by decide⟩⟩

def ldrl : Instr := .ldrl ⟨.lo, .none, 7, .none, 6, 1⟩

theorem witness_realignWords : (realignWords (startIssue ldrl W) 1 .lo (W.gr 1 6).toNat (32 * (W.gr 1 7).toNat / 21)
    (realignRange (W.gr 1 7).toNat)).2 = .ok [0, 0] := by rfl

theorem witness_RealigningLoad : ∃ s1 ws, Alone W ldrl 1 ∧ (W.gr 1 6).toNat % 16 = 0 ∧
    rejectedAtIssue (startIssue ldrl W) 1 .lo (W.gr 1 6).toNat 48 = false ∧
    realignWords (startIssue ldrl W) 1 .lo (W.gr 1 6).toNat (32 * (W.gr 1 7).toNat / 21) (realignRange (W.gr 1 7).toNat) = (s1, .ok ws) :=
  ⟨_, _, aloneW _ (by decide), by decide, by decide, (Prod.eta _).symm.trans (congrArg _ witness_realignWords)⟩

/-- Stores: a releasing store to global memory, a fill store. -/
def stg : OpSt := ⟨0, .rel, .none, .gl, .none, 6, 7⟩
def stf : OpSt := ⟨7, .fill, .none, .lo, .none, 6, 7⟩
def stl : OpSt := ⟨7, .plain, .none, .lo, .none, 6, 7⟩

theorem witness_stores_global : ∃ z s1 k, (Instr.stB8 stg, z) ∈ storeTable stg ∧ StoresAt W (.stB8 stg) 1 stg.sp (address (W.gr 1 6) stg.off z) z s1 k :=
  ⟨1, _, 0, List.mem_cons_self, ⟨aloneW _ (by decide), by decide, rfl, by decide, by decide, by decide, by decide, nofun⟩⟩

theorem witness_stores_fill : ∃ z s1 k, (Instr.stB64 stf, z) ∈ storeTable stf ∧ StoresAt W (.stB64 stf) 1 stf.sp (address (W.gr 1 6) stf.off z) z s1 k :=
  ⟨8, _, 2 ^ 63 + 56, by simp [storeTable], ⟨aloneW _ (by decide), by decide, rfl, by decide, by decide, by decide, by decide, nofun⟩⟩

theorem witness_stores_quad : ∃ s1 k, StoresAt W (.stq ⟨7, .fill, .none, .lo, .none, 6, 31⟩) 1 .lo (address (W.gr 1 6) (7 : BitVec 4) 16) 16 s1 k :=
  ⟨_, 2 ^ 63 + 112, ⟨aloneW _ (by decide), by decide, rfl, by decide, by decide, by decide, by decide, nofun⟩⟩

theorem witness_LocalStoresOfAGroup : ∃ z, (Instr.stB8 stl, z) ∈ storeTable stl ∧ Carries W (.stB8 stl) ∧ stl.sp = .lo ∧ stl.q ≠ .fill ∧
    W.sched.defer = [] ∧ IssuedBefore W ∧ ∀ th ∈ W.active, W.accsOf th = [] ∧ address (W.gr th stl.a) stl.off z % z = 0 ∧
      localKey W th (address (W.gr th stl.a) stl.off z) z = some (2 ^ 63 + 7) ∧ isSram (2 ^ 63 + 7) = true :=
  ⟨1, List.mem_cons_self, carriesW _ (by decide), rfl, by decide, rfl, nofun, all_one (a := 1) rfl ⟨rfl, by decide, by decide, by decide⟩⟩

/-- A failing and a storing compare-and-swap are one form; an add without a result is the other. -/
def cas : OpAtom := ⟨.ar, .lo, true, .cas, .none, 6, .none, 4⟩
def ared : OpAtom := ⟨.none, .gl, false, .addF, .none, 6, .none, 4⟩

theorem witness_atom : ∃ s1 k, Alone W (.atom cas) 1 ∧ resolve (startIssue (.atom cas) W) 1 (spaceOf cas.sp) (W.gr 1 6).toNat 8 .store = (s1, .ok k) ∧
    rejectedAtIssue (startIssue (.atom cas) W) 1 (spaceOf cas.sp) (W.gr 1 6).toNat 8 = false ∧ isView k = false ∧
    (W.gr 1 6).toNat % 8 = 0 ∧ isPeer k = false ∧ poisonFlt s1 k 8 = none :=
  ⟨_, 2 ^ 63, aloneW _ (by decide), rfl, by decide, by decide, by decide, by decide, by decide⟩

theorem witness_ared : ∃ s1 k, Alone W (.ared ared) 1 ∧ resolve (startIssue (.ared ared) W) 1 (spaceOf ared.sp) (W.gr 1 6).toNat 4 .store = (s1, .ok k) ∧
    rejectedAtIssue (startIssue (.ared ared) W) 1 (spaceOf ared.sp) (W.gr 1 6).toNat 4 = false ∧ isView k = false ∧
    (W.gr 1 6).toNat % 4 = 0 ∧ isPeer k = false ∧ poisonFlt s1 k 4 = none :=
  ⟨_, 0, aloneW _ (by decide), rfl, by decide, by decide, by decide, by decide, by decide⟩

theorem witness_fences : Carries W .fenceRel ∧ Carries W (.pref ⟨31, .tr, .gl, .none, 6⟩) ∧ Carries W .fenceAcq ∧ Carries W .fenceAr :=
  ⟨carriesW _ (by decide), carriesW _ (by decide), carriesW _ (by decide), carriesW _ (by decide)⟩

/-! ### Barriers, barrier objects and waits -/

theorem witness_BarriersBlock : Carries W2 .bar ∧ Carries W2 .barG ∧
    ∀ th ∈ W2.active, (W2.thread th).entered = [] ∧ hasCards W2 (W2.teamIdOf th) = false ∧
      ∃ u ∈ teamThreads W2 (W2.teamIdOf th), u ∉ W2.active ∧ (W2.thread u).run = .ready :=
  ⟨carriesW2 _ (by decide), carriesW2 _ (by decide), all_one (a := 1) rfl ⟨rfl, by decide, 2, by decide, by decide, rfl⟩⟩

theorem witness_LastArrivalOpensTheBarrier : Carries W .bar ∧ W.active ≠ [] ∧ W.teams.get? 1 = some placedTeam ∧ placedTeam.waves = [] ∧
    (∀ th ∈ W.active, W.teamIdOf th = 1 ∧ th ∈ teamThreads W 1 ∧ (W.thread th).entered = []) ∧ hasCards W 1 = false ∧
    ∀ u ∈ teamThreads W 1, u ∈ W.active ∨ (W.thread u).run = .exited ∨ (W.thread u).atBar = true :=
  ⟨carriesW _ (by decide), by decide, rfl, rfl, all_one (a := 1) rfl ⟨rfl, by decide, rfl⟩, by decide, all_one (a := 1) rfl (Or.inl (by decide))⟩

/-- A thread Blocked at a barrier whose wave is due. -/
def WWave : State :=
  { W with threads := W.threads.set 1 { placedThread with run := .blocked (.bar false) }
           teams := W.teams.set 1 { placedTeam with waves := [(0, [1])] } }

theorem witness_BarrierWavesDepart : ∃ T, WWave.teams.get? 1 = some T ∧ T.res = .resident ∧ (0, [1]) ∈ T.waves ∧
    0 ≤ WWave.nowAt (T.cores.head?.getD 0) ∧ 1 ∈ threadsOf (WWave.gang 1) ∧ (WWave.thread 1).atBar = true ∧ WWave.threads.get? 1 ≠ none :=
  ⟨_, rfl, rfl, by decide, by decide, by decide, rfl, by decide⟩

/-- A barrier object at local address 0 that awaits 2 arrivals. -/
def WObj : State := { W with mem := { W.mem with cells := writeCells W.mem.cells (2 ^ 63 + 4) [2] } }

theorem witness_bobj_arrive : Alone WObj (.bobjArrive o2) 1 ∧ bobjKey WObj 1 (WObj.gr 1 o2.a) = .ok (2 ^ 63) ∧ windowsAt WObj (2 ^ 63) = [] ∧
    (readBobj WObj (2 ^ 63)).arrive ≠ 0 ∧ (readBobj WObj (2 ^ 63)).bytes + (0 : Nat) ≤ 2 ^ 31 - 1 :=
  ⟨alone (carries _ rfl rfl rfl (by decide)) rfl rfl rfl, by rfl, by decide, by decide, by decide⟩

theorem witness_bobj_expect : Alone WObj (.bobjExpect o3X) 1 ∧ bobjKey WObj 1 (WObj.gr 1 o3X.a) = .ok (2 ^ 63) ∧ windowsAt WObj (2 ^ 63) = [] ∧
    (readBobj WObj (2 ^ 63)).arrive ≠ 0 ∧ (readBobj WObj (2 ^ 63)).bytes + ((WObj.gr 1 o3X.b).toNat % 2 ^ 32 : Nat) ≤ 2 ^ 31 - 1 :=
  ⟨alone (carries _ rfl rfl rfl (by decide)) rfl rfl rfl, by rfl, by decide, by decide, by decide⟩

theorem witness_bobj_init : Alone W (.bobjInit oAB) 1 ∧ bobjKey W 1 (W.gr 1 oAB.a) = .ok (2 ^ 63) :=
  ⟨aloneW _ (by decide), by rfl⟩

/-- A wait on a word that is equal to B, and one that waits for a greater one. -/
theorem witness_waits_hold : ∃ w f s1 k, (Instr.waitaGe o3X, w, f) ∈ waitTable o3X ∧ Alone W (.waitaGe o3X) 1 ∧ (W.gr 1 6).toNat % 8 = 0 ∧
    resolve (startIssue (.waitaGe o3X) W) 1 .gl (W.gr 1 6).toNat 8 .load = (s1, .ok k) ∧ poisonFlt s1 k 8 = none ∧
    f (BitVec.ofNat 64 (readNat s1.mem.cells k 8)) (W.gr 1 7) = true :=
  ⟨_, _, _, 0, List.mem_cons_self, aloneW _ (by decide), by decide, rfl, by decide, by decide⟩

def WWait : State := regs W [(7, 1)]

theorem witness_waits_block : ∃ w f s1 k, (Instr.waitaGe o3X, w, f) ∈ waitTable o3X ∧ Alone WWait (.waitaGe o3X) 1 ∧ (WWait.gr 1 6).toNat % 8 = 0 ∧
    resolve (startIssue (.waitaGe o3X) WWait) 1 .gl (WWait.gr 1 6).toNat 8 .load = (s1, .ok k) ∧ poisonFlt s1 k 8 = none ∧
    f (BitVec.ofNat 64 (readNat s1.mem.cells k 8)) (WWait.gr 1 7) = false :=
  ⟨_, _, _, 0, List.mem_cons_self, alone (carries _ rfl rfl rfl (by decide)) rfl rfl rfl, by decide, rfl, by decide, by decide⟩

theorem witness_waitaPhase : Alone WWait (.waitaPhase o3X) 1 ∧ bobjKey WWait 1 (WWait.gr 1 6) = .ok (2 ^ 63) ∧ poisonFlt WWait (2 ^ 63) 16 = none ∧
    (readBobj WWait (2 ^ 63)).phase ≠ (WWait.gr 1 7).getLsbD 0 ∧ (readBobj W (2 ^ 63)).phase = (W.gr 1 7).getLsbD 0 :=
  ⟨alone (carries _ rfl rfl rfl (by decide)) rfl rfl rfl, by rfl, by decide, by decide, by decide⟩

/-- A thread Blocked on a phase that has turned. -/
def WRetest : State := withThread W fun x => { x with run := .blocked (.waitaPhase 0 1 5) }

theorem witness_waita_retest : ∃ x, WRetest.threads.get? 1 = some x ∧ x.run = .blocked (.waitaPhase 0 1 5) ∧ (WRetest.teamOf 1).res = .resident ∧
    bobjKey WRetest 1 0 = .ok (2 ^ 63) ∧ poisonFlt WRetest (2 ^ 63) 16 = none ∧ 5 < 64 ∧ 5 ∉ x.hintNow ∧ 5 ∉ x.hintEnd ∧
    (readBobj WRetest (2 ^ 63)).phase ≠ (1 : Word).getLsbD 0 :=
  ⟨_, rfl, rfl, rfl, by rfl, by decide, by decide, by decide, by decide, by decide⟩

/-- Handle 1 names a tile of two chunks, of which one is filled. -/
def tile2 : Tile := ⟨0, 1, [510, 511], 1, [], false, 0, some 1, false⟩
def WTile : State := { withGang W fun x => { x with h := x.h.set 1 (some 9) } with tiles := [(9, tile2)] }

theorem witness_waitm : (∀ v : Word, v = 1 ∨ v = 3 → Carries (regs WTile [(6, v)]) (.waitm ⟨.none, 6, 1⟩)) ∧
    (∀ v : Word, v = 1 ∨ v = 3 → ∀ th ∈ (regs WTile [(6, v)]).active, vget ((regs WTile [(6, v)]).gangOf th).h 1 none = some 9 ∧
      (regs WTile [(6, v)]).tiles.get? 9 = some tile2 ∧ ((regs WTile [(6, v)]).gr th 6).toNat < 2 ^ min tile2.chunks.length 64) :=
  ⟨fun v hv => by rcases hv with rfl | rfl <;> exact carries _ rfl rfl rfl (by decide),
   fun v hv => by rcases hv with rfl | rfl <;> exact all_one (a := 1) rfl ⟨rfl, rfl, by decide⟩⟩


/-! ### System instructions -/

/-- A stage team's thread, its instance with one FIFO of 3-entry depth from stage 0 to stage 1, and some entries. -/
def fifoOf (l : List (List Byte)) : Fifo := ⟨⟨2, 0, 1, 3, 0, 0⟩, l, [], [], false⟩
def instOf (q : Fifo) : Instance := ⟨1, 0, [], [q], [⟨0, 0, 0, none, true, none⟩, ⟨1, 0, 1, some 1, true, none⟩], true, [false, false], 1, [], 0, none, false⟩
def WStage (st : Nat) (l : List (List Byte)) : State :=
  { withTeam W fun x => { x with role := .stage 4 st st } with insts := [(4, instOf (fifoOf l))] }
/-- The same in a draining group, and with its producer closed. -/
def WDrain : State := { WStage 1 [] with insts := [(4, { instOf (fifoOf []) with groups := [⟨1, 0, 1, some 1, true, some 0⟩] })] }
def WClosed : State := { WStage 1 [] with insts := [(4, { instOf (fifoOf []) with closed := [true, false] })] }
def oFifo : OpFifo := ⟨1, 0, 0, .none, 8⟩

theorem witness_pop_takes : Alone (WStage 1 [List.replicate 16 7]) (.pop oFifo) 1 ∧
    AtFifo (WStage 1 [List.replicate 16 7]) 1 0 2 true 4 1 1 (instOf (fifoOf [List.replicate 16 7])) (fifoOf [List.replicate 16 7]) ∧
    isDraining (instOf (fifoOf [List.replicate 16 7])) 1 1 = false :=
  ⟨alone (carries _ rfl rfl rfl (by decide)) rfl rfl rfl, ⟨rfl, rfl, rfl, by decide⟩, by decide⟩

theorem witness_pop_blocks : Alone (WStage 1 []) (.pop oFifo) 1 ∧ AtFifo (WStage 1 []) 1 0 2 true 4 1 1 (instOf (fifoOf [])) (fifoOf []) ∧
    isDraining (instOf (fifoOf [])) 1 1 = false ∧ producerClosed (instOf (fifoOf [])) (fifoOf []) = false :=
  ⟨alone (carries _ rfl rfl rfl (by decide)) rfl rfl rfl, ⟨rfl, rfl, rfl, by decide⟩, by decide, by decide⟩

theorem witness_pop_draining : ∃ I, Alone WDrain (.pop oFifo) 1 ∧ AtFifo WDrain 1 0 2 true 4 1 1 I (fifoOf []) ∧ isDraining I 1 1 = true :=
  ⟨_, alone (carries _ rfl rfl rfl (by decide)) rfl rfl rfl, ⟨rfl, rfl, rfl, by decide⟩, by decide⟩

theorem witness_pop_closed : ∃ I, Alone WClosed (.pop oFifo) 1 ∧ AtFifo WClosed 1 0 2 true 4 1 1 I (fifoOf []) ∧ producerClosed I (fifoOf []) = true :=
  ⟨_, alone (carries _ rfl rfl rfl (by decide)) rfl rfl rfl, ⟨rfl, rfl, rfl, by decide⟩, by decide⟩

theorem witness_push : ∀ l : List (List Byte), l = [] ∨ l = List.replicate 3 (List.replicate 16 7) →
    Alone (WStage 0 l) (.push oFifo) 1 ∧ AtFifo (WStage 0 l) 1 0 2 false 4 0 0 (instOf (fifoOf l)) (fifoOf l) := by
  rintro l (rfl | rfl) <;>
    exact ⟨alone (carries _ rfl rfl rfl (by decide)) rfl rfl rfl, ⟨rfl, rfl, rfl, by decide⟩⟩

/-- A queue descriptor at 0x4000 with a ring of 16 slots at 0x8000, its WRIDX and RDIDX; a packet of type 1 in g8 to g15. -/
def queueCells (wr rd : Nat) : List Host.Cell :=
  writeCells (writeCells (writeCells W.mem.cells 0x4008 (bytesOfNat (0x8000 * 2 ^ 18 + 4 * 2 ^ 13) 8)) 0x4010 (bytesOfNat wr 8)) 0x4018 (bytesOfNat rd 8)
def WQueue (wr rd : Nat) : State := regs { W with mem := { W.mem with cells := queueCells wr rd } } [(6, 0x4000), (8, 1)]
def oPost : OpQpost := ⟨.none, 1, .none, 6, 5⟩

/-- Core 0 holds the translation of the page that the witness state maps, marked accessed and written. -/
def cachedCore (s : State) : State := { s with cores := s.cores.set 0 { s.core 0 with tlb := [⟨1, 0, 17179869184, 0x2000, 0xCB⟩] } }
def WPost (wr rd : Nat) : State := cachedCore (WQueue wr rd)

theorem cachedPost (wr rd va : Nat) (u : Use) (h : va < 17179869184) : Cached (WPost wr rd) 1 va u va :=
  ⟨⟨rfl, by omega⟩, ⟨1, 0, 17179869184, 0x2000, 0xCB⟩, by
    show tlbHit (WPost wr rd) 0 1 va = _
    have hc : ((WPost wr rd).core 0).tlb = [⟨1, 0, 17179869184, 0x2000, 0xCB⟩] := rfl
    simp [tlbHit, hc, h], rfl, by cases u <;> rfl, by cases u <;> rfl, by
    show va = leafKey ((WPost wr rd).ctx 1) (levelOfSize 17179869184) 0xCB va
    have h1 : levelOfSize 17179869184 = 1 := by decide
    rw [h1]
    show va = (0 * 4096 + va % 17179869184) % 281474976710656
    omega⟩

theorem descriptorPost (wr rd : Nat) (h1 : readNat (WPost wr rd).mem.cells 0x4008 8 = 0x8000 * 2 ^ 18 + 4 * 2 ^ 13)
    (h2 : readNat (WPost wr rd).mem.cells 0x4010 8 = wr) (h3 : readNat (WPost wr rd).mem.cells 0x4018 8 = rd) :
    DescriptorHolds (WPost wr rd) 1 0x4000 0x4000 (0x8000 * 2 ^ 18 + 4 * 2 ^ 13) wr rd :=
  ⟨by decide, ⟨cachedPost wr rd _ _ (by decide), h1⟩, ⟨cachedPost wr rd _ _ (by decide), h2⟩, ⟨cachedPost wr rd _ _ (by decide), h3⟩,
    fun j h hj => by
      have : j = 1 ∨ j = 2 ∨ j = 3 := by omega
      rcases this with rfl | rfl | rfl <;> rfl, rfl⟩

theorem witness_qpost_writes : Alone (WPost 5 0) (.qpost oPost) 1 ∧ ((WPost 5 0).gr 1 (8 * oPost.b.val)).toNat % 256 ≠ 0 ∧
    DescriptorHolds (WPost 5 0) 1 ((WPost 5 0).gr 1 oPost.a).toNat 0x4000 (0x8000 * 2 ^ 18 + 4 * 2 ^ 13) 5 0 ∧
    hasRoom (0x8000 * 2 ^ 18 + 4 * 2 ^ 13) 5 0 ∧ SlotAt (WPost 5 0) 1 (0x8000 * 2 ^ 18 + 4 * 2 ^ 13) 5 0x200140 :=
  ⟨alone (carries _ rfl rfl rfl (by decide)) rfl rfl rfl, by decide, descriptorPost 5 0 (by decide) (by decide) (by decide), by unfold hasRoom; decide,
    ⟨⟨cachedPost 5 0 0x200140 _ (by decide), by decide⟩, rfl, rfl⟩⟩

theorem witness_qpost_waits : Alone (WPost 16 0) (.qpost oPost) 1 ∧ ((WPost 16 0).gr 1 (8 * oPost.b.val)).toNat % 256 ≠ 0 ∧
    DescriptorHolds (WPost 16 0) 1 ((WPost 16 0).gr 1 oPost.a).toNat 0x4000 (0x8000 * 2 ^ 18 + 4 * 2 ^ 13) 16 0 ∧
    ¬hasRoom (0x8000 * 2 ^ 18 + 4 * 2 ^ 13) 16 0 :=
  ⟨alone (carries _ rfl rfl rfl (by decide)) rfl rfl rfl, by decide, descriptorPost 16 0 (by decide) (by decide) (by decide), by unfold hasRoom; decide⟩

/-- A thread Blocked at a `qpost` with index 5, or 16. -/
def WPosted (i : Nat) : State :=
  { WPost i 0 with threads := (WPost i 0).threads.set 1 { (WPost i 0).thread 1 with run := .blocked (.post 0x4000 i (0x8000 * 2 ^ 18 + 4 * 2 ^ 13) [] 5) } }

theorem witness_qpost_retest : ∀ i, i = 5 ∨ i = 16 → ∃ x, (WPosted i).threads.get? 1 = some x ∧
    x.run = .blocked (.post 0x4000 i (0x8000 * 2 ^ 18 + 4 * 2 ^ 13) [] 5) ∧ ((WPosted i).teamOf 1).res = .resident ∧
    readNat (WPosted i).mem.cells 0x4018 8 = 0 ∧ poisonFlt (WPosted i) 0x4018 8 = none ∧ (WPosted i).sched.choices = [] ∧ 5 ∉ x.hintNow := by
  rintro i (rfl | rfl) <;> exact ⟨_, rfl, rfl, rfl, by decide, rfl, rfl, by decide⟩

theorem cachedPosted (i va : Nat) (u : Use) (h : va < 17179869184) : Cached (WPosted i) 1 va u va :=
  let c := cachedPost i 0 va u h
  ⟨⟨rfl, c.space.2⟩, c.hit⟩

theorem witness_qpost_retest_slots : Cached (WPosted 5) 1 (0x4000 + 24) .load (0x4000 + 24) ∧ hasRoom (0x8000 * 2 ^ 18 + 4 * 2 ^ 13) 5 0 ∧
    SlotAt (WPosted 5) 1 (0x8000 * 2 ^ 18 + 4 * 2 ^ 13) 5 0x200140 ∧ ¬hasRoom (0x8000 * 2 ^ 18 + 4 * 2 ^ 13) 16 0 :=
  ⟨cachedPosted 5 _ _ (by decide), by unfold hasRoom; decide, ⟨⟨cachedPosted 5 0x200140 _ (by decide), by decide⟩, rfl, rfl⟩, by unfold hasRoom; decide⟩

/-- A copy packet of 64 bytes from 0x8000 to 0x9000 in g8 to g15. -/
def WCopy : State := regs W [(8, 0x10), (10, 64 * 2 ^ 32), (11, 0x9000), (12, 0x8000)]

set_option exponentiation.threshold 400 in
theorem witness_copy : Alone WCopy (.copy ⟨true, .none, 1⟩) 1 ∧ kickBad (groupNat WCopy 1 8 8) = false ∧
    kickRange WCopy 1 (groupNat WCopy 1 8 8) = none ∧ engineLoad WCopy (WCopy.coreOf 1) < 512 :=
  ⟨alone (carries _ rfl rfl rfl (by decide)) rfl rfl rfl, by decide, by decide, by decide⟩

/-- Its core's engine is full. -/
def WCopies (n : Nat) : State := { WCopy with ops := List.replicate n (9, ⟨.copy 0 0 0, 1, 0, [], none, [], none, 0, 0, [], [], 0⟩) }
def WCopyFull : State := WCopies 512

theorem engineLoad_copies (n : Nat) : engineLoad (WCopies n) 0 = n := by simp [engineLoad, WCopies]

set_option exponentiation.threshold 400 in
theorem witness_copy_waits : Alone WCopyFull (.copy ⟨true, .none, 1⟩) 1 ∧ kickBad (groupNat WCopyFull 1 8 8) = false ∧
    kickRange WCopyFull 1 (groupNat WCopyFull 1 8 8) = none ∧ 512 ≤ engineLoad WCopyFull (WCopyFull.coreOf 1) :=
  ⟨alone (carries _ rfl rfl rfl (by decide)) rfl rfl rfl, by decide, by decide, Nat.le_of_eq (engineLoad_copies 512).symm⟩

theorem witness_grow : Carries W (.grow o2) ∧ W.grids.get? 1 = some placedGrid ∧
    (∀ th ∈ W.active, (W.teamOf th).grid = 1 ∧ growBad W th = false) ∧ placedGrid.n + (W.active.map fun th => (W.gr th o2.a).toNat).sum < 2 ^ 32 :=
  ⟨carriesW _ (by decide), rfl, all_one (a := 1) rfl ⟨rfl, by decide⟩, by decide⟩

theorem witness_smov : Carries W (.smov ⟨13, 5⟩) := carriesW _ (by decide)

/-- The thread at the supervisor's level, with CLUSTER.SLOPE of cluster 17 named by A. -/
def WSup : State :=
  regs (withThread W fun x => { x with entered := [⟨.sup, none, true⟩] }) [(6, 0x01011018)]

theorem witness_mrd : Alone WSup (.mrd o2) 1 ∧ mDenied WSup 1 (WSup.gr 1 o2.a) false = none ∧ mAddrOf (WSup.gr 1 o2.a).toNat = some ⟨1, 17, 3⟩ :=
  ⟨alone (carries _ rfl rfl rfl (by decide)) rfl rfl rfl, by decide, by decide⟩

theorem witness_mwr : Alone WSup (.mwr oAB) 1 ∧ mDenied WSup 1 (WSup.gr 1 oAB.a) true = none ∧ mAddrOf (WSup.gr 1 oAB.a).toNat = some ⟨1, 17, 3⟩ :=
  ⟨alone (carries _ rfl rfl rfl (by decide)) rfl rfl rfl, by decide, by decide⟩

theorem witness_RegistersKeepTheirFields : ∃ C mask, W.ctxs.get? 1 = some C ∧ clusterOut W 17 = false ∧ (W.cluster 17).memoTable.length = 16 ∧
    ((⟨1, 17, 16 + 15⟩ : MAddr), mask) ∈ fieldTable 17 15 1 :=
  ⟨_, _, rfl, by decide, by decide, List.mem_cons_of_mem _ (List.mem_cons_of_mem _ List.mem_cons_self)⟩

theorem witness_yield_nop : Carries W .yield ∧ ∀ th ∈ W.active, yields W th = false ∨ (W.ctx (W.ctxOf th)).saveArea = 0 :=
  ⟨carriesW _ (by decide), all_one (a := 1) rfl (Or.inr (by decide))⟩

/-- A context with a save area at 0x20000: slots of 64 KiB, two of them, slot 0 busy. -/
def saveCells : List Host.Cell :=
  writeCells (writeCells (writeCells W.mem.cells 0x20008 (bytesOfNat 0x10000 8)) 0x20010 (bytesOfNat 2 8)) 0x20020 (bytesOfNat 1 8)
def WSave : State := { W with mem := { W.mem with cells := saveCells }, ctxs := W.ctxs.set 1 { Context.none with root := placedRoot, saveArea := 0x20000 } }

def savedHeader : State × Option (Nat × Nat × Nat) := saveHeader (issue .yield (fun st _ => Out.ok st) WSave) 1

theorem witness_yield_suspends : Carries WSave .yield ∧ WSave.active ≠ [] ∧ (∀ th ∈ WSave.active, yields WSave th = true ∧ WSave.teamIdOf th = 1) ∧
    WSave.teams.get? 1 = some placedTeam ∧ placedTeam.res = .resident ∧ placedTeam.waves = [] ∧ WSave.accs = [] ∧
    savedHeader.2 = some (0x10000, 2, 1) ∧ 1 < min 2 64 ∧ bit 1 1 = false ∧ (∀ j < 1, bit 1 j = true) ∧
    (sectionOffsets 256 (sectionSizes savedHeader.1 1)).2 ≤ 0x10000 :=
  ⟨carries _ rfl rfl rfl (by decide), by decide, all_one (a := 1) rfl ⟨by decide, rfl⟩, rfl, rfl, rfl, rfl, by rfl, by decide, by decide, by decide, by decide⟩

/-! ### Exceptions -/

/-- The vector word below the team's entry clause names a handler clause at 0x12000. -/
def WTrap : State := { W with mem := { W.mem with cells := writeCells W.mem.cells (placedPc - 8) (bytesOfNat (2 ^ 63 + 0x12000) 8) } }

/-- Bytes of device memory of the witness state's size are sound where no poison lies on them. -/
theorem sound_of {s : State} {k n : Nat} (hk : isHost k = false ∧ isPeer k = false ∧ isView k = false ∧ physOf k < W.mgmt.usable) (hm : s.mgmt = W.mgmt)
    (hp : poisonAt s.mem k n = none) (_hv : isView k = false) : spoiledAt s k n = none := by
  have hb : beyondMemory s k = false := by unfold beyondMemory; rw [hm]; simp; intro _; exact hk.2.2.2
  simp [spoiledAt, unreachable, hb, hostDown, portDown, viewLost, hk.1, hk.2.1, hk.2.2.1, hp]

theorem kernelHandlerAt {s : State} (hm : s.mem = WTrap.mem) (hco : s.cores = W.cores) (ht : s.teams = W.teams)
    (hg : s.grids = W.grids) (hx : s.ctxs = W.ctxs) (hu : s.mgmt = W.mgmt) :
    KernelHandlerAt s 1 0x12000 := by
  intro s' h
  have h1 : tlbHit s' mgmtCore 1 65528 = none := by unfold tlbHit State.core; rw [h.cores, hco]; rfl
  have h2 : s'.ctx 1 = W.ctx 1 := by unfold State.ctx; rw [h.ctxs, hx]
  have h3 : walk s'.mem (s'.ctx 1) 65528 (s'.ctx 1).root [0, 1, 2, 3] = .leaf 1 0x2000 0x0B := by rw [h.mem, hm, h2]; rfl
  have h4 : s'.team 1 = W.team 1 := by unfold State.team; rw [h.teams, ht]
  have h5 : s'.grid (W.team 1).grid = W.grid (W.team 1).grid := by unfold State.grid; rw [h.grids, hg]
  have h6 : resolveEng s' 1 65528 .load false = (s'.setMem (touchEntry s'.mem 0x2000 0x0B .load), .ok 65528) := by
    unfold resolveEng resolveCtx Machine.translate
    rw [h1]
    unfold translateWalk
    rw [h3]
    rfl
  have h7 : (W.team 1).entry - 8 = 65528 := by decide
  have h8 : (W.grid (W.team 1).grid).ctx = 1 := by decide
  refine ⟨touchEntry s'.mem 0x2000 0x0B .load, ?_⟩
  have h9 : spoiledAt (s'.setMem (touchEntry s'.mem 0x2000 0x0B .load)) 65528 8 = none := by
    rw [h.mem, hm]; exact sound_of (by decide) (h.mgmt.trans hu) rfl rfl
  have h10 : readNat (touchEntry s'.mem 0x2000 0x0B .load).cells 65528 8 = 2 ^ 63 + 0x12000 := by rw [h.mem, hm]; decide
  simp [kernelHandler, h4, h5, h7, h8, h6, h9, h10]
  decide

theorem WTrap_handler : KernelHandlerAt WTrap 1 0x12000 := kernelHandlerAt rfl rfl rfl rfl rfl rfl

theorem atRest : AtRest WTrap 1 placedGang := ⟨rfl, by decide, rfl, rfl, rfl, rfl, rfl, rfl, rfl, rfl, by decide⟩

theorem inPlace : InPlace WTrap 1 1 := ⟨rfl, rfl, by decide, rfl, by decide⟩

theorem oneGang {s : State} {i : Instr} (hc : Carries s i) (ha : s.active = [1]) (hg : (s.thread 1).gang = 1) : OneGang s i 1 := by
  refine ⟨hc, by rw [ha]; decide, all_one ha hg⟩

theorem oneGangT (i : Instr) (he : encodingBad WTrap i 1 = false) : OneGang WTrap i 1 := oneGang (carries i rfl rfl rfl he) rfl rfl

theorem oneGangW (i : Instr) (he : encodingBad W i 1 = false) : OneGang W i 1 := oneGang (carriesW i he) rfl rfl

theorem witness_trap : OneGang WTrap (.trap 0x42) 1 ∧ AtRest WTrap 1 placedGang ∧ (∀ th ∈ WTrap.active, InPlace WTrap 1 th) ∧
    KernelHandlerAt WTrap placedGang.team 0x12000 := ⟨oneGangT _ (by decide), atRest, all_one (a := 1) rfl inPlace, WTrap_handler⟩

/-- Register 6 is odd. -/
def WOdd : State := regs WTrap [(6, 0x8001)]

theorem witness_misaligned : ∀ i : Instr, i = .ldS16 ldg ∨ i = .stB16 stg → OneGang WOdd i 1 ∧ AtRest WOdd 1 placedGang ∧
    (∀ th ∈ WOdd.active, InPlace WOdd 1 th) ∧ KernelHandlerAt WOdd placedGang.team 0x12000 := by
  rintro i (rfl | rfl) <;>
    exact ⟨oneGang (carries _ rfl rfl rfl (by decide)) rfl rfl, ⟨rfl, by decide, rfl, rfl, rfl, rfl, rfl, rfl, rfl, rfl, by decide⟩,
      all_one (a := 1) rfl ⟨rfl, rfl, by decide, rfl, by decide⟩, kernelHandlerAt rfl rfl rfl rfl rfl rfl⟩

theorem witness_misaligned_load : ∃ (z : Nat) (f : Nat → Word), (Instr.ldS16 ldg, z, f) ∈ loadTable ldg ∧
    ∀ th ∈ WOdd.active, (0x8001 : Nat) = address (WOdd.gr th ldg.a) ldg.off z ∧ 0x8001 % z ≠ 0 :=
  ⟨2, _, by simp [loadTable]; rfl, all_one (a := 1) rfl ⟨by decide, by decide⟩⟩

theorem witness_misaligned_store : (Instr.stB16 stg, 2) ∈ storeTable stg ∧
    ∀ th ∈ WOdd.active, (0x8001 : Nat) = address (WOdd.gr th stg.a) stg.off 2 ∧ 0x8001 % 2 ≠ 0 :=
  ⟨by simp [storeTable], all_one (a := 1) rfl ⟨by decide, by decide⟩⟩

/-- A load with Q 2 from global memory, which Table 11-6 allows for local memory only. -/
theorem witness_encodingCause : let i := Instr.ldS8 ⟨0, .fe, .gl, .none, 6, 5⟩
    i.encoded = true ∧ (∀ neg p, i ≠ .guardPrefix neg p) ∧ (∀ z m, i ≠ .modePrefix z m) ∧
    WTrap.grp.threads.Pairwise (fun a b => WTrap.laneOf a < WTrap.laneOf b) ∧ WTrap.grp.threads ≠ [] ∧
    (∀ th ∈ WTrap.grp.threads, (WTrap.thread th).run = .ready ∧ encodingBad WTrap i th = true ∧ InPlace WTrap 1 th) :=
  ⟨rfl, nofun, nofun, List.pairwise_singleton _ _, by decide, all_one (a := 1) rfl ⟨rfl, by decide, inPlace⟩⟩

/-- The thread in its gang's handler, alone and as one of two. -/
def handlerGang (left : List Nat) : Gang := { placedGang with delivery := some ⟨false, left, left⟩, w := placedGang.w.set 28 0x10004 }
def WHandler (left : List Nat) : State :=
  { withThread W fun x => { x with entered := [⟨.kernel, some ⟨0x10000, 0x10008, 0, 1, 0, []⟩, false⟩] } with gangs := W.gangs.set 1 (handlerGang left) }

theorem witness_tret : ∀ left, left = [1] ∨ left = [1, 2] → OneGang (WHandler left) .tret 1 ∧ (WHandler left).gangs.get? 1 = some (handlerGang left) ∧
    (handlerGang left).nested = none ∧ (handlerGang left).delivery = some ⟨false, left, left⟩ ∧ (handlerGang left).queue = [] ∧
    (vget (handlerGang left).w 28 0).getLsbD 0 = false ∧ ∀ th ∈ (WHandler left).active, th ∈ left ∧ ((WHandler left).thread th).entered ≠ [] := by
  rintro left (rfl | rfl) <;>
    exact ⟨oneGang (carries _ rfl rfl rfl (by decide)) rfl rfl, rfl, rfl, rfl, rfl, by decide, all_one (a := 1) rfl ⟨by decide, by decide⟩⟩

/-- An entry raised for the thread, and one at the head of the queue. -/
def entryOf (cause : Nat) : Entry := ⟨5, 1, 0x10000, false, cause, 0x10004⟩
def WRaised : State := withGang W fun x => { x with raised := [⟨entryOf cAlign, [1], [], 0⟩] }

theorem witness_trapEntryQueue : ∃ G, WRaised.gangs.get? 1 = some G ∧ WRaised.accs = [] ∧ G.undo = [] ∧ G.raised ≠ [] := ⟨_, rfl, rfl, rfl, by decide⟩

def queuedGang (cause : Nat) : Gang := { placedGang with queue := [entryOf cause] }
def WQueued (cause : Nat) : State := { WTrap with gangs := WTrap.gangs.set 1 (queuedGang cause) }

theorem witness_trapDelivery (cause : Nat) : (WQueued cause).gangs.get? 1 = some (queuedGang cause) ∧ (queuedGang cause).queue = [entryOf cause] ∧
    (queuedGang cause).delivery = none ∧ (queuedGang cause).nested = none ∧ (queuedGang cause).nestq = [] ∧
    ((WQueued cause).team (queuedGang cause).team).res = .resident ∧ (∀ th ∈ [1], InPlace (WQueued cause) 1 th) ∧ (queuedGang cause).width ≤ 64 ∧
    (∀ p < (queuedGang cause).width, bit (entryOf cause).mask p = [1].any fun th => ((WQueued cause).thread th).pos == p) ∧
    (∀ p, (queuedGang cause).width ≤ p → bit (entryOf cause).mask p = false) :=
  ⟨rfl, rfl, rfl, rfl, rfl, rfl, all_one rfl ⟨rfl, rfl, Option.some_ne_none placedThread, rfl, show 0 < 8 by decide⟩, show 8 ≤ 64 by decide,
   show ∀ p < 8, bit 1 p = [1].any fun _ => 0 == p by decide, fun p hp => by
    have h1 : 2 ≤ 2 ^ p := Nat.le_trans (by decide : 2 ≤ 2 ^ 1) (Nat.pow_le_pow_right (by decide) (Nat.le_trans (show 1 ≤ 8 by decide) hp))
    show (1 / 2 ^ p % 2 == 1) = false
    rw [Nat.div_eq_of_lt (by omega)]
    rfl⟩

theorem witness_trapDelivery_kernel : causeIsSup cAlign = false ∧ KernelHandlerAt (WQueued cAlign) 1 0x12000 :=
  ⟨by decide, kernelHandlerAt rfl rfl rfl rfl rfl rfl⟩

/-- A context with the supervisor's entry 0x14000 in its save area at 0x20000. -/
def WSupEntry : State :=
  { WQueued cPoison with
    mem := { WTrap.mem with cells := writeCells WTrap.mem.cells 0x20000 (bytesOfNat 0x14000 8) }
    ctxs := W.ctxs.set 1 { Context.none with root := placedRoot, saveArea := 0x20000 } }

theorem witness_trapDelivery_sup : causeIsSup cPoison = true ∧ SupHandlerAt WSupEntry (WSupEntry.grid (WSupEntry.team 1).grid).ctx 0x14000 := by
  refine ⟨by decide, by decide, fun s' h => ?_⟩
  have hc : (WSupEntry.grid (WSupEntry.team 1).grid).ctx = 1 := by decide
  rw [hc]
  have h1 : tlbHit s' mgmtCore 1 0x20000 = none := by unfold tlbHit State.core; rw [h.cores]; rfl
  have h2 : s'.ctx 1 = WSupEntry.ctx 1 := by unfold State.ctx; rw [h.ctxs]
  have h3 : walk s'.mem (s'.ctx 1) 0x20000 (s'.ctx 1).root [0, 1, 2, 3] = .leaf 1 0x2000 0x0B := by rw [h.mem, h2]; rfl
  have h4 : resolveEng s' 1 0x20000 .load true = (s'.setMem (touchEntry s'.mem 0x2000 0x0B .load), .ok 0x20000) := by
    unfold resolveEng resolveCtx Machine.translate
    rw [h1]
    unfold translateWalk
    rw [h3]
    rfl
  refine ⟨touchEntry s'.mem 0x2000 0x0B .load, ?_⟩
  have h5 : (WSupEntry.ctx 1).saveArea = 0x20000 := by decide
  have h6 : devRead s' 1 0x20000 8 = (s'.setMem (touchEntry s'.mem 0x2000 0x0B .load), some (bytesOfNat 0x14000 8)) := by
    have h7 : spoiledAt (s'.setMem (touchEntry s'.mem 0x2000 0x0B .load)) 0x20000 8 = none := by
      rw [h.mem]; exact sound_of (by decide) h.mgmt rfl rfl
    have h8 : readCells (touchEntry s'.mem 0x2000 0x0B .load).cells 0x20000 8 = bytesOfNat 0x14000 8 := by
      rw [h.mem]
      decide
    unfold devRead
    rw [h4]
    simp [h7, h8]
  simp [supEntry, h2, h5, h6]
  decide

/-- The thread holds an asynchronous cause and is Ready outside the group. -/
def WHeld : State :=
  { withThread WTrap fun x => { x with held := [⟨7, cCopy, 9, false, [], none⟩] } with grp := Group.empty }

theorem witness_async : ∃ x, WHeld.threads.get? 1 = some x ∧ x.held = [⟨7, cCopy, 9, false, [], none⟩] ∧ AtRest WHeld 1 placedGang ∧ InPlace WHeld 1 1 ∧
    x.run = .ready ∧ 1 ∉ WHeld.grp.threads ∧ WHeld.grp2 = none ∧ causeIsSup cCopy = false ∧ KernelHandlerAt WHeld placedGang.team 0x12000 ∧
    (∀ u ∈ threadsOf placedGang, u ≠ 1 → (WHeld.thread u).held = []) :=
  ⟨_, rfl, rfl, ⟨rfl, by decide, rfl, rfl, rfl, rfl, rfl, rfl, rfl, rfl, by decide⟩, ⟨rfl, rfl, by decide, rfl, by decide⟩, rfl, by decide, rfl,
    by decide, kernelHandlerAt rfl rfl rfl rfl rfl rfl, by decide⟩

/-! ### Tiles -/

/-- A tile of gang 1 with chunks of core 0, and one with another number. -/
def tileA : Tile := ⟨0, 1, [510, 511], 3, [], false, 0, some 1, false⟩
def tileB : Tile := ⟨0, 1, [508, 509], 3, [], false, 7, some 1, false⟩
def WTiles (l : List (Nat × Word)) : State :=
  { withGang (regs W l) fun x => { x with h := (x.h.set 1 (some 9)).set 2 (some 10) } with tiles := [(9, tileA), (10, tileB)] }

theorem noneBlocked {s : State} (h : ∀ th ∈ threadsOf (s.gang 1), (s.thread th).run = .ready) : NoneBlocked s 1 := fun th ht => Or.inl (h th ht)

theorem oneGangR {s : State} {i : Instr} (hg : s.grp.threads = [1]) (hr : (s.threads.get? 1).map (·.run) = some .ready)
    (hk : (s.gangs.get? (s.thread 1).gang).isSome = true) (he : encodingBad s i 1 = false) (ha : s.active = [1]) (h1 : (s.thread 1).gang = 1) :
    OneGang s i 1 := oneGang (carries i hg hr hk he) ha h1

def WTalloc : State := withTeam (regs W [(6, 0x8002)]) fun x => { x with tilesRes := 64 }
def oTalloc : OpTalloc := ⟨true, .none, 6, 3⟩

theorem witness_talloc : OneGang WTalloc (.talloc oTalloc) 1 ∧ NoneBlocked WTalloc 1 ∧
    tallocBad WTalloc 1 3 (leadReg WTalloc WTalloc.active 6) = false ∧ takeChunks WTalloc 1 (bits (leadReg WTalloc WTalloc.active 6) 9 0) = some [510, 511] :=
  ⟨oneGangR rfl rfl rfl (by decide) rfl rfl, noneBlocked (all_one (a := 1) rfl rfl), by decide, by decide +kernel⟩

theorem witness_tfree : OneGang (WTiles []) (.tfree 1) 1 ∧ NoneBlocked (WTiles []) 1 ∧ tileAt (WTiles []) 1 1 = some (9, tileA) ∧
    tileA.permits = [] ∧ opsOnTile (WTiles []) 9 = [] :=
  ⟨oneGangR rfl rfl rfl (by decide) rfl rfl, noneBlocked (all_one (a := 1) rfl rfl), rfl, rfl, rfl⟩

/-- The same with a permit left on the tile. -/
def WPermit : State := { WTiles [] with tiles := [(9, { tileA with permits := [(1, 5)] })] }

theorem witness_tfree_waits : ∃ T, OneGang WPermit (.tfree 1) 1 ∧ NoneBlocked WPermit 1 ∧ tileAt WPermit 1 1 = some (9, T) ∧
    ¬(T.permits = [] ∧ opsOnTile WPermit 9 = []) :=
  ⟨_, oneGangR rfl rfl rfl (by decide) rfl rfl, noneBlocked (all_one (a := 1) rfl rfl), rfl, by decide⟩

/-- A thread that waits for a freed tile with nothing left on it. -/
def WFreed : State :=
  { withThread W fun x => { x with run := .blocked (.tfree 9) } with tiles := [(9, { tileA with freed := true })] }

theorem witness_tileRelease : ∃ x T, WFreed.threads.get? 1 = some x ∧ x.run = .blocked (.tfree 9) ∧ WFreed.tiles.get? 9 = some T ∧ T.freed = true ∧
    T.permits = [] ∧ opsOnTile WFreed 9 = [] := ⟨_, _, rfl, rfl, rfl, rfl, rfl, rfl⟩

/-- A second gang of the team, number 1, that offers are made to. -/
def WHand : State :=
  { withTeam (WTiles [(6, 1)]) fun x => { x with gangs := [1, 2] } with
    gangs := (WTiles [(6, 1)]).gangs.set 2 { placedGang with num := 1, at_ := List.replicate 8 none } }

theorem witness_thand : OneGang WHand (.thand ⟨.none, 6, 1⟩) 1 ∧ NoneBlocked WHand 1 ∧
    leadReg WHand WHand.active 6 < 2 ^ 16 ∧ gangNumbered WHand (WHand.gang 1).team (WHand.gang 1).core (leadReg WHand WHand.active 6) = some 2 ∧
    WHand.gangs.get? 2 ≠ none ∧ tileAt WHand 1 1 = some (9, tileA) ∧ (WHand.gang 2).offers.length < 4 :=
  ⟨oneGangR rfl rfl rfl (by decide) rfl rfl, noneBlocked (all_one (a := 1) rfl rfl), by decide,
    by decide, by decide, rfl, by decide⟩

/-- An offer to gang 1 by gang 4 of its core, made in an earlier front cycle. -/
def WOffer : State :=
  { withGang (WTiles [(6, 4)]) fun x => { x with offers := [⟨9, 4, 0⟩] } with clk := { W.clk with front := List.replicate 18 1 } }

theorem witness_tacc_takes : OneGang WOffer (.tacc ⟨.none, 6, 5⟩) 1 ∧ NoneBlocked WOffer 1 ∧ leadReg WOffer WOffer.active 6 < 2 ^ 16 ∧
    vget (WOffer.gang 1).h 5 none = none ∧ (WOffer.gang 1).offers.find? (fun f => (leadReg WOffer WOffer.active 6 == 0xFFFF || f.sender == leadReg WOffer WOffer.active 6) &&
      decide (f.since < WOffer.nowAt (WOffer.gang 1).core)) =
      some ⟨9, 4, 0⟩ ∧ WOffer.tiles.get? 9 = some tileA :=
  ⟨oneGangR rfl rfl rfl (by decide) rfl rfl, noneBlocked (all_one (a := 1) rfl rfl), by decide, rfl, by decide, rfl⟩

/-- The offer was made in this front cycle. -/
def WOfferNow : State := { WOffer with clk := W.clk }

theorem witness_tacc_blocks : OneGang WOfferNow (.tacc ⟨.none, 6, 5⟩) 1 ∧ NoneBlocked WOfferNow 1 ∧ leadReg WOfferNow WOfferNow.active 6 < 2 ^ 16 ∧
    vget (WOfferNow.gang 1).h 5 none = none ∧ (WOfferNow.gang 1).offers.all (fun f => leadReg WOfferNow WOfferNow.active 6 != 0xFFFF &&
      f.sender != leadReg WOfferNow WOfferNow.active 6 || !decide (f.since < WOfferNow.nowAt (WOfferNow.gang 1).core)) = true :=
  ⟨oneGangR rfl rfl rfl (by decide) rfl rfl, noneBlocked (all_one (a := 1) rfl rfl), by decide, rfl, by decide⟩

theorem witness_tqry : Carries (WTiles []) (.tqry ⟨5, 1⟩) := carries _ rfl rfl rfl (by decide)

def oTcvt : OpTcvt := ⟨.rn, .e4m3, false, 1, 2⟩
def oDrainP : OpDrainP := ⟨false, .none, 6, 1⟩

theorem oneGangTiles (i : Instr) (he : encodingBad (WTiles []) i 1 = false) : OneGang (WTiles []) i 1 := oneGangR rfl rfl rfl he rfl rfl

theorem witness_tileTable : ∃ i hs fs ok job reads writes,
    (i, hs, fs, ok, job, reads, writes) ∈ tileTable 1 oTcvt ⟨false, 1, 2⟩ oDrainP ⟨false, 1⟩ (WTiles []) 9 10 tileA tileB ∧
    OneGang (WTiles []) i 1 ∧ HandlesName (WTiles []) 1 hs ∧ ok :=
  ⟨_, _, _, _, _, _, _, List.mem_cons_of_mem _ List.mem_cons_self, oneGangTiles _ (by decide),
    by intro e he; simp at he; rcases he with rfl | rfl <;> exact ⟨rfl, rfl⟩, by decide, by decide⟩

theorem witness_tzero : OneGang (WTiles []) (.tzero 1) 1 := oneGangTiles _ (by decide)
theorem witness_tdrainH : OneGang (WTiles []) (.tdrainH ⟨false, 1, 2⟩) 1 := oneGangTiles _ (by decide)
theorem witness_tdrainPeer : OneGang (WTiles []) (.tdrainPeer oDrainP) 1 ∧ bits (leadReg (WTiles []) (WTiles []).active 6) 31 9 = 0 :=
  ⟨oneGangTiles _ (by decide), by decide⟩

/-- The self-test is in progress on the core. -/
def WSelfTest : State := { WTiles [] with cores := (WTiles []).cores.set 0 { (WTiles []).core 0 with selfTest := true } }

theorem witness_tdrainByp : OneGang WSelfTest (.tdrainByp ⟨false, 1⟩) 1 ∧ ∀ th ∈ WSelfTest.active, (WSelfTest.core (WSelfTest.coreOf th)).selfTest = true :=
  ⟨oneGangR rfl rfl rfl (by decide) rfl rfl, all_one (a := 1) rfl rfl⟩

def oTmem (sp : ASpace) : OpTmem := ⟨sp, false, .none, 6, 1⟩

theorem keys_of {s : State} {t : Nat} {sp : ASpace} {a n : Nat} {u : Use} {k : List (Nat × Nat)} (h : (rangeKeys s t sp a n u).2 = .ok k) :
    ∃ s1, rangeKeys s t sp a n u = (s1, .ok k) := ⟨_, (Prod.eta _).symm.trans (congrArg _ h)⟩

theorem tld_keys : (rangeKeys (startIssue (.tld (oTmem .lo)) (WTiles [])) 1 .lo (leadReg (WTiles []) (WTiles []).active 6) 1024 .load).2 =
    .ok [(2 ^ 63, 1024)] := by rfl
theorem tst_keys : (rangeKeys (startIssue (.tst (oTmem .gl)) (WTiles [])) 1 .gl (leadReg (WTiles []) (WTiles []).active 6) 1024 .store).2 =
    .ok [(0, 1024)] := by rfl

theorem witness_tld : OneGang (WTiles []) (.tld (oTmem .lo)) 1 ∧ HandlesName (WTiles []) 1 [((oTmem .lo).h, 9, tileA)] ∧
    leadReg (WTiles []) (WTiles []).active (oTmem .lo).a % 16 = 0 ∧
    ∃ s1, rangeKeys (startIssue (.tld (oTmem .lo)) (WTiles [])) 1 .lo (leadReg (WTiles []) (WTiles []).active 6) 1024 .load = (s1, .ok [(2 ^ 63, 1024)]) :=
  ⟨oneGangTiles _ (by decide), all_named, by decide, keys_of tld_keys⟩
where all_named : HandlesName (WTiles []) 1 [((oTmem .lo).h, 9, tileA)] := by intro e he; simp at he; subst he; exact ⟨rfl, rfl⟩

theorem witness_tst : OneGang (WTiles []) (.tst (oTmem .gl)) 1 ∧ HandlesName (WTiles []) 1 [((oTmem .gl).h, 9, tileA)] ∧
    leadReg (WTiles []) (WTiles []).active (oTmem .gl).a % 16 = 0 ∧
    ∃ s1, rangeKeys (startIssue (.tst (oTmem .gl)) (WTiles [])) 1 .gl (leadReg (WTiles []) (WTiles []).active 6) 1024 .store = (s1, .ok [(0, 1024)]) :=
  ⟨oneGangTiles _ (by decide), by intro e he; simp at he; subst he; exact ⟨rfl, rfl⟩, by decide, keys_of tst_keys⟩

def oScale : OpScale := ⟨false, .rn, true, true, false, .none, 6, 1, 2⟩

theorem scale_keys : (rangeKeys (startIssue (.scaleacc oScale) (WTiles [])) 1 .lo (leadReg (WTiles []) (WTiles []).active 6) 136 .load).2 =
    .ok [(2 ^ 63, 136)] := by rfl

theorem witness_scaleacc : ∃ s1, OneGang (WTiles []) (.scaleacc oScale) 1 ∧ HandlesName (WTiles []) 1 [(oScale.ta, 9, tileA), (oScale.td, 10, tileB)] ∧
    tileB.chunks.length = tileA.chunks.length ∧ tileA.chunks.length ≤ ((WTiles []).gang 1).width ∧
    leadReg (WTiles []) (WTiles []).active oScale.a % 16 = 0 ∧
    rangeKeys (startIssue (.scaleacc oScale) (WTiles [])) 1 .lo (leadReg (WTiles []) (WTiles []).active 6) 136 .load = (s1, .ok [(2 ^ 63, 136)]) ∧
    (∀ k ∈ [((2 : Nat) ^ 63, (136 : Nat))], poisonFlt s1 k.1 k.2 = none) ∧
    scaleBad true true (128 * 2 / 8) 8 ([((2 : Nat) ^ 63, (136 : Nat))].flatMap fun k => readCells s1.mem.cells k.1 k.2) = none :=
  ⟨_, oneGangTiles _ (by decide), by intro e he; simp at he; rcases he with rfl | rfl <;> exact ⟨rfl, rfl⟩, rfl, by decide, by decide,
    (Prod.eta _).symm.trans (congrArg _ scale_keys), by decide, by decide⟩

/-- One operation of gang 1 in flight, counted on flag 0 of its thread. -/
def opOf (job : Job) (reads writes : List Nat) : Op := ⟨job, 1, 0, [(1, 0)], some 1, [1], none, 0, 0, reads, writes, 0⟩
def WOp (job : Job) (reads writes : List Nat) : State := { WTiles [] with ops := [(20, opOf job reads writes)] }

theorem ready (job : Job) (reads writes : List Nat) : TileOpReady (WOp job reads writes) 20 (opOf job reads writes) :=
  ⟨rfl, by simp [scoreboardFree, WOp], rfl, all_one (a := (1, 0)) rfl rfl, by intro e he; simp [WOp, WTiles] at he; rcases he with rfl | rfl <;> rfl⟩

theorem sound_A (job : Job) (reads writes : List Nat) : Sound (WOp job reads writes) tileA :=
  ⟨by decide, by intro c hc; simp [tileA] at hc; rcases hc with rfl | rfl <;> exact ⟨by decide, rfl⟩⟩
theorem sound_B (job : Job) (reads writes : List Nat) : Sound (WOp job reads writes) tileB :=
  ⟨by decide, by intro c hc; simp [tileB] at hc; rcases hc with rfl | rfl <;> exact ⟨by decide, rfl⟩⟩

theorem witness_tld_completion : TileOpReady (WOp (.tld 9 [(2 ^ 63, 1024)]) [] [9]) 20 (opOf (.tld 9 [(2 ^ 63, 1024)]) [] [9]) ∧
    (WOp (.tld 9 [(2 ^ 63, 1024)]) [] [9]).tiles.get? 9 = some tileA ∧ Sound (WOp (.tld 9 [(2 ^ 63, 1024)]) [] [9]) tileA ∧
    (unitsOf [(2 ^ 63, 1024)]).length = 32 * tileA.chunks.length ∧
    ∀ k ∈ unitsOf [(2 ^ 63, 1024)], k + 16 ≤ 2 ^ 64 ∧ poisonFlt (WOp (.tld 9 [(2 ^ 63, 1024)]) [] [9]) k 16 = none :=
  ⟨ready _ _ _, rfl, sound_A _ _ _, by decide, by decide⟩

theorem witness_tst_completion : TileOpReady (WOp (.tst 9 [(0, 1024)]) [9] []) 20 (opOf (.tst 9 [(0, 1024)]) [9] []) ∧
    Sound (WOp (.tst 9 [(0, 1024)]) [9] []) tileA ∧ (unitsOf [(0, 1024)]).length = 32 * tileA.chunks.length ∧
    (unitsOf [(0, 1024)]).Pairwise (fun a b => a + 16 ≤ b ∨ b + 16 ≤ a) ∧
    (∀ k ∈ unitsOf [(0, 1024)], k + 16 ≤ 2 ^ 64 ∧ unreachable (WOp (.tst 9 [(0, 1024)]) [9] []) k = false ∧
      metadataFlt (WOp (.tst 9 [(0, 1024)]) [9] []) k = none) :=
  ⟨ready _ _ _, sound_A _ _ _, by decide, by decide, by decide⟩

theorem witness_tzero_completion : TileOpReady (WOp (.tzero 9) [] [9]) 20 (opOf (.tzero 9) [] [9]) ∧ (WOp (.tzero 9) [] [9]).tiles.get? 9 = some tileA :=
  ⟨ready _ _ _, rfl⟩

theorem witness_tcvt_completion : TileOpReady (WOp (.tcvt 9 10 .e4m3 .rn) [9] [10]) 20 (opOf (.tcvt 9 10 .e4m3 .rn) [9] [10]) ∧
    (WOp (.tcvt 9 10 .e4m3 .rn) [9] [10]).tiles.get? 9 = some tileA ∧ (WOp (.tcvt 9 10 .e4m3 .rn) [9] [10]).tiles.get? 10 = some tileB ∧
    Sound (WOp (.tcvt 9 10 .e4m3 .rn) [9] [10]) tileA ∧ Sound (WOp (.tcvt 9 10 .e4m3 .rn) [9] [10]) tileB ∧
    cvtBytes .e4m3 tileA.chunks.length ≤ 512 * tileB.chunks.length :=
  ⟨ready _ _ _, rfl, rfl, sound_A _ _ _, sound_B _ _ _, by decide⟩

theorem witness_scaleacc_completion (rec_ : List Byte) : let j := Job.scaleacc 9 10 oScale.i32 oScale.mode oScale.ua oScale.ub 8 rec_
    TileOpReady (WOp j [9, 10] [10]) 20 (opOf j [9, 10] [10]) ∧ (WOp j [9, 10] [10]).tiles.get? 9 = some tileA ∧
    (WOp j [9, 10] [10]).tiles.get? 10 = some tileB ∧ Sound (WOp j [9, 10] [10]) tileA ∧ Sound (WOp j [9, 10] [10]) tileB ∧
    tileB.chunks.length = tileA.chunks.length :=
  ⟨ready _ _ _, rfl, rfl, sound_A _ _ _, sound_B _ _ _, rfl⟩

theorem witness_drainH_completion : TileOpReady (WOp (.drainH 9 10) [9] [10]) 20 (opOf (.drainH 9 10) [9] [10]) ∧
    Sound (WOp (.drainH 9 10) [9] [10]) tileA ∧ Sound (WOp (.drainH 9 10) [9] [10]) tileB ∧ tileA.chunks.length ≤ tileB.chunks.length :=
  ⟨ready _ _ _, sound_A _ _ _, sound_B _ _ _, by decide⟩

theorem witness_drainByp_completion : TileOpReady (WOp (.drainByp 9) [9] []) 20 (opOf (.drainByp 9) [9] []) ∧ Sound (WOp (.drainByp 9) [9] []) tileA :=
  ⟨ready _ _ _, sound_A _ _ _⟩

theorem witness_peerDrainAdd : let s := WOp (.drainPeer 9 0 7) [9] []
    TileOpReady s 20 (opOf (.drainPeer 9 0 7) [9] []) ∧ s.tiles.get? 9 = some tileA ∧ Sound s tileA ∧ Sound s tileB ∧
    s.tiles.find? (fun e => e.2.core == 0 && e.2.ctx == 1 && e.2.key == 7 && tilePlaced s e.1 e.2) = some (10, tileB) ∧ tileA.chunks.length ≤ tileB.chunks.length :=
  ⟨ready _ _ _, rfl, sound_A _ _ _, sound_B _ _ _, rfl, by decide⟩

/-- Pushes of chunk 1 of the tile: B asks for one push from chunk 1 on, A is 0. -/
def WPush : State := WTiles [(7, 0x101)]
def oPermit : OpPermit := ⟨.none, 7, .none, 6, 1⟩

theorem push_keys : (permitKeys (startIssue (.permit oPermit) WPush) 1 (leadReg WPush WPush.active 6) (List.range 1)).2 = .ok [0] := by rfl

theorem witness_permit : ∃ s1, OneGang WPush (.permit oPermit) 1 ∧ HandlesName WPush 1 [(oPermit.h, 9, tileA)] ∧ leadReg WPush WPush.active 6 % 512 = 0 ∧
    bits (leadReg WPush WPush.active 7) 14 8 = 1 ∧ permitBad tileA (leadReg WPush WPush.active 7) = false ∧ permitsOn WPush tileA.core + 1 ≤ 256 ∧
    permitKeys (startIssue (.permit oPermit) WPush) 1 (leadReg WPush WPush.active 6) (List.range 1) = (s1, .ok [0]) :=
  ⟨_, oneGangR rfl rfl rfl (by decide) rfl rfl, by intro e he; simp at he; subst he; exact ⟨rfl, rfl⟩, by decide, by decide, by decide, by decide,
    (Prod.eta _).symm.trans (congrArg _ push_keys)⟩

def WLanding : State :=
  { WTiles [] with ops := [(20, { opOf (.push 9 1 0x8000 0) [] [] with decs := [] })], tiles := [(9, { tileA with bitmap := 1, permits := [(1, 20)] })] }

theorem witness_chunkPushLanding : ∃ x T, WLanding.ops.get? 20 = some x ∧ x.job = .push 9 1 0x8000 0 ∧ x.qid = none ∧ pushIsNext WLanding 20 0 = true ∧
    WLanding.tiles.get? 9 = some T ∧ isView 0x8000 = false ∧ poisonFlt WLanding 0x8000 512 = none ∧
    poisonFlt WLanding (0x8000 + 256) 256 = none ∧ (∀ e ∈ WLanding.tiles, e.2.freed = false) ∧ ∀ g, tileGang WLanding 9 T = some g → NoneBlocked WLanding g :=
  ⟨_, _, rfl, rfl, rfl, by decide, rfl, by decide, by decide, by decide, by decide, by
    intro g hg
    obtain rfl : (1 : Nat) = g := Option.some.inj hg
    exact noneBlocked (all_one (a := 1) rfl rfl)⟩

/-! ### Matrix operations -/

def withBytes (s : State) (a : Nat) (bs : List Byte) : State := { s with mem := { s.mem with cells := writeCells s.mem.cells a bs } }

def oMma : OpMma := ⟨false, .e4m3, 0, .none, 8, 1, 2⟩
def oMma8 : OpMma8 := ⟨.int8, 0, .none, 8, 1, 2⟩
def fMma : MmaForm := ⟨0x6A, oMma.el.code, 1, 2, .e4m3, 0, 8, false⟩

/-- The tiles of gang 1 and its join 0 Open for its two threads, or for the one of the group. -/
def openFor (s : State) (e : Nat) : State :=
  { withGang s fun x => { x with h := (x.h.set 1 (some 9)).set 2 (some 10), joins := ⟨.opened, e, 0, []⟩ :: List.replicate 7 .idle } with
    tiles := [(9, tileA), (10, tileB)] }

theorem maySign (e : Nat) (he : e < 2 ^ 64) (s : State) (hs : s = W ∨ s = W2) (h0 : 0 ∈ (⟨.opened, e, 0, []⟩ : Join).pending)
    (hb : encodingBad (openFor s e) (.mmaFa oMma) 1 = false) : MaySign (openFor s e) (.mmaFa oMma) 1 fMma ⟨.opened, e, 0, []⟩ := by
  rcases hs with rfl | rfl <;>
    exact ⟨oneGangR rfl rfl rfl hb rfl rfl, ⟨show 0 < 8 by decide, rfl, rfl, he, show 0 < 2 ^ 64 by decide⟩, all_one (a := 1) rfl h0, nofun,
      all_one (a := 1) rfl rfl⟩

theorem witness_mma_signs : (Instr.mmaFa oMma, fMma) ∈ matrixTable oMma oMma8 ∧ MaySign (openFor W2 3) (.mmaFa oMma) 1 fMma ⟨.opened, 3, 0, []⟩ ∧
    ∃ p ∈ (⟨.opened, 3, 0, []⟩ : Join).pending, ∃ u, nth ((openFor W2 3).gang 1).at_ p none = some u ∧ u ∉ (openFor W2 3).active ∧
      (∀ th ∈ (openFor W2 3).active, ((openFor W2 3).thread th).pos ≠ p) ∧ ((openFor W2 3).thread u).run = .ready :=
  ⟨List.mem_cons_self, maySign 3 (by decide) _ (Or.inr rfl) (by decide) (by decide), 1, by decide, 2, rfl, by decide, all_one (a := 1) rfl (by decide), rfl⟩

theorem witness_mma_completes : MaySign (openFor W 1) (.mmaFa oMma) 1 fMma ⟨.opened, 1, 0, []⟩ ∧
    (∀ p ∈ (⟨.opened, 1, 0, []⟩ : Join).pending, ∃ th ∈ (openFor W 1).active, ((openFor W 1).thread th).pos = p) ∧ NoWaiters (openFor W 1) 1 ∧
    ((openFor W 1).core ((openFor W 1).gang 1).core).matq.length < 8 ∧ vget ((openFor W 1).gang 1).h 1 none = some 9 ∧
    vget ((openFor W 1).gang 1).h 2 none = some 10 ∧ (openFor W 1).tiles.get? 9 = some tileA ∧ (openFor W 1).tiles.get? 10 = some tileB ∧
    shapeDetail fMma.fmt fMma.major 2 2 ((openFor W 1).gang 1).width false = none :=
  ⟨maySign 1 (by decide) _ (Or.inl rfl) (by decide) (by decide), by
      have h : (⟨.opened, 1, 0, []⟩ : Join).pending = [0] := by decide
      rw [h]
      exact all_one rfl ⟨1, by decide, rfl⟩,
    all_one (a := 1) rfl rfl, by decide, rfl, rfl, rfl, rfl, by decide⟩

/-- An operation at the head of the matrix queue of core 0, and one that runs. -/
def sigOf (p : Nat) : Sig := ⟨p, 1, 0x6A, oMma.el.code, 1, 2, [], 0, 0, none⟩
def jobMma : Job := .mma oMma.el.code 0x6A 9 10 8 1 [sigOf 0, sigOf 1] none
def WMatq : State :=
  { WOp jobMma [9, 10] [10] with cores := (WOp jobMma [9, 10] [10]).cores.set 0 { Core.initial with matq := [20] } }
def WRunning : State :=
  { WOp jobMma [9, 10] [10] with cores := (WOp jobMma [9, 10] [10]).cores.set 0 { Core.initial with running := some 20 } }

theorem witness_matrixOperationStart : ∃ c, WMatq.cores.get? 0 = some c ∧ c.matq = 20 :: [] ∧ c.running = none ∧
    WMatq.ops.get? 20 = some (opOf jobMma [9, 10] [10]) ∧ scoreboardFree WMatq 20 (opOf jobMma [9, 10] [10]) = true :=
  ⟨_, rfl, rfl, rfl, rfl, by decide⟩

theorem witness_matrixOperationCompletion : (WRunning.core 0).running = some 20 ∧ WRunning.ops.get? 20 = some (opOf jobMma [9, 10] [10]) ∧
    (opOf jobMma [9, 10] [10]).qid = none ∧ WRunning.tiles.get? 9 = some tileA ∧ WRunning.tiles.get? 10 = some tileB ∧ Sound WRunning tileA ∧
    Sound WRunning tileB ∧ (∀ c ∈ tileA.chunks, c ∉ tileB.chunks) ∧ (∀ e ∈ WRunning.tiles, e.2.freed = false) ∧
    (∀ d ∈ (opOf jobMma [9, 10] [10]).decs, (WRunning.thread d.1).run = .ready) ∧
    (∀ i < rowCount oMma.el.code (isSp8 0x6A) 2, rowFault WRunning tileA oMma.el.code 0x6A false i = none) ∧
    ([sigOf 0, sigOf 1].map (·.pos)).Nodup ∧ (∀ x ∈ [sigOf 0, sigOf 1], x.pos < 8) ∧
    4 * rowCount oMma.el.code (isSp8 0x6A) 2 * 8 ≤ 512 * tileB.chunks.length :=
  ⟨rfl, rfl, rfl, rfl, rfl, sound_A jobMma [9, 10] [10], sound_B jobMma [9, 10] [10], by decide, by decide, all_one rfl rfl, by decide, by decide,
    by decide, by decide⟩

/-! ### Graphics -/

/-- The value of a successful read. -/
def okVal {ε α : Type} : Except ε α → Option α
  | .ok v => some v
  | .error _ => none

theorem ok_of {ε α : Type} {e : Except ε α} {v : α} (h : okVal e = some v) : e = .ok v := by cases e <;> simp_all [okVal]

theorem witness_edge : Carries W (.edge ⟨.none, 8, .none, 1, 2⟩) := carriesW _ (by decide)
theorem witness_interp : ∃ f, (Instr.interpFlat ⟨.none, 12, .none, 7, 5⟩, f) ∈ interpTable ⟨.none, 12, .none, 7, 5⟩ ∧
    Carries W (.interpFlat ⟨.none, 12, .none, 7, 5⟩) := ⟨_, List.mem_cons_self, carriesW _ (by decide)⟩
theorem witness_deriv : Carries W (.deriv ⟨.f32, true, false, .none, 6, 5⟩) := carriesW _ (by decide)

/-- A resource of 4 by 4 texels of four bytes at 0x9000, its descriptor at 0x4000. -/
def resWord : Nat := 0x9000 + 3 * 2 ^ 64 + 3 * 2 ^ 80 + 2 * 2 ^ 96
def WRes (l : List (Nat × Word)) : State := withBytes (regs W ((7, 0x4000) :: l)) 0x4000 (bytesOfNat resWord 32)
def oTex : Op3X := ⟨.none, 7, .none, 4, 10⟩

theorem desc_texs : (readRes (startIssue (.texs oTex) (WRes [])) 1 0x4000).2 = .ok resWord := by rfl

theorem alone_of {s : State} {i : Instr} (hg : s.grp.threads = [1]) (hr : (s.threads.get? 1).map (·.run) = some .ready)
    (hk : (s.gangs.get? (s.thread 1).gang).isSome = true) (he : encodingBad s i 1 = false) (ha : s.active = [1]) (hp : s.accsOf 1 = [])
    (hd : s.sched.defer = []) : Alone s i 1 := alone (carries i hg hr hk he) ha hp hd

theorem descAt (l : List (Nat × Word)) (i : Instr) (ha : Alone (WRes l) i 1) (hv : ((WRes l).gr 1 (7 : Fin 64)).toNat = 0x4000)
    (h : (readRes (startIssue i (WRes l)) 1 0x4000).2 = .ok resWord) : ∃ s1, DescriptorAt (WRes l) i 1 7 s1 resWord :=
  ⟨_, ha, by rw [hv]; exact (Prod.eta _).symm.trans (congrArg _ h)⟩

theorem witness_texs_finite : ∃ s1, (Instr.texs oTex, sampleTexs) ∈ texTable oTex ∧ DescriptorAt (WRes []) (.texs oTex) 1 oTex.b s1 resWord ∧
    (f32 ((WRes []).gr 1 4).toNat).isFinite = true ∧ (f32 (((WRes []).gr 1 4).toNat / 2 ^ 32)).isFinite = true :=
  (descAt [] (.texs oTex) (alone_of rfl rfl rfl (by decide) rfl rfl rfl) (by decide) desc_texs).elim fun s1 h => ⟨s1, List.mem_cons_self, h, by decide, by decide⟩

theorem sample_texs : (sampleTexs (readRes (startIssue (.texs oTex) (WRes [])) 1 0x4000).1 1 resWord
    (sampleLevel resWord ((WRes []).gr 1 5).toNat) (f32 0) (f32 0)).2 = .ok 0 := ok_of (by decide +kernel)

theorem witness_texs_infinite : (f32 ((WRes [(4, 0x7F800000)]).gr 1 4).toNat).isFinite = false ∧
    ∃ s1, DescriptorAt (WRes [(4, 0x7F800000)]) (.texg oTex) 1 oTex.b s1 resWord :=
  ⟨by decide, descAt _ _ (alone_of rfl rfl rfl (by decide) rfl rfl rfl) (by decide) (by rfl)⟩

theorem witness_imld : ∃ s1, DescriptorAt (WRes []) (.imld oTex) 1 oTex.b s1 resWord ∧ ((WRes []).gr 1 5).toNat % 16 ≤ bits resWord 143 140 ∧
    ((WRes []).gr 1 4).toNat % 2 ^ 32 < levelW resWord 0 ∧ ((WRes []).gr 1 4).toNat / 2 ^ 32 < levelH resWord 0 ∧
    (rayLoad s1 1 (texelAddr resWord 0 0 0) (texelBytes (bits resWord 103 96))).2 = .ok 0 :=
  ⟨_, ⟨alone_of rfl rfl rfl (by decide) rfl rfl rfl, (Prod.eta _).symm.trans
    (congrArg _ (show (readRes (startIssue (.imld oTex) (WRes [])) 1 ((WRes []).gr 1 oTex.b).toNat).2 = .ok resWord by rfl))⟩, by decide, by decide,
    by decide, by rfl⟩

theorem witness_imld_outside : levelW resWord 0 ≤ ((WRes [(4, 4)]).gr 1 4).toNat % 2 ^ 32 ∧
    ∃ s1, DescriptorAt (WRes [(4, 4)]) (.imld oTex) 1 oTex.b s1 resWord :=
  ⟨by decide, descAt _ _ (alone_of rfl rfl rfl (by decide) rfl rfl rfl) (by decide) (by rfl)⟩

theorem imst_key : (resolveNow (readRes (startIssue (.imst oTex) (WRes [])) 1 0x4000).1 1 .gl (texelAddr resWord 0 0 0) 4 .store).2 = .ok 0x9000 := by rfl

theorem witness_imst : bit resWord 191 = false ∧ (∃ s1, DescriptorAt (WRes []) (.imst oTex) 1 oTex.b s1 resWord) ∧
    metadataFlt (resolveNow (readRes (startIssue (.imst oTex) (WRes [])) 1 0x4000).1 1 .gl (texelAddr resWord 0 0 0) 4 .store).1 0x9000 = none ∧
    unreachable (resolveNow (readRes (startIssue (.imst oTex) (WRes [])) 1 0x4000).1 1 .gl (texelAddr resWord 0 0 0) 4 .store).1 0x9000 = false ∧
    isView 0x9000 = false :=
  ⟨by decide, descAt _ _ (alone_of rfl rfl rfl (by decide) rfl rfl rfl) (by decide) (by rfl), by decide +kernel, by decide +kernel, by decide⟩

/-- A frame block of one tile and one target, whose descriptor stands at 0x4000; a frame in its raster phase, with an item. -/
def frameBlock : List Byte := bytesOfNat 0 40 ++ bytesOfNat 0x01000101 8 ++ bytesOfNat 0 16 ++ bytesOfNat 0x4000 8 ++ bytesOfNat 0 56
def itemW : WorkItem := ⟨30, 0, 0, 0, true, some 1, [1], [], false⟩
def frameW : Frame :=
  ⟨1, 0, 1, 0x5000, frameBlock, 1, [4], [⟨0, 0, 0, some (bytesOfNat 0 64), 0, 0, false⟩], [], [⟨0, [0], 0, false, false, true, 1, none, false⟩], [itemW],
   1, 3, 64, 8, 1, 8, 0, false, false, false, false, false, false, [], [], true, 0⟩
def WFrag : State :=
  { withGang (withTeam (WRes []) fun x => { x with role := .stage 4 1 1 }) fun x => { x with item := some ⟨3, 30⟩ } with
    insts := [(4, { instOf (fifoOf []) with frame := some 3 })], frames := [(3, frameW)] }
def oExport : OpExport := ⟨0, .none, 12⟩

theorem export_desc : (devRead (startIssue (.exportOp oExport) WFrag) 1 (frameW.rtDesc 0) 32).2 = some (bytesOfNat resWord 32) := by decide +kernel

theorem witness_export : ∃ s1, Alone WFrag (.exportOp oExport) 1 ∧ currentItem WFrag 1 = some (3, frameW, itemW) ∧
    exportBad frameW itemW 0 (WFrag.gr 1 12).toNat = false ∧
    devRead (startIssue (.exportOp oExport) WFrag) frameW.ctx (frameW.rtDesc 0) 32 = (s1, some (bytesOfNat resWord 32)) ∧
    texelBytes (bits (natOfBytes (bytesOfNat resWord 32)) 103 96) ≠ 0 ∧ isDepth (itemState frameW itemW) 0 = false ∧
    WFrag.frames.get? 3 = some frameW ∧ s1.frames = WFrag.frames :=
  ⟨_, alone_of rfl rfl rfl (by decide) rfl rfl rfl, by rfl, by decide, (Prod.eta _).symm.trans (congrArg _ export_desc), by decide, by decide,
    rfl, by rfl⟩

/-- Two threads of a fragment stage, without an item. -/
def WDiscard : State :=
  { withTeam W2 fun x => { x with role := .stage 4 1 1 } with insts := [(4, { instOf (fifoOf []) with frame := some 3 })], frames := [(3, { frameW with items := [] })] }

theorem witness_discard : Carries WDiscard .discard ∧ ∀ th ∈ WDiscard.active, inFragment WDiscard th = true ∧ (WDiscard.thread th).entered = [] ∧
    (WDiscard.thread th).region = none ∧ (WDiscard.thread th).query = none ∧ itemsOf WDiscard th = [] ∧
    (WDiscard.cluster (WDiscard.clusterOf th)).infReqs = [] ∧ StaysOpen WDiscard (WDiscard.thread th).gang WDiscard.active ∧
    hasCards WDiscard (WDiscard.teamIdOf th) = false ∧ ∃ u ∈ teamThreads WDiscard (WDiscard.teamIdOf th), u ∉ WDiscard.active ∧ (WDiscard.thread u).run = .ready :=
  ⟨carries _ rfl rfl rfl (by decide), all_one (a := 1) rfl
    ⟨by decide, rfl, rfl, rfl, by decide, rfl, staysOpen_of_idle (by decide), by decide, 2, by decide, by decide, rfl⟩⟩

/-! ### Regions and the inference queue -/

def regionW : Region := ⟨0x10000, 3, 0x10100, [1, 3], none, false, false, 0, 0⟩
def WRegion : State := withThread W fun x => { x with region := some regionW }

theorem witness_pure : Carries W (.pureOp ⟨0x80, 3⟩) ∧ ∀ th ∈ W.active, (W.thread th).region = none := ⟨carriesW _ (by decide), all_one (a := 1) rfl rfl⟩

theorem witness_mkey : Carries WRegion (.mkey ⟨.f32, 5, .none, 6⟩) ∧
    (∀ th ∈ WRegion.active, (WRegion.thread th).region = some regionW ∧ regionW.finished = none) ∧ ((KKind.f32 = .raw ∨ KKind.f32 = .f64) → (5 : Fin 8).val = 0) :=
  ⟨carries _ rfl rfl rfl (by decide), all_one (a := 1) rfl ⟨rfl, rfl⟩, by decide⟩

theorem witness_mexcl : Carries WRegion (.mexcl ⟨.f32, .none, 6⟩) := carries _ rfl rfl rfl (by decide)

theorem witness_pend : Carries WRegion .pend ∧ ∀ th ∈ WRegion.active, (WRegion.thread th).region = some regionW ∧
    ∀ x, some regionW = some x → x.audit = false :=
  ⟨carries _ rfl rfl rfl (by decide), all_one (a := 1) rfl ⟨rfl, fun _ h => Option.some.inj h ▸ rfl⟩⟩

def oProbe : OpMprobe := ⟨0, 3, 4⟩

theorem witness_mprobe_misses : Carries WRegion (.mprobe oProbe) ∧ WRegion.active = [1] ∧ (WRegion.thread 1).region = some regionW ∧
    regionW.table = oProbe.t.val ∧ regionW.unusable = false ∧ regionW.mode ≠ 3 ∧ regionW.mode ≠ 2 ∧ regionW.audit = false ∧
    (WRegion.cluster (WRegion.clusterOf 1)).memo = [] :=
  ⟨carries _ rfl rfl rfl (by decide), rfl, rfl, rfl, rfl, by decide, by decide, rfl, rfl⟩

/-- The key of the region, and an entry under it in table 3, which lies in bank 5 of cluster 0. -/
def keyW : Nat := signature64 [1, 3]
def tableReg : Word := 0x8000280000000000
def entryW : MemoEntry := MemoEntry.sealed ⟨3, 4 * keySet tableReg keyW, keyW, 1, 1, 0, 0, 77, List.replicate 16 9⟩
def memoCluster (l : List MemoEntry) : Cluster :=
  { Cluster.initial with bankMode := 0xC00, banks := (List.replicate 32 ⟨0, none⟩).set 5 ⟨3, none⟩, memoTable := (List.replicate 16 0).set 3 tableReg, memo := l }
def WMemo (l : List MemoEntry) : State := { WRegion with clusters := WRegion.clusters.set 0 (memoCluster l) }

theorem witness_mprobe_hits : Carries (WMemo [entryW]) (.mprobe oProbe) ∧ (WMemo [entryW]).active = [1] ∧ ((WMemo [entryW]).thread 1).region = some regionW ∧
    (∀ x ∈ ((WMemo [entryW]).cluster ((WMemo [entryW]).clusterOf 1)).memo, x.broken = false) ∧
    tableUsable ((WMemo [entryW]).cluster ((WMemo [entryW]).clusterOf 1)) 3 = true ∧
    findEntry ((WMemo [entryW]).cluster ((WMemo [entryW]).clusterOf 1)) 3 ((WMemo [entryW]).ctxOf 1) keyW = some entryW :=
  ⟨carries _ rfl rfl rfl (by decide), rfl, rfl, all_one (a := entryW) rfl (by decide +kernel), by decide, by decide +kernel⟩

theorem witness_mstore : Carries (WMemo []) (.mstore ⟨0, 3, .none, 4⟩) ∧ (WMemo []).active = [1] ∧ ((WMemo []).thread 1).region = some regionW ∧
    regionW.unusable = false ∧ regionW.mode ≠ 3 ∧ regionW.audit = false ∧ tableUsable ((WMemo []).cluster ((WMemo []).clusterOf 1)) 3 = true ∧
    16 * 1 ≤ tabPayload (nth ((WMemo []).cluster ((WMemo []).clusterOf 1)).memoTable 3 0) :=
  ⟨carries _ rfl rfl rfl (by decide), rfl, rfl, rfl, by decide, rfl, by decide, by decide⟩

/-- A network descriptor at 0x4000: entry 0x10000, two inputs, one output, batches of two, a wait of 64. -/
def netWord : Nat := 4 * 2 ^ 14 + 2 ^ 80 + 2 * 2 ^ 88 + 64 * 2 ^ 96
def WNet : State := withBytes (regs W [(7, 0x4000)]) 0x4000 (bytesOfNat netWord 64)
def oInfq : OpInfq := ⟨false, .none, 8, .none, 7, 12⟩

theorem net_desc : (rayLoad (startIssue (.infq oInfq) WNet) 1 0x4000 64).2 = .ok netWord := ok_of (by decide +kernel)

theorem witness_infq : ∃ s1, Alone WNet (.infq oInfq) 1 ∧ (WNet.gr 1 oInfq.a).toNat % 64 = 0 ∧
    rayLoad (startIssue (.infq oInfq) WNet) 1 (WNet.gr 1 oInfq.a).toNat 64 = (s1, .ok netWord) ∧ netBad netWord = false ∧ bit netWord 119 = false ∧
    oInfq.b.val + (bits netWord 83 80 + 1) ≤ (WNet.gangOf 1).d ∧ oInfq.d.val + (bits netWord 87 84 + 1) ≤ (WNet.gangOf 1).d ∧
    infMustWait s1 (WNet.clusterOf 1) 1 = false :=
  ⟨_, alone_of rfl rfl rfl (by decide) rfl rfl rfl, by decide, (Prod.eta _).symm.trans (congrArg _ net_desc), by decide +kernel, by decide, by decide, by decide,
    by rfl⟩

def reqOf (id : Nat) : InfReq := ⟨id, 1, 0, 1, 1, 0x4000, netWord, 12, none, false, 0, [5, 6], false, none⟩
def infCluster : Cluster := { Cluster.initial with infReqs := [reqOf 40, reqOf 41] }
def WReqs : State := { W with clusters := [(0, infCluster)] }

theorem witness_infqBatchLaunch : WReqs.clusters = [(0, infCluster)] ∧ infCluster.infReqs = reqOf 40 :: [reqOf 41] ∧
    ([reqOf 41] : List InfReq).length + 1 = bits (reqOf 40).desc 95 88 ∧
    (∀ x ∈ [reqOf 40, reqOf 41], x.batch = none ∧ x.ctx = (reqOf 40).ctx ∧ x.net = (reqOf 40).net ∧ x.desc = (reqOf 40).desc) ∧
    (WReqs.core (16 * 0)).records.length < 4 ∧ nth WReqs.mgmt.coreX 0 0 = 0 ∧ (∀ e ∈ WReqs.grids, e.2.batch = none ∨ e.2.returned = []) :=
  ⟨rfl, rfl, by decide, by decide, by decide, by decide, by decide⟩

/-- A finished batch of one request. -/
def batchTeam : Team := { placedTeam with role := .batch 0 7, gangs := [], localBase := 0 }
def WBatch : State :=
  { W with teams := W.teams.set 5 batchTeam
           clusters := W.clusters.set 0 { W.cluster 0 with infReqs := [{ reqOf 40 with batch := some 7 }], infBatches := [⟨7, 1, netWord, [40], 2, 0, []⟩] } }

theorem witness_infqBatchCompletion : WBatch.teams.get? 5 = some batchTeam ∧ batchTeam.role = .batch 0 7 ∧ batchTeam.gangs = [] ∧
    (WBatch.cluster 0).infBatches = [⟨7, 1, netWord, [40], 2, 0, []⟩] ∧ (WBatch.cluster 0).infReqs = [{ reqOf 40 with batch := some 7 }] ∧
    (WBatch.thread 1).run = .ready ∧ WBatch.threads.get? 1 ≠ none ∧ scratchKey (WBatch.cluster 0) 0 (batchTeam.localBase + 8192) = some (2 ^ 63 + 8192) ∧
    poisonAt WBatch.mem (2 ^ 63 + 8192) 8 = none ∧ (12 : Nat) + (bits netWord 87 84 + 1) ≤ 64 ∧ (reqOf 40).flag < 12 :=
  ⟨rfl, rfl, rfl, rfl, rfl, rfl, by decide, by decide, rfl, by decide, by decide⟩

/-! ### Ray queries -/

/-- A ray descriptor that names the structure at 0x6000 and records of 32 bytes at 0x7000, in g8 to g15; the query that holds it. -/
def rayWords : List Word := [0x6000, 0, 0, 0, 0, 0, 0x7000, 0x2000000000]
def rayRegs : List (Nat × Word) := (List.range 8).map fun k => (8 + k, nth rayWords k 0)
def WRay (q : Query) : State := withThread (regs W rayRegs) fun x => { x with query := some q }

theorem witness_rqset : Alone (WRay (.idle none)) (.rqset ⟨.none, 8⟩) 1 ∧ (queryOf (WRay (.idle none)) 1).phase = 0 ∧
    ((List.range 8).map fun k => (WRay (.idle none)).gr 1 (8 + k)) = rayWords ∧ descBad (descriptorOf rayWords) = false ∧
    bits (descriptorOf rayWords) 63 0 % 64 = 0 ∧ bits (descriptorOf rayWords) 447 384 % 32 = 0 :=
  ⟨alone_of rfl rfl rfl (by decide) rfl rfl rfl, rfl, by decide, by decide +kernel, by decide +kernel, by decide +kernel⟩

/-- The header at 0x6000 names generation 1, VALID; its structure is object 50. -/
def genW : Gen := ⟨1, 0x20000001, [1], 0, [], List.replicate 60 0, []⟩
def structW : Struct := ⟨1, 0x6000, [genW], some 1, [1], 0, none, []⟩
def WStruct (s : State) (valid : Bool) : State :=
  { withBytes s 0x6000 (bytesOfNat (1 + (if valid then 2 ^ 328 else 0)) 64) with structs := [(50, structW)] }
def idleW : Query := .idle (some rayWords)

theorem begin_header (v : Bool) : (headerRead (startIssue (.rqbegin ⟨.none, 6, 5⟩) (WStruct (WRay idleW) v)) 1 0x6000).2 = .ok (1 + (if v then 2 ^ 328 else 0)) := by
  cases v <;> exact ok_of (by decide +kernel)

theorem witness_rqbegin (v : Bool) : ∃ s1, Alone (WStruct (WRay idleW) v) (.rqbegin ⟨.none, 6, 5⟩) 1 ∧ HasQuery (WStruct (WRay idleW) v) 1 idleW ∧
    idleW.phase = 0 ∧ idleW.desc = some rayWords ∧ bit (descriptorOf rayWords) 375 = false ∧ (WStruct (WRay idleW) v).gr 1 6 = 0 ∧
    headerRead (startIssue (.rqbegin ⟨.none, 6, 5⟩) (WStruct (WRay idleW) v)) 1 0x6000 = (s1, .ok (1 + (if v then 2 ^ 328 else 0))) := by
  cases v <;>
    exact ⟨_, alone_of rfl rfl rfl (by decide) rfl rfl rfl, rfl, rfl, rfl, by decide +kernel, by decide, (Prod.eta _).symm.trans (congrArg _ (begin_header _))⟩

theorem witness_rqbegin_valid : headerValid (1 + 2 ^ 328) = true ∧ headerValid 1 = false ∧
    liveGen (headerRead (startIssue (.rqbegin ⟨.none, 6, 5⟩) (WStruct (WRay idleW) true)) 1 0x6000).1 1 0x6000 (headerGen (1 + 2 ^ 328)) = some (50, genW) :=
  ⟨by decide +kernel, by decide +kernel, by decide +kernel⟩

/-- Queries that traverse: one with nothing left, one with a procedural candidate, one with a triangle candidate and a committed hit. -/
def activeW : Query := { idleW with phase := 1, hdr := 0x6000, gen := 1, pinned := true, tmax := 0x7F7FFFFF }
def hitW (kind : Nat) : RayHit := ⟨kind, 0x3F800000, 0, 0, 0, 0, true, true, 0, 0, 0, 0x7000, 0, 0, 0x7F7FFFFF, [], false, false⟩
def candW (kind : Nat) : Query := { activeW with cand := some (hitW kind), commit := some (hitW 1) }

theorem witness_rqstep_ends : Alone (WRay activeW) (.rqstep 5) 1 ∧ HasQuery (WRay activeW) 1 activeW ∧ activeW.phase = 1 ∧ activeW.stack = [] ∧
    activeW.commit = none ∧ rayWalk (startIssue (.rqstep 5) (WRay activeW)) 1 { activeW with cand := none } stepFuel =
      .stop (startIssue (.rqstep 5) (WRay activeW)) { activeW with phase := 2 } ∧ commitRange { activeW with phase := 2 } = none :=
  ⟨alone_of rfl rfl rfl (by decide) rfl rfl rfl, rfl, rfl, rfl, rfl, rfl, rfl⟩

theorem witness_rqreport : Alone (WRay (candW 2)) (.rqreport ⟨.none, 7, .none, 6, 5⟩) 1 ∧ HasQuery (WRay (candW 2)) 1 (candW 2) ∧ (candW 2).phase ≠ 0 ∧
    (candW 2).cand = some (hitW 2) ∧ (hitW 2).kind = 2 := ⟨alone_of rfl rfl rfl (by decide) rfl rfl rfl, rfl, by decide, rfl, rfl⟩

theorem witness_rqcommit : Alone (WRay (candW 1)) (.rqcommit 5) 1 ∧ HasQuery (WRay (candW 1)) 1 (candW 1) ∧ (commits (candW 1)).isSome = true ∧
    (commits activeW).isSome = false := ⟨alone_of rfl rfl rfl (by decide) rfl rfl rfl, rfl, by decide, by decide⟩

theorem witness_rqget : Alone (WRay (candW 1)) (.rqget ⟨.none, 6, 5⟩) 1 ∧ (candW 1).phase ≠ 0 ∧ ((WRay (candW 1)).gr 1 6).toNat < 16 ∧
    ∀ h, (candW 1).commit = some h → h.reused = false :=
  ⟨alone_of rfl rfl rfl (by decide) rfl rfl rfl, by decide, by decide, fun _ h => Option.some.inj h ▸ rfl⟩

theorem witness_rqend : Alone (WStruct (WRay activeW) true) .rqend 1 ∧ HasQuery (WStruct (WRay activeW) true) 1 activeW ∧ activeW.phase ≠ 0 ∧ activeW.key = none ∧
    activeW.pinned = true ∧ structAt (WStruct (WRay activeW) true) 1 activeW.hdr = some 50 :=
  ⟨alone_of rfl rfl rfl (by decide) rfl rfl rfl, rfl, by decide, rfl, rfl, by decide⟩

/-! ### Repacks, structures and the Loom -/

theorem witness_card : Carries W (.card ⟨.none, 6⟩) ∧ (∀ th ∈ W.active, (W.thread th).entered = []) ∧ 1 ∈ teamThreads W (W.teamIdOf 1) :=
  ⟨carriesW _ (by decide), all_one (a := 1) rfl rfl, by decide⟩

/-- A team of two gangs on one core: threads 1 and 2, Blocked at a card with keys 8 and 7, and 3, with key 6, beside thread 4, which has
exited. -/
def cardGang (a b : Nat) : Gang := { placedGang with at_ := some a :: some b :: List.replicate 6 none }
def cardThread (g p n : Nat) (run : Run) : Thread := { placedThread with gang := g, pos := p, tid := n, run := run, after := 0x10004 }
def cardTeam : Team := { placedTeam with gangs := [1, 2] }
def WCards : State :=
  { W with
    threads := [(1, cardThread 1 0 0 (.blocked (.card 8))), (2, cardThread 1 1 1 (.blocked (.card 7))), (3, cardThread 2 0 2 (.blocked (.card 6))),
      (4, cardThread 2 1 3 .exited)]
    gangs := [(1, cardGang 1 2), (2, { cardGang 3 4 with num := 1 })], teams := [(1, cardTeam)] }

/-- What a gang of two threads at a card holds. -/
theorem atCardPair {s : State} {g a b : Nat} {G : Gang} {key : Nat → Nat} (hat : G.at_ = some a :: some b :: List.replicate 6 none)
    (ha : ∃ x, s.threads.get? a = some x ∧ x.gang = g ∧ x.pos = 0 ∧ (x.run = .exited ∨ x.run = .blocked (.card (key a))))
    (hb : ∃ x, s.threads.get? b = some x ∧ x.gang = g ∧ x.pos = 1 ∧ (x.run = .exited ∨ x.run = .blocked (.card (key b)))) (p th : Nat)
    (h : nth G.at_ p none = some th) :
    ∃ x, s.threads.get? th = some x ∧ x.gang = g ∧ x.pos = p ∧ (x.run = .exited ∨ x.run = .blocked (.card (key th))) := by
  rw [hat] at h
  match p with
  | 0 => obtain rfl : a = th := Option.some.inj h; exact ha
  | 1 => obtain rfl : b = th := Option.some.inj h; exact hb
  | 2 => cases h
  | 3 => cases h
  | 4 => cases h
  | 5 => cases h
  | 6 => cases h
  | 7 => cases h
  | p + 8 => exact nomatch (show none = some th from h)

theorem witness_repack : WCards.teams = [(1, cardTeam)] ∧ cardTeam.res = .resident ∧ cardTeam.cores = [0] ∧ WCards.accs = [] ∧ cardTeam.gangs.Nodup ∧
    gangsThere WCards 1 0 = [1, 2] ∧ AtCard WCards (9 - ·) [1, 2] ∧ carders WCards [1, 2] = [1, 2, 3] ∧
    (∀ a ∈ carders WCards [1, 2], ∀ b ∈ carders WCards [1, 2], (WCards.thread a).tid = (WCards.thread b).tid → a = b) := by
  refine ⟨rfl, rfl, rfl, rfl, by decide, by decide, ?_, by decide, by decide⟩
  intro g hg
  have hg : g = 1 ∨ g = 2 := by simpa using hg
  rcases hg with rfl | rfl
  · exact ⟨_, rfl, rfl, rfl, all_one_idle, rfl, by decide, atCardPair rfl ⟨_, rfl, rfl, rfl, Or.inr rfl⟩ ⟨_, rfl, rfl, rfl, Or.inr rfl⟩⟩
  · exact ⟨_, rfl, rfl, rfl, all_one_idle, rfl, by decide, atCardPair rfl ⟨_, rfl, rfl, rfl, Or.inr rfl⟩ ⟨_, rfl, rfl, rfl, Or.inl rfl⟩⟩
where all_one_idle : ∀ j ∈ placedGang.joins, j.sigs = [] := by decide

/-- With one gang at a card beside one that is empty, the empty one stays as it is: its condition of being gone is met. -/
theorem witness_repack_dissolves : ∀ n, vget (WCards.gang 2).h n none = none ∧ (WCards.gang 2).queue = [] ∧ (WCards.gang 2).raised = [] := by
  intro n
  refine ⟨?_, rfl, rfl⟩
  by_cases h : n < 16
  · have : ∀ n < 16, vget (WCards.gang 2).h n none = none := by decide
    exact this n h
  · simp [vget, h]

theorem witness_bld : Alone W (.bld ⟨false, .none, 6⟩) 1 ∧ (W.gr 1 6).toNat % 64 = 0 := ⟨aloneW _ (by decide), by decide⟩

/-- Register 6 names the structure at 0x6000. -/
def WHdr (valid : Bool) : State := WStruct (regs W [(6, 0x6000), (7, 1)]) valid
def pinned (s : State) : State := { s with ctxs := s.ctxs.set 1 { s.ctx 1 with pins := [(50, 1)] } }

theorem gpin_header (v : Bool) : (headerRead (startIssue (.gpin o2) (WHdr v)) 1 ((WHdr v).gr 1 o2.a).toNat).2 = .ok (1 + (if v then 2 ^ 328 else 0)) := by
  cases v <;> exact ok_of (by decide +kernel)

theorem witness_gpin (v : Bool) : ∃ s1, Alone (WHdr v) (.gpin o2) 1 ∧ ((WHdr v).gr 1 o2.a).toNat % 64 = 0 ∧
    headerRead (startIssue (.gpin o2) (WHdr v)) 1 ((WHdr v).gr 1 o2.a).toNat = (s1, .ok (1 + (if v then 2 ^ 328 else 0))) := by
  cases v <;> exact ⟨_, alone_of rfl rfl rfl (by decide) rfl rfl rfl, by decide, (Prod.eta _).symm.trans (congrArg _ (gpin_header _))⟩

theorem witness_gpin_live : let s1 := (headerRead (startIssue (.gpin o2) (WHdr true)) 1 0x6000).1
    liveGen s1 1 0x6000 (headerGen (1 + 2 ^ 328)) = some (50, genW) ∧ s1.ctxs.get? 1 ≠ none := ⟨by decide +kernel, by decide +kernel⟩

theorem gunpin_header : (headerRead (startIssue (.gunpin oAB) (pinned (WHdr true))) 1 ((pinned (WHdr true)).gr 1 oAB.a).toNat).2 = .ok (1 + 2 ^ 328) :=
  ok_of (by decide +kernel)

theorem witness_gunpin : ∃ s1, Alone (pinned (WHdr true)) (.gunpin oAB) 1 ∧ ((pinned (WHdr true)).gr 1 oAB.b).toNat = 1 ∧
    headerRead (startIssue (.gunpin oAB) (pinned (WHdr true))) 1 ((pinned (WHdr true)).gr 1 oAB.a).toNat = (s1, .ok (1 + 2 ^ 328)) ∧
    structAt s1 1 0x6000 = some 50 ∧ (50, 1) ∈ (s1.ctx 1).pins ∧ s1.ctxs.get? 1 ≠ none :=
  ⟨_, alone_of rfl rfl rfl (by decide) rfl rfl rfl, by decide, (Prod.eta _).symm.trans (congrArg _ gunpin_header), by decide +kernel, by decide +kernel,
    by decide +kernel⟩

theorem witness_gqry (v : Bool) : Alone (WHdr v) (.gqry o2) 1 := by cases v <;> exact alone_of rfl rfl rfl (by decide) rfl rfl rfl

/-- A command block at 0x7000 for the structure at 0x6000: its kind n; the structure's version has no primitive. -/
def blockOf (n : Nat) : List Byte := bytesOfNat n 8 ++ bytesOfNat 0x6000 8 ++ List.replicate 48 0
def emptyW (staged : Option Staged) : Struct := ⟨1, 0x6000, [⟨1, 0, [], 0, [], List.replicate 60 0, []⟩], some 1, [], 0, staged, []⟩
def loomOp (cmd : List Byte) (started : Bool) : Op := ⟨.loom cmd 0x7000 started, 1, 0, [(1, 0)], some 1, [1], none, 0, 0, [], [], 0⟩
def WLoom (n : Nat) (started : Bool) (staged : Option Staged) : State :=
  { withBytes W 0x7000 (blockOf n) with structs := [(50, emptyW staged)], ops := [(20, loomOp (if started then blockOf n else []) started)] }

theorem loom_read (n : Nat) (h : n < 4) : (loomPieces (WLoom n false none) 1 [(0x7000, 64)]).2 = .ok (blockOf n) := by
  have : ∀ n < 4, okVal (loomPieces (WLoom n false none) 1 [(0x7000, 64)]).2 = some (blockOf n) := by decide +kernel
  exact ok_of (this n h)

theorem witness_loom_read (n : Nat) (h : n < 4) : ∃ s1, (WLoom n false none).ops.get? 20 = some (loomOp [] false) ∧
    loomPieces (WLoom n false none) 1 [(0x7000, 64)] = (s1, .ok (blockOf n)) := ⟨_, rfl, (Prod.eta _).symm.trans (congrArg _ (loom_read n h))⟩

theorem loomReady (n : Nat) (st : Option Staged) (h : (blockOf n).length = 64 ∧ blockBad (natOfBytes (blockOf n)) = none)
    (ht : mayRun (WLoom n true st) 20 (loomOp (blockOf n) true) (blockOf n) = true) :
    LoomReady (WLoom n true st) 20 (loomOp (blockOf n) true) (blockOf n) 0x7000 := ⟨rfl, rfl, h, ht, rfl, all_one (a := ((1, 0) : Nat × Nat)) rfl rfl⟩

/-- The source of an empty version: no leaf, a header of zeroes. -/
def sourceW : Source := ⟨0, 0, [], List.replicate 60 0, []⟩

theorem witness_loom_stages : ∀ n < 3, LoomReady (WLoom n true none) 20 (loomOp (blockOf n) true) (blockOf n) 0x7000 ∧ byteField (blockOf n) 0 1 % 16 = n ∧
    structFor (WLoom n true none) 1 (byteField (blockOf n) 8 8) = (WLoom n true none, 50) ∧
    (loomRun n (WLoom n true none) 50 1 (natOfBytes (blockOf n))).fin.status = 0 ∧ bit (natOfBytes (blockOf n)) 5 = false ∧
    (WLoom n true none).structs.get? 50 = some (emptyW none) ∧ sourceOf (emptyW none) = some sourceW := by
  intro n h
  match n, h with
  | 0, _ => exact ⟨loomReady 0 none (by decide +kernel) (by decide +kernel), by decide +kernel, by rfl, by decide +kernel, by decide +kernel, rfl, rfl⟩
  | 1, _ => exact ⟨loomReady 1 none (by decide +kernel) (by decide +kernel), by decide +kernel, by rfl, by decide +kernel, by decide +kernel, rfl, rfl⟩
  | 2, _ => exact ⟨loomReady 2 none (by decide +kernel) (by decide +kernel), by decide +kernel, by rfl, by decide +kernel, by decide +kernel, rfl, rfl⟩

def stagedW : Staged := ⟨0, [], [], List.replicate 60 0, 0, [], []⟩

theorem publish_write : (loomWrite (WLoom 3 true (some stagedW)) 1 0x6000 (bytesOfNat 2 4 ++ stagedW.header)).2 = none := by decide +kernel

theorem witness_publish : ∃ s2, LoomReady (WLoom 3 true (some stagedW)) 20 (loomOp (blockOf 3) true) (blockOf 3) 0x7000 ∧
    byteField (blockOf 3) 0 1 % 16 = 3 ∧ structFor (WLoom 3 true (some stagedW)) 1 (byteField (blockOf 3) 8 8) = (WLoom 3 true (some stagedW), 50) ∧
    (WLoom 3 true (some stagedW)).structs.get? 50 = some (emptyW (some stagedW)) ∧ pinFull (emptyW (some stagedW)) = false ∧
    (∀ g ∈ (emptyW (some stagedW)).gens, g.pins = 0 → g.below = []) ∧
    loomWrite (WLoom 3 true (some stagedW)) 1 0x6000 (bytesOfNat 2 4 ++ stagedW.header) = (s2, none) :=
  ⟨_, loomReady 3 _ (by decide +kernel) (by decide +kernel), by decide +kernel, by rfl, rfl, by decide, by decide,
    (Prod.eta _).symm.trans (congrArg _ publish_write)⟩

/-! ### Accesses that are performed later, walks, page-ins, retries -/

/-- One access of thread 1 that is not performed. -/
def accessOf (k : AccKind) (sp : Space) (a : Nat) : Access := ⟨1, k, sp, a, 0x10000, none, 0, none, false, false, false⟩
def WAcc (k : AccKind) (sp : Space) (a : Nat) : State := { W with accs := [(60, accessOf k sp a)] }

theorem onlyAccess (k : AccKind) (sp : Space) (a : Nat) (hk : k ≠ .hold) : OnlyAccess (WAcc k sp a) 60 (accessOf k sp a) :=
  ⟨rfl, ⟨rfl, rfl, rfl, rfl, hk⟩, rfl, ⟨Option.some_ne_none placedThread, Option.some_ne_none placedGang⟩, ⟨rfl, rfl, rfl⟩⟩

theorem witness_access_load : ∃ s1, OnlyAccess (WAcc (.load 4 true 5) .lo 8) 60 (accessOf (.load 4 true 5) .lo 8) ∧
    resolve (WAcc (.load 4 true 5) .lo 8) 1 .lo 8 4 .load = (s1, .ok (2 ^ 63 + 8)) ∧ poisonFlt s1 (2 ^ 63 + 8) 4 = none := ⟨_, onlyAccess _ _ _ (by decide), rfl, rfl⟩

theorem witness_access_store : ∃ s1, OnlyAccess (WAcc (.store 4 7 0) .gl 8) 60 (accessOf (.store 4 7 0) .gl 8) ∧
    resolve (WAcc (.store 4 7 0) .gl 8) 1 .gl 8 4 .store = (s1, .ok 8) ∧ unreachable s1 8 = false ∧ isView 8 = false ∧ metadataFlt s1 8 = none :=
  ⟨_, onlyAccess _ _ _ (by decide), rfl, by decide +kernel, by decide, by decide +kernel⟩

theorem witness_walkCompletion : OnlyAccess (WAcc (.load 4 true 5) .gl 8) 60 (accessOf (.load 4 true 5) .gl 8) ∧
    WalksTo (WAcc (.load 4 true 5) .gl 8) (accessOf (.load 4 true 5) .gl 8) 1 0x2000 0x0B :=
  ⟨onlyAccess _ _ _ (by decide), ⟨⟨rfl, by decide, by decide⟩, rfl, by rfl, by decide, by decide⟩⟩

/-- A context whose page at address 0 is backed, with one free frame at 2^30. -/
def pagedCells : List Host.Cell :=
  writeCells (writeCells (writeCells (writeCells W.mem.cells 0x1000 (bytesOfNat 0x2001 8)) 0x2000 (bytesOfNat 0x3001 8)) 0x3000 (bytesOfNat 0x4001 8))
    0x4000 (bytesOfNat 0x77006 8)
def pagedCtx : Context := { Context.none with root := 0x1000, pagingCtl := 1, freeFrames := [0], frameBase := 2 ^ 30, frameCount := 1, transfer := [0] }
def WPaged : State := { W with mem := { W.mem with cells := pagedCells }, ctxs := W.ctxs.set 1 pagedCtx }

theorem witness_pageIn : WPaged.ctxs.get? 1 = some pagedCtx ∧ 0 ∈ pagedCtx.transfer ∧ walk WPaged.mem pagedCtx 0 pagedCtx.root [0, 1, 2, 3] = .backed 3 0x4000 ∧
    0 % pageSize 3 = 0 ∧ pagedCtx.pagingCtl.getLsbD 1 = false ∧ bits pagedCtx.pagingCtl.toNat 31 16 ≤ pagedCtx.freeFrames.length ∧
    findRun pagedCtx.freeFrames (framesFor 3) = some 0 ∧ Memory.wf WPaged.mem.cells = true ∧ bits (readNat WPaged.mem.cells 0x4000 8) 59 58 = 0 ∧ pagedCtx.frameBase + pageSize 3 ≤ 2 ^ 48 ∧
    pagedCtx.frameBase % pageSize 3 = 0 ∧ 0x4000 + 8 ≤ pagedCtx.frameBase :=
  ⟨rfl, by decide, by rfl, by decide, by decide, by decide, by decide, by decide, by decide, by decide, by decide, by decide⟩

def rejectedAcc : Access := { accessOf (.load 4 true 5) .gl 8 with rejected := true }
def rejectedCluster : Cluster := { Cluster.initial with rejected := [60] }
def WRejected : State := { W with clusters := [(0, rejectedCluster)], accs := [(60, rejectedAcc)] }

theorem witness_missEntryRetry : WRejected.clusters = [(0, rejectedCluster)] ∧ rejectedCluster.rejected = [60] ∧ WRejected.accs.get? 60 = some rejectedAcc ∧
    missEntries WRejected 0 < 512 := ⟨rfl, rfl, rfl, by decide⟩

/-! ### Engine operations -/

/-- A copy of 32 bytes in one row, from scratchpad of cluster 0 to its byte 0x100, and one to global memory at 0x9000. -/
def copyWord (dstSpace : Nat) : Nat := 0x10 + 1 * 2 ^ 37 + dstSpace * 2 ^ 40 + 32 * 2 ^ 160
def engineOp (job : Job) (q : Option Nat) : Op := ⟨job, 1, 0, if q.isSome then [] else [(1, 0)], some 1, [1], q, 0, 0, [], [], 0⟩
def WEngine (job : Job) (q : Option Nat) : State := { W with ops := [(20, engineOp job q)] }

theorem witness_copyCompletion : (WEngine (.copy (copyWord 1) 0 0x100) none).ops.get? 20 = some (engineOp (.copy (copyWord 1) 0 0x100) none) ∧
    (∀ d ∈ (engineOp (.copy (copyWord 1) 0 0x100) none).decs, ((WEngine (.copy (copyWord 1) 0 0x100) none).thread d.1).run = .ready) ∧
    (moveAll (WEngine (.copy (copyWord 1) 0 0x100) none) 1 (copyWord 1) 0 0x100).fail = none ∧ bit (copyWord 1) 43 = false :=
  ⟨rfl, all_one (a := ((1, 0) : Nat × Nat)) rfl rfl, by decide +kernel, by decide⟩

theorem witness_scratchCopy : bits (copyWord 1) 7 0 = 0x10 ∧ bits (copyWord 1) 39 37 = 1 ∧ bits (copyWord 1) 42 40 = 1 ∧ bits (copyWord 1) 159 144 = 0 ∧
    bits (copyWord 1) 191 160 = 32 ∧ scratchKey (W.cluster 0) 0 0 = some (2 ^ 63) ∧ scratchKey (W.cluster 0) 0 0x100 = some (2 ^ 63 + 0x100) ∧
    Apart (2 ^ 63) (2 ^ 63 + 0x100) 32 ∧ W.mem.poison = [] :=
  ⟨by decide, by decide, by decide, by decide, by decide, by decide, by decide, Or.inl (by decide), rfl⟩

/-- A copy that counts its bytes in the barrier object at 0x200. -/
def countedWord : Nat := copyWord 1 + 2 ^ 43 + 0x20 * 2 ^ 44
def WCounted : State :=
  { WEngine (.copy countedWord 0 0x100) none with mem := (withBytes W (2 ^ 63 + 0x204) (bytesOfNat (2 + 2 ^ 64 * 64) 12)).mem }

theorem witness_copyCounted : let r := moveAll WCounted 1 countedWord 0 0x100
    r.fail = none ∧ copyBobj r.s 0 countedWord 0x100 = some (2 ^ 63 + 0x200) ∧ windowsAt r.s (2 ^ 63 + 0x200) = [] ∧ landed r.lands ≤ 2 ^ 20 ∧
    0 < landed r.lands ∧ -(2 ^ 31 : Int) ≤ (readBobj r.s (2 ^ 63 + 0x200)).bytes - landed r.lands :=
  ⟨by decide +kernel, by decide +kernel, by decide +kernel, by decide +kernel, by decide +kernel, by decide +kernel⟩

/-- A FILL of eight bytes at 0x9000 with the pattern 0x55, as an operation of queue 2's packet. -/
def fillWord : Nat := 0x12 + 8 * 2 ^ 96 + 0x55 * 2 ^ 128 + 0x9000 * 2 ^ 192

theorem witness_transformCompletion : (engineOp (.transform fillWord 0) (some 2)).qid = some 2 ∧ (engineOp (.transform fillWord 0) (some 2)).cpl = 0 ∧
    (transformAll (WEngine (.transform fillWord 0) (some 2)) 1 fillWord).fail = none ∧ (transformAll (WEngine (.transform fillWord 0) (some 2)) 1 fillWord).bad = false :=
  ⟨rfl, rfl, by decide +kernel, by decide +kernel⟩

theorem fill_key : (engineKey W 1 false (bits fillWord 255 192) .store).2 = .ok 0x9000 := by rfl

theorem witness_fill : ∃ s1, bits fillWord 95 92 = 0 ∧ bits fillWord 127 96 = 8 ∧ bits fillWord 255 192 % 16 ≤ 8 ∧
    engineKey W 1 false (bits fillWord 255 192) .store = (s1, .ok 0x9000) ∧ unreachable s1 0x9000 = false ∧ isView 0x9000 = false :=
  ⟨_, by decide, by decide, by decide, (Prod.eta _).symm.trans (congrArg _ fill_key), by decide +kernel, by decide⟩

/-! ### Packets -/

/-- Queue 2 of context 1 with a descriptor at 0x4000 and a ring of 16 slots at 0x8000, whose head w has been seen. -/
def queueW (kind target : Nat) : Queue := ⟨1, 0x4000, 0x8000, 4, 0, 0, kind, target, [], 0, 0, 0, 0, some 0, none, 0, []⟩
def WPkt (kind target w : Nat) : State := { withBytes W 0x8000 (bytesOfNat w 64) with queues := [(2, queueW kind target)] }

/-- The same queue before its head has been examined. -/
def newHead : Queue := { queueW 0 0 with seenAt := none }
def WNew (w : Nat) : State := { WPkt 0 0 w with queues := [(2, newHead)] }

/-- A launch of two teams of eight threads at 0x10000; a packet of a TYPE that Table 6-2 does not have. -/
def launchWord : Nat := 1 + 0x4000 * 2 ^ 14 + 2 * 2 ^ 64 + 8 * 2 ^ 96
def badWord : Nat := 9

theorem head_of (w : Nat) (h : (readHead (WPkt 0 0 w) (queueW 0 0)).2 = .packet 0 w) :
    ∃ s1, readHead (WPkt 0 0 w) (queueW 0 0) = (s1, .packet 0 w) := ⟨_, (Prod.eta _).symm.trans (congrArg _ h)⟩

/-- A head at its first examination, and one that has been examined. -/
theorem witness_examined_good : let s := WNew launchWord
    let s1 := (readHead s newHead).1
    s.queues = [(2, newHead)] ∧ (readHead s newHead).2 = .packet 0 launchWord ∧ s1.queues = s.queues ∧ s1.sched.agenda = s.sched.agenda ∧
    (firstError s1 2 newHead launchWord).2 = none ∧ (dependence (firstError s1 2 newHead launchWord).1 1 launchWord).2 = some true ∧
    (dependence (firstError s1 2 newHead launchWord).1 1 launchWord).1.queues = s.queues :=
  ⟨rfl, by decide +kernel, by decide +kernel, by decide +kernel, by decide +kernel, by decide +kernel, by decide +kernel⟩

theorem witness_examined_again : let s := WPkt 0 0 launchWord
    let s1 := (readHead s (queueW 0 0)).1
    s.queues = [(2, queueW 0 0)] ∧ (readHead s (queueW 0 0)).2 = .packet 0 launchWord ∧ s1.queues = s.queues ∧ s1.sched.agenda = s.sched.agenda ∧
    (firstError s1 2 (queueW 0 0) launchWord).2 = none ∧
    (dependence (firstError s1 2 (queueW 0 0) launchWord).1 1 launchWord).2 = some true ∧
    (dependence (firstError s1 2 (queueW 0 0) launchWord).1 1 launchWord).1.queues = s.queues :=
  ⟨rfl, by decide +kernel, by decide +kernel, by decide +kernel, by decide +kernel, by decide +kernel, by decide +kernel⟩

theorem witness_examined_bad : let s := WNew badWord
    let s1 := (readHead s newHead).1
    newHead.seenAt = none ∧ (readHead s newHead).2 = .packet 0 badWord ∧ s1.queues = s.queues ∧ s1.sched.agenda = s.sched.agenda ∧
    (packetError s1 2 newHead badWord).2 = some 1 ∧ (packetError s1 2 newHead badWord).1.queues = s.queues ∧ bits badWord 511 448 = 0 :=
  ⟨rfl, by decide +kernel, by decide +kernel, by decide +kernel, by decide +kernel, by decide +kernel, by decide +kernel⟩

theorem witness_launchPacket : selectedType (WPkt 0 0 launchWord) 1 = some ⟨2, 0, launchWord⟩ ∧ (WPkt 0 0 launchWord).queues.get? 2 = some (queueW 0 0) ∧
    (queueW 0 0).cls < 3 ∧ (launchOf launchWord).kind.isSome = true ∧ 0 < bits launchWord 95 64 :=
  ⟨by decide +kernel, rfl, by decide, by decide, by decide⟩

/-- A pipeline of one stage with one FIFO, whose descriptor stands at 0xA000, on cluster 0. -/
def pipeWord : Nat := 4 + 0x2800 * 2 ^ 14 + 1 * 2 ^ 64
def stageBytes : List Byte := bytesOfNat (2 ^ 56 + 2 ^ 48 + 2 ^ 40 + 2 ^ 32 + 0x4000 * 2 ^ 78) 16
def WPipe : State := withBytes (WPkt 0 0 pipeWord) 0xA000 (bytesOfNat 0 8 ++ stageBytes ++ bytesOfNat 0 112 ++ bytesOfNat (2 ^ 32) 8)

theorem pipe_parts : (pipelineParts WPipe 1 pipeWord).2 = some ([stageDef (natOfBytes stageBytes)], [fifoDef (2 ^ 32)], none) := by decide +kernel

theorem witness_pipelineLaunch : ∃ s0, selectedType WPipe 4 = some ⟨2, 0, pipeWord⟩ ∧ WPipe.queues.get? 2 = some (queueW 0 0) ∧
    pipelineParts WPipe 1 pipeWord = (s0, some ([stageDef (natOfBytes stageBytes)], [fifoDef (2 ^ 32)], none)) ∧ s0.insts = [] :=
  ⟨_, by decide +kernel, rfl, (Prod.eta _).symm.trans (congrArg _ pipe_parts), by decide +kernel⟩

/-- A draw of a list of one triangle; the frame of its queue is open. -/
def drawWord : Nat := 2 + 3 * 2 ^ 96 + 1 * 2 ^ 160 + 0x5800 * 2 ^ 256
def openFrameW : Frame := { frameW with qid := 2, phase := 0, ended := false, tiles := [], items := [], draws := [] }
def WDraw : State := { WPkt 0 0 drawWord with frames := [(3, openFrameW)] }

theorem witness_drawPacket : selectedType WDraw 2 = some ⟨2, 0, drawWord⟩ ∧ openFrameOf WDraw 2 = some 3 ∧ WDraw.frames.get? 3 = some openFrameW :=
  ⟨by decide +kernel, by decide, rfl⟩

theorem witness_dependencyPacket : selectedType (WPkt 0 0 3) 3 = some ⟨2, 0, 3⟩ ∧ (WPkt 0 0 3).queues.get? 2 = some (queueW 0 0) := ⟨by decide +kernel, rfl⟩

/-- Packets of engine queues: a copy and a gather of core 0's engine, and the three transforms. -/
def engineWord (n : Nat) : Nat := if n < 2 then 0x10 + n + 8 * 2 ^ 160 else 0x12 + (n - 2) * 2 ^ 92
def engineTarget (n : Nat) : Nat := if n < 2 then 0 else 0xFFF

theorem witness_enginePacket : ∀ n < 5, (enginePacket (WPkt 1 (engineTarget n) (engineWord n)) n 2).2.1 =
    some (⟨2, 0, engineWord n⟩, queueW 1 (engineTarget n)) ∧ engineLoad (WPkt 1 (engineTarget n) (engineWord n)) (queueW 1 (engineTarget n)).target < 512 ∧
    kicksWaiting (WPkt 1 (engineTarget n) (engineWord n)) (queueW 1 (engineTarget n)).target = false := by
  decide +kernel

/-- An edit that gives entries 4 and 5 of port 0 of node 0 the value 0x1B at once. -/
def editWord : Nat := 0x13 + 0x1B * 2 ^ 163 + 2 * 2 ^ 171 + 4 * 2 ^ 178 + 2 ^ 184 + 2 ^ 192
def WEdit : State := WPkt 1 0xFFE editWord
def WEditDue : State := { WEdit with mgmt := { WEdit.mgmt with edits := [⟨editWord, 2, 0, 0, 1⟩] } }

theorem witness_slotTableEdit : nextEditQueue WEdit = some 2 ∧ engineHead WEdit 2 0x13 = some (⟨2, 0, editWord⟩, queueW 1 0xFFE) := by decide +kernel

theorem witness_slotTableEditApply : WEditDue.clk.fabric % 64 = 0 ∧ WEditDue.mgmt.edits = [⟨editWord, 2, 0, 0, 1⟩] ∧ (0 : Nat) ≤ WEditDue.clk.fabric ∧
    bits editWord 511 448 = 0 ∧ editRefused WEditDue editWord = false := ⟨by decide, rfl, by decide, by decide +kernel, by decide +kernel⟩

/-! ### The step and issue -/

/-- Thread 1 at the header of a clause in memory, and behind it in the clause. -/
def WStart : State := State.reset.loaded 0x0040425D
def WInside : State := { WStart with grp := { WStart.grp with started := true, cursor := placedPc + 4 } }
def WShort : State := { State.reset.loaded 0x1020 with grp := { WStart.grp with started := true, cursor := placedPc + 4 } }
def clauseW : Clause := ⟨placedPc, placedPc + 8, 0, 1, 0, []⟩
def inClause (s : State) : State := withThread s fun x => { x with clause := some clauseW }

theorem reads_one {s : State} {a v k : Nat} (h : okVal (resolveNow s 1 .gl a 2 .fetch).2 = some k) (hs : spoiledAt (resolveNow s 1 .gl a 2 .fetch).1 k 2 = none)
    (hv : readNat (resolveNow s 1 .gl a 2 .fetch).1.mem.cells k 2 = v) : Reads a v [1] s (resolveNow s 1 .gl a 2 .fetch).1 :=
  ⟨k, _, (Prod.eta _).symm.trans (congrArg _ (ok_of h)), hs, hv, rfl⟩

theorem led_of {s : State} {x : Thread} (hg : s.grp.threads = [1]) (hx : s.threads.get? 1 = some x) : Led s := ⟨1, [], x, hg, hx⟩

theorem witness_step_header : Led (begun WStart) ∧ groupClause (begun WStart) = none ∧
    ∃ s1 s2, Reads (begun WStart).grp.pc 5 (begun WStart).grp.threads (begun WStart) s1 ∧
      Reads ((begun WStart).grp.pc + 2) 0x80 s1.grp.threads s1 s2 ∧ headerBad (5 + 65536 * 0x80) = false :=
  ⟨led_of rfl rfl, by rfl, _, _, reads_one (k := placedPc) (by decide +kernel) (by decide +kernel) (by decide +kernel),
    reads_one (k := placedPc + 2) (by decide +kernel) (by decide +kernel) (by decide +kernel), by decide⟩

theorem witness_step_word : Led (begun (inClause WInside)) ∧ groupClause (begun (inClause WInside)) = some clauseW ∧
    (begun (inClause WInside)).grp.cursor + 4 ≤ clauseW.fin ∧ ∃ s1 s2, Reads (begun (inClause WInside)).grp.cursor 0x425D (begun (inClause WInside)).grp.threads (begun (inClause WInside)) s1 ∧
      lengthOf 0x425D = 4 ∧ Reads ((begun (inClause WInside)).grp.cursor + 2) 0x0040 s1.grp.threads s1 s2 ∧
      decode32 (0x425D + 65536 * 0x0040) = some (.sqrt ⟨.f32, .none, 1, 2⟩) :=
  ⟨led_of rfl rfl, by rfl, by decide, _, _, reads_one (k := placedPc + 4) (by decide +kernel) (by decide +kernel) (by decide +kernel), by decide,
    reads_one (k := placedPc + 6) (by decide +kernel) (by decide +kernel) (by decide +kernel), by decide +kernel⟩

theorem witness_step_short : Led (begun (inClause WShort)) ∧ groupClause (begun (inClause WShort)) = some clauseW ∧
    (begun (inClause WShort)).grp.cursor + 2 ≤ clauseW.fin ∧ ∃ s1, Reads (begun (inClause WShort)).grp.cursor 0x1020 (begun (inClause WShort)).grp.threads (begun (inClause WShort)) s1 ∧
      lengthOf 0x1020 = 2 ∧ decode16 0x1020 = some (.add16 ⟨2, 1⟩) :=
  ⟨led_of rfl rfl, by rfl, by decide, _, reads_one (k := placedPc + 4) (by decide +kernel) (by decide +kernel) (by decide +kernel), by decide, by decide +kernel⟩

theorem witness_prefixes : WInside.grp.guard = none ∧ WInside.grp.mode = none ∧ prefixFits (inClause WInside) = true := ⟨rfl, rfl, by decide⟩

/-- No group: a second group waits, the agenda names a step, or neither. -/
def WIdle : State := { W with grp := Group.empty, clusters := W.clusters.set 0 { W.cluster 0 with cur := 1 } }
theorem witness_noGroup : WIdle.grp.threads = [] ∧ WIdle.grp2 = none ∧ WIdle.sched.agenda = [] ∧ ({ WIdle with grp2 := some W.grp } : State).grp2 = some W.grp ∧
    ({ WIdle with sched := { WIdle.sched with agenda := [.repack] } } : State).sched.agenda = .repack :: [] := ⟨rfl, rfl, rfl, rfl, rfl⟩

theorem witness_issueSelection : WIdle.grp = Group.empty ∧ WIdle.grp2 = none ∧ (WIdle.core 0).slid = [] ∧ (∀ th ∈ runningOn WIdle 0, WIdle.laneOf th < 64) ∧
    slotOpen (WIdle.cluster 0) (WIdle.nowAt 0) = true ∧ readyOn WIdle 0 ≠ [] ∧ (WIdle.cluster 0).cur ≠ 2 ∧
    (∀ th ∈ readyOn WIdle 0, (peek WIdle th).clause.policy = 0 ∧ (∀ i, (peek WIdle th).instr = some i → i.uniform = false) ∧
      WIdle.nowAt 0 < (WIdle.thread th).since + 512 ∧ ∀ u ∈ readyOn WIdle 0, (teamClass WIdle (WIdle.teamOf u)).1 = (teamClass WIdle (WIdle.teamOf th)).1) := by
  have h : readyOn WIdle 0 = [1] := by decide +kernel
  rw [h]
  exact ⟨rfl, rfl, rfl, by decide +kernel, by decide, by decide, by decide, all_one rfl ⟨by decide +kernel, by
    intro i hi
    have hu : (peek WIdle 1).instr.all (fun i => !i.uniform) = true := by decide +kernel
    rw [hi] at hu
    simpa using hu, by decide, all_one rfl rfl⟩⟩

/-! ### The distributor, placement and forage -/

/-- Grid 7: two teams of eight threads in gangs of 8, with 4,096 bytes of local memory. -/
def launchW : Launch := { Grid.resetMgmt.launch with entry := 0x10000, n := 2, t := 8, loc := 1, privRing := 9 }
def gridW : Grid := { Grid.none with ctx := 1, qid := 2, launch := launchW, n := 2 }
def WGrid : State := { W with grp := Group.empty, grids := [(7, gridW)] }

/-- The same with no cluster ready. -/
def notReady (s : State) : State := { s with mgmt := { s.mgmt with ready := [0, 0, 0] } }

/-- The due teams of a state whose one grid has a next team and no saved one. -/
theorem witness_teamAssignment : dueList WGrid = [] ++ .next 7 :: [] ∧ WGrid.grids.get? 7 = some gridW ∧ nextIndex gridW = some 0 ∧
    gridW.launch.kind = some .one ∧ ringHeld WGrid 7 0 = false ∧
    FirstPassing WGrid (nextWants gridW .one) [WGrid.mgmt.pointer % 288] (candidates WGrid.mgmt.pointer .one) :=
  ⟨by decide, rfl, rfl, rfl, by decide, [], (candidates WGrid.mgmt.pointer .one).drop 1, by decide +kernel, by decide +kernel, by decide⟩

/-- With no cluster ready, no due team passes. -/
theorem unplaced (d : Due) (h : d ∈ dueList (notReady WGrid)) : Unplaced (notReady WGrid) d := by
  rw [show dueList (notReady WGrid) = [.next 7] by decide] at h
  rw [List.mem_singleton.1 h]
  intro i kind _ hk _
  rw [← Option.some.inj (show some Kind.one = some kind from hk)]
  exact (by decide +kernel : ∀ l ∈ candidates (notReady WGrid).mgmt.pointer .one, passesView (notReady WGrid) (nextWants gridW .one l) = false)

theorem witness_teamAssignment_none : ∀ d ∈ dueList (notReady WGrid), Unplaced (notReady WGrid) d := unplaced

/-- Team 1 of the first grid is saved and waits to be resumed. -/
def resumedGrid : Grid := { placedGrid with nextIdx := placedGrid.n, resumed := [1] }
def WResumes : State := { withTeam W (fun x => { x with res := .saved 0 }) with grp := Group.empty, grids := [(1, resumedGrid)] }

theorem witness_teamAssignment_saved : dueList WResumes = [] ++ .saved 1 1 :: [] ∧ WResumes.grids.get? 1 = some resumedGrid ∧
    FirstPassing WResumes (savedWants WResumes 1) [WResumes.mgmt.pointer % 288] (candidates WResumes.mgmt.pointer (WResumes.team 1).kind) :=
  ⟨by decide, rfl, [], (candidates WResumes.mgmt.pointer .one).drop 1, by decide +kernel, by decide +kernel, by decide⟩

/-- With no cluster ready, every local size exceeds the spaces that there are. -/
theorem witness_localSizeWaitExpiry : (7, gridW) ∈ (notReady WGrid).grids ∧ holdsEntry (7, gridW) = true ∧ gridW.pipeline = false ∧ nextIndex gridW = some 0 ∧
    largestScratch (notReady WGrid) 7 < 4096 * gridW.launch.loc := ⟨by decide, by decide, rfl, rfl, by decide⟩

/-- Team 0 of the grid in the buffer of core 0. -/
def recordW : Record := ⟨7, 0, [0], 0, 0, none⟩
theorem fits_of {s : State} {x : Wants} {base : Nat} (hc : x.cores ≠ [] ∧ ∀ c ∈ x.cores, coreReady s c = true)
    (hs : (seatsFor x (occOf s) (allWindows x.w)).isSome = true)
    (hl : localStart s (x.cores.headD 0 / 16) x.loc (localUsed s (x.cores.headD 0 / 16)) = some base) : ∃ seats, Fits s x seats base :=
  (Option.isSome_iff_exists.1 hs).elim fun seats h => ⟨seats, hc, h, hl⟩
def WRecord : State := { WGrid with cores := WGrid.cores.set 0 { Core.initial with records := [recordW] } }

theorem witness_placement : (WRecord.core 0).records = recordW :: [] ∧ isUrgentRecord WRecord recordW = false ∧ recordW.resume = none ∧
    (WRecord.grid 7).batch = none ∧ Fresh WRecord ∧ 0 < (WRecord.grid 7).width ∧ ringHeld (dropRecord WRecord 0 recordW) 7 0 = false ∧
    ∃ seats, Fits WRecord (wantsNew gridW.launch gridW.width [0]) seats 4096 :=
  ⟨rfl, by decide, rfl, rfl, ⟨by decide, by decide, by decide⟩, by decide, by decide, fits_of (by decide) (by decide +kernel) (by decide)⟩

theorem witness_placement_stays : ((notReady WRecord).core 0).records = recordW :: [] ∧ isUrgentRecord (notReady WRecord) recordW = false ∧ recordW.resume = none ∧
    ∃ c ∈ recordW.cores, coreReady (notReady WRecord) c = false := ⟨rfl, by decide, rfl, 0, by decide, by decide⟩

/-- Cluster 0 may send a request. -/
theorem witness_forageRequest : mayForage { W with teams := [], gangs := [], threads := [] } 0 = true := by decide

/-- Cluster 0 has asked cluster 5. -/
def WForage : State := { WGrid with clusters := WGrid.clusters.set 0 { WGrid.cluster 0 with forage := some 5 } }

theorem witness_forageReply_empty : (WForage.cluster 0).forage.isSome = true ∧
    ∀ cl < 18, ∀ v, (WForage.cluster cl).forage = some v → ∀ c ∈ coresOf v, stalledOf WForage c = none := by
  have h : ∀ cl < 18, (WForage.cluster cl).forage.all (fun v => (coresOf v).all fun c => (stalledOf WForage c).isNone) = true := by decide
  refine ⟨rfl, fun cl hcl v hv c hc => ?_⟩
  have := h cl hcl
  rw [hv] at this
  exact Option.isNone_iff_eq_none.1 (List.all_eq_true.1 this c hc)

/-- A record of core 80 has been at the head of its buffer for 5,000 cycles; no core is ready, or every core. -/
def stalledW : Record := ⟨7, 0, [80], 0, 0, none⟩
def WStalled (up : Bool) : State :=
  { (if up then WForage else notReady WForage) with
    cores := WForage.cores.set 80 { Core.initial with records := [stalledW] }, clk := { WForage.clk with front := List.replicate 18 5000 } }

theorem witness_forageReply : ∀ up, ((WStalled up).cluster 0).forage = some 5 ∧ (∀ c < 18, c ≠ 0 → ((WStalled up).cluster c).forage = none) ∧ 80 ∈ coresOf 5 ∧
    stalledOf (WStalled up) 80 = some stalledW ∧ (∀ k ∈ coresOf 5, k ≠ 80 → stalledOf (WStalled up) k = none) ∧ stalledW.resume = none := by decide

theorem witness_forageReply_returns : (∀ k ∈ coresOf 0, coreReady (WStalled false) k = false) ∧ ((WStalled false).grids.get? stalledW.grid).isSome = true := by decide

theorem witness_forageReply_ships : let s := WStalled true
    coresOf 0 = [] ++ 0 :: (coresOf 0).drop 1 ∧ (∀ j ∈ ([] : List Nat), coreReady s j = false) ∧
    Fresh s ∧ 0 < (s.grid 7).width ∧ ringHeld (popRecord s 80) 7 0 = false ∧
    ∃ seats, Fits s (wantsNew (s.grid 7).launch (s.grid 7).width [0]) seats 4096 :=
  ⟨by decide, by decide, ⟨by decide, by decide, by decide⟩, by decide, by decide, fits_of (by decide) (by decide +kernel) (by decide)⟩

/-- Cluster 0 waits after 17 empty answers. -/
theorem witness_forageRetry : (({ WForage with clusters := [(0, { WForage.cluster 0 with forageWait := some 0 })] } : State).cluster 0).forageWait = some 0 := rfl

/-! ### Drains, urgent pre-emption, saves, pipelines -/

/-- Core 0 alone is ready, and a team of a batch queue fills its local memory; the head of interactive queue 2 waits. -/
def interactiveW (from_ : Option Nat) : Queue := { queueW 0 0 with cls := 2, waitFrom := from_ }
def WStarved (from_ : Option Nat) : State :=
  { withTeam WGrid fun x => { x with localSize := 2 ^ 18 } with
    grids := [(1, placedGrid), (7, gridW)], queues := [(2, interactiveW from_)], clk := { WGrid.clk with fabric := 70000 }
    mgmt := { WGrid.mgmt with ready := [0, 2 ^ 32, 0], coreX := 0xFFFE :: List.replicate 17 0 } }

theorem witness_preemptionWait : ∀ f, f = none ∨ f = some 1 → (WStarved f).queues = [(2, interactiveW f)] ∧ 2 ≤ (interactiveW f).cls ∧
    waitingGrid (WStarved f) 2 = some 7 ∧ starved (WStarved f) 7 (interactiveW f).cls = true := by
  rintro f (rfl | rfl) <;> exact ⟨rfl, by decide, by decide +kernel, by decide +kernel⟩

theorem witness_preemptionDrain : ∃ C, (interactiveW (some 1)).waitFrom = some 1 ∧ 1 + 65536 ≤ (WStarved (some 1)).dist ∧
    drainVictim (WStarved (some 1)) 2 = some 1 ∧ (WStarved (some 1)).ctxs.get? 1 = some C ∧ C.drain = none :=
  ⟨_, rfl, by decide, by decide +kernel, rfl, rfl⟩

/-- Context 1 drains, with a resident team and without one. -/
def drainCtx : Context := { Context.none with drain := some ⟨100, [7], false⟩ }
def WDrains (now : Nat) : State := { W with ctxs := [(1, drainCtx)], clk := { W.clk with fabric := now } }

theorem witness_drainLimit : (WDrains 5).ctxs = [(1, drainCtx)] ∧ residentTeams (WDrains 5) 1 = 1 :: [] ∧ (WDrains 5).dist < 100 ∧ 100 ≤ (WDrains 200).dist ∧
    residentTeams (WDrains 200) 1 = 1 :: [] ∧ drainCtx.drain = some ⟨100, [7], false⟩ :=
  ⟨rfl, by decide, by decide, by decide, by decide, rfl⟩

/-- A drain without a resident team goes on while its head waits, and ends after that. -/
theorem witness_drainOver : residentTeams { WDrains 5 with teams := [] } 1 = [] ∧
    drainOver { WDrains 5 with grids := [(7, gridW)] } ⟨100, [7], false⟩ = some ⟨100, [7], false⟩ ∧ drainOver (WDrains 5) ⟨100, [7], false⟩ = none := by decide

/-- An urgent grid whose queue may use core 0. -/
def urgentGrid : Grid := { gridW with urgent := true, n := 1, launch := { launchW with n := 1 } }
def WUrgent : State := { WGrid with grids := [(7, urgentGrid)], queues := [(2, { queueW 0 0 with cls := 3, coreMask := [0] })] }

theorem witness_urgentAcceptance : WUrgent.grids = [(7, urgentGrid)] ∧ urgentGrid.urgent = true ∧ urgentGrid.nextIdx = 0 ∧
    nextIndex urgentGrid = some 0 ∧ leftOf urgentGrid = 1 ∧ freeMaskCores WUrgent urgentGrid.qid = 0 :: [] := ⟨rfl, rfl, rfl, rfl, by decide, by decide⟩

theorem witness_urgentTeamAssignment : ctxHeld WUrgent urgentGrid.ctx = false ∧ nextIndex urgentGrid = some 0 ∧ freeMaskCores WUrgent urgentGrid.qid = [0] :=
  ⟨by decide, rfl, by decide⟩

/-- A resident team of a lower class holds join register 2,047, which the urgent team takes. -/
def WClaims : State := { withGang WUrgent fun x => { x with jregs := [2047] } with grids := [(1, placedGrid), (7, urgentGrid)] }
theorem witness_urgentVictims : (∃ k, claimOf WClaims 7 0 = some k ∧ victimsOf WClaims 0 k = [1]) ∧ ∃ V, WClaims.teams.get? 1 = some V ∧ V.res = .resident :=
  ⟨Option.map_eq_some_iff.1 (show (claimOf WClaims 7 0).map (victimsOf WClaims 0) = some [1] by decide +kernel), _, rfl, rfl⟩

/-- A victim of core 0 whose chunk 511 is in the spill region. -/
def victimCore : Core := { Core.initial with victims := [1], spill := [511] }
def WVictim : State := { withTeam (WTiles []) fun x => { x with res := .inPlace } with cores := [(0, victimCore)] }

theorem witness_urgentRestore : WVictim.cores = [(0, victimCore)] ∧ mayRestore WVictim 0 = true ∧ victimCore.victims = [1] ∧ restoreFails WVictim 0 1 = none ∧
    (WVictim.teams.get? 1).isSome = true ∧ (WVictim.team 1).res = .inPlace ∧ AtPeace WVictim 1 ∧ victimCore.spill.Nodup ∧ (∀ j ∈ victimCore.spill, j < 512) ∧
    Memory.wf WVictim.mem.cells = true ∧ (∃ g, tileA.charge = some g ∧ (WVictim.gang g).team = 1) :=
  ⟨rfl, by decide, rfl, by rfl, rfl, rfl, ⟨⟨1, by decide, by decide⟩, all_one (a := 1) rfl ⟨_, rfl, rfl, rfl, rfl, rfl⟩,
    all_one (a := 1) rfl (all_one (a := 1) rfl ⟨rfl, rfl⟩), all_one (a := 1) rfl (staysOpen_of_idle (by decide))⟩, by decide, by decide, by decide, 1, rfl, rfl⟩

/-- A yielding team whose tile has a permit left, and one with no tile. -/
def yieldTeam : Team := { placedTeam with res := .yielding 0, localSize := 0 }
/-- A save area whose header stands in device memory and whose slots are a page of the host. -/
def splitCells : List Host.Cell :=
  writeCells (writeCells (writeCells (writeCells (writeCells W.mem.cells 0x1000 (bytesOfNat 0x2001 8)) 0x2000 (bytesOfNat 0x3001 8)) 0x3000 (bytesOfNat 0x4001 8))
    0x4008 (bytesOfNat 0x1000B 8 ++ bytesOfNat (2 ^ 56 + 0x2000B) 8)) 0x1F008 (bytesOfNat 0x10000 8 ++ bytesOfNat 2 8 ++ bytesOfNat 0 8 ++ bytesOfNat 1 8)
def WYields : State :=
  { W with mem := { W.mem with cells := splitCells }, teams := [(1, { yieldTeam with gangs := [] })], ctxs := W.ctxs.set 1 { Context.none with root := placedRoot, saveArea := 0x1F000 } }
def WHeldYield : State := { WPermit with teams := [(1, yieldTeam)] }

def WUnacked : State := { WYields with teams := [(1, yieldTeam)], mgmt := { WYields.mgmt with peerStores := [(90, ⟨1, 1, 1, 1, 8, 0⟩)] } }

theorem witness_yieldWaits : WHeldYield.teams = [(1, yieldTeam)] ∧ yieldTeam.res = .yielding 0 ∧ tilesSettled WHeldYield 1 = false := ⟨rfl, rfl, by decide⟩
theorem witness_yieldUnacked : WUnacked.teams = [(1, yieldTeam)] ∧ yieldTeam.res = .yielding 0 ∧ teamAcked WUnacked 1 = false := ⟨rfl, rfl, by decide⟩

def savedYield : State × Option (Nat × Nat × Nat) := saveHeader WYields 1
def drawnYield : State := { savedYield.1 with sched := { savedYield.1.sched with draws := savedYield.1.sched.draws + 1 + yieldTeam.t } }

theorem witness_yieldSaves : WYields.teams = [(1, { yieldTeam with gangs := [] })] ∧ tilesSettled WYields 1 = true ∧ teamAcked WYields 1 = true ∧ WYields.grids.get? yieldTeam.grid = some placedGrid ∧ savedYield.2 = some (0x10000, 2, 1) ∧
    (devWriteLong drawnYield 1 (slotOf drawnYield 1 0 0x10000) (recordBytes drawnYield 1 savedYield.1.sched.draws)).2 = true :=
  ⟨rfl, by decide, by decide, rfl, by decide +kernel, by decide +kernel⟩

/-! ### Pipelines -/

/-- A grid of a pipeline and its instance of two stages, whose one FIFO lies in bank 4 of cluster 0, a FIFO bank. -/
def pipeGrid : Grid := { placedGrid with pipeline := true }
def stageW : StageDef := ⟨0x10000, 3, 1, 0, 4, 1, 2, 1, 0, 0⟩
def fifoW (l : List (List Byte)) : Fifo := ⟨⟨4, 0, 1, 3, 0, 0⟩, l, [], [], false⟩
def pipeInst : Instance := ⟨1, 0, [stageW, stageW], [fifoW []], [], false, [false, false], 0, [0, 0], 0, none, false⟩
def fifoCluster : Cluster := { W.cluster 0 with bankMode := 2 ^ 9, banks := modNth (W.cluster 0).banks 4 fun _ => ⟨2, none⟩ }
def WPipes (i : Instance) : State :=
  { W with grids := [(1, pipeGrid)], insts := [(4, i)], clusters := [(0, fifoCluster)], clk := { W.clk with front := List.replicate 18 2000 } }

theorem onePipe (i : Instance) (hg : i.grid = 1) (hd : i.done = false) : OneInstance (WPipes i) 4 i :=
  ⟨rfl, rfl, by rw [hg]; exact ⟨rfl, fun e he _ => all_one (p := fun x : Nat × Grid => x.1 = 1) rfl rfl e he⟩, by rw [hg]; rfl, hd⟩

theorem witness_instanceStart : OneInstance (WPipes pipeInst) 4 pipeInst ∧ pipeInst.started = false ∧ pipeInst.groups = [] ∧
    pipeInst.closed = pipeInst.stages.map (fun _ => false) ∧ pipeInst.stages ≠ [] ∧ (∀ d ∈ pipeInst.stages, d.group ≤ d.initQ) ∧
    (∀ q ∈ pipeInst.fifos, producerClosed pipeInst q = false) ∧ banksOk (WPipes pipeInst) pipeInst = true ∧
    (takeInitial (WPipes pipeInst) 4 pipeInst.stages (List.range pipeInst.stages.length)).isSome = true :=
  ⟨onePipe _ rfl rfl, rfl, rfl, rfl, by decide, by decide, by decide, by decide, by decide +kernel⟩

/-- A started instance of one stage whose one group has no team. -/
def heldW : Held := ⟨0, 0, 1, none, false, none⟩
def oneStage : Instance := ⟨1, 0, [stageW], [], [heldW], true, [false], 0, [0], 0, none, false⟩

theorem witness_stageTeam : OneInstance (WPipes oneStage) 4 oneStage ∧ mayStart oneStage heldW = true ∧ stageW.gwidth < 4 ∧ Fresh (WPipes oneStage) ∧
    ((wantsStage stageW 0).asks.map (·.2.1)).sum ≤ (occOf (WPipes oneStage) 0).joins ∧
    ((wantsStage stageW 0).asks.map (·.2.2)).sum ≤ (occOf (WPipes oneStage) 0).chunks ∧
    (wantsStage stageW 0).asks.length ≤ (occOf (WPipes oneStage) 0).table ∧ ringHeld (WPipes oneStage) 1 (stageIndex (WPipes oneStage) 1) = false ∧
    (stageSeats (occOf (WPipes oneStage) 0) stageW 1 (wantsStage stageW 0).asks).isSome = true ∧
    localStart (WPipes oneStage) 0 (wantsStage stageW 0).loc (localUsed (WPipes oneStage) 0) = some 0 :=
  ⟨onePipe _ rfl rfl, by decide, by decide, ⟨by decide, by decide, by decide⟩, by decide, by decide, by decide, by decide, by decide +kernel, by decide⟩

/-- A started instance: stage 0, Blocked at a full FIFO through the interval, holds two groups; stage 1 holds one. -/
def busyInst (l : List (List Byte)) : Instance :=
  ⟨1, 0, [stageW, stageW], [fifoW l], [⟨0, 0, 0, some 1, true, none⟩, ⟨0, 0, 1, some 2, true, none⟩, ⟨1, 0, 2, some 3, true, none⟩], true, [false, false], 3,
   [600, 0], 0, none, false⟩

theorem witness_balancer_none : OneInstance (WPipes (busyInst [])) 4 (busyInst []) ∧ (busyInst []).started = true ∧
    (busyInst []).lastBalance + 1024 ≤ (WPipes (busyInst [])).nowAt (16 * (busyInst []).cl) ∧ (∀ h ∈ (busyInst []).groups, h.draining = none) ∧
    (∀ q ∈ (busyInst []).fifos, q.poppers = [] ∧ q.pushers = []) ∧ recipient (busyInst []) = none :=
  ⟨onePipe _ rfl rfl, rfl, by decide, by decide, by decide, by decide⟩

theorem witness_balancer_some : let i := busyInst (List.replicate 8 (List.replicate 16 0))
    OneInstance (WPipes i) 4 i ∧ i.started = true ∧ i.lastBalance + 1024 ≤ (WPipes i).nowAt (16 * i.cl) ∧ (∀ h ∈ i.groups, h.draining = none) ∧
    (∀ q ∈ i.fifos, q.poppers = [] ∧ q.pushers = []) ∧ recipient i = some 1 ∧ donor i 1 = some 0 ∧ topGroup i 0 = some ⟨0, 0, 1, some 2, true, none⟩ :=
  ⟨onePipe _ rfl rfl, rfl, by decide, by decide, by decide, by decide, by decide, by decide⟩

/-! ### Rendering -/

/-- A frame block with a bin buffer of n bytes at 0x8000, a signature surface at 0xA000 and one target; the FIFOs of Table 7-1. -/
def blockW (n : Nat) : List Byte :=
  bytesOfNat 0x6000 8 ++ bytesOfNat 0x7000 8 ++ bytesOfNat 0x8000 8 ++ bytesOfNat n 8 ++ bytesOfNat 0xA000 8 ++ bytesOfNat 0x01000101 8 ++ bytesOfNat 0 16 ++
    bytesOfNat 0x4000 8 ++ bytesOfNat 0 184
def renderInst : Instance :=
  { pipeInst with fifos := [⟨⟨4, 8, 0, 8, 1, 0⟩, [], [], [], false⟩, ⟨⟨4, 0, 8, 8, 0, 1024⟩, [], [], [], false⟩, ⟨⟨4, 9, 1, 8, 2, 2048⟩, [], [], [], false⟩]
                  started := true, frame := some 3 }

/-- A frame in its geometry phase, whose draw of one triangle has not been cut. -/
def geoFrame (n : Nat) : Frame :=
  { frameW with block := blockW n, phase := 0, draws := [⟨drawWord, 2, 0, some (bytesOfNat 0 64), 0, 0, false⟩], batches := [], tiles := [], items := []
                nextOrder := 0, nextSlot := 0, binUsed := 0 }
def WRender (f : Frame) : State := { WRes [] with frames := [(3, f)], insts := [(4, renderInst)] }

theorem witness_geometryBatch : (WRender (geoFrame 256)).frames.get? 3 = some (geoFrame 256) ∧ (geoFrame 256).phase = 0 ∧
    QuietInstance (WRender (geoFrame 256)) (geoFrame 256) 4 renderInst ∧ (geoFrame 256).draws = [⟨drawWord, 2, 0, some (bytesOfNat 0 64), 0, 0, false⟩] ∧
    bits drawWord 15 12 = 0 ∧ bit drawWord 16 = false ∧ 0 < drawTotal drawWord ∧ vertexFifo renderInst = some 0 ∧
    renderInst.fifos[0]? = some ⟨⟨4, 8, 0, 8, 1, 0⟩, [], [], [], false⟩ ∧ 3 * min 256 (drawTotal drawWord - 0) ≤ 8 ∧ returnFifo renderInst ≠ some 0 ∧
    readyGeoms (WRender (geoFrame 256)).mgmt ≠ [] :=
  ⟨rfl, rfl, ⟨⟨rfl, rfl⟩, by decide, fun k hk q hq => by
    have h1 : k = 1 := (Option.some.inj hk).symm
    subst h1
    exact (Option.some.inj hq) ▸ rfl⟩, rfl, by decide, by decide, by decide, by decide, rfl, by decide, by decide, by decide⟩

/-- Its batch of one primitive in tile 0 is assembled. -/
def batchW : BatchRec := { eng := 0, draw := 0, prims := [(0, [0, 1, 2])], verts := [], sent := 3, back := [0, 1, 2], done := true, out := [⟨0, 0, [0, 1, 2], 0x7000, [0]⟩], binned := [] }
def binFrame (n : Nat) : Frame := { geoFrame n with batches := [batchW] }

theorem bin_room : (binEntries (WRender (binFrame 256)) 3 [(0, 0)]).2 = none := by rfl

theorem witness_binWriter : (∃ s1, (WRender (binFrame 256)).frames.get? 3 = some (binFrame 256) ∧ (binFrame 256).phase = 0 ∧ nextBin (binFrame 256) 0 = some (0, batchW) ∧
      clusterUp (WRender (binFrame 256)) (instCluster (WRender (binFrame 256)) (binFrame 256) 0) = true ∧
      binEntries (WRender (binFrame 256)) 3 (batchW.out.flatMap fun p => (p.tiles.filter fun tl => tileOwner (binFrame 256) tl == 0).map fun tl => (tl, p.order)) = (s1, none)) ∧
    nextBin (binFrame 4) 0 = some (0, batchW) ∧
    (batchW.out.flatMap fun p => (p.tiles.filter fun tl => tileOwner (binFrame 4) tl == 0).map fun tl => (tl, p.order)) ≠ [] ∧
    (binFrame 4).binSize < (binFrame 4).binUsed + (binFrame 4).entry :=
  ⟨⟨_, rfl, rfl, by decide, by decide, (Prod.eta _).symm.trans (congrArg _ bin_room)⟩, by decide, by decide, by decide⟩

/-- Its batch is binned, and the context's memo mode is off. -/
def doneFrame : Frame := { geoFrame 256 with draws := [⟨drawWord, 2, 0, some (bytesOfNat 0 64), 0, 1, false⟩], batches := [{ batchW with binned := [0] }], ended := true }
def WShade : State := { WRender doneFrame with ctxs := [(1, { Context.none with root := placedRoot, memoMode := 3 })] }

theorem witness_rasterStart : WShade.frames.get? 3 = some doneFrame ∧ geometryDone doneFrame = true ∧ memoModeOf WShade doneFrame.ctx = 3 ∧
    (∀ x ∈ doneFrame.tiles, x.skipped = false ∧ x.audit = false) ∧ geometryDone (geoFrame 256) = false := ⟨rfl, by decide, by decide, by decide, by decide⟩

/-- Its raster phase: a tile that is skipped, and a tile whose one item is to be emitted. -/
def skipTile : TileRec := ⟨0, [0], 5, true, false, false, 0, none, false⟩
def workTile : TileRec := ⟨0, [0], 5, false, false, true, 0, none, false⟩
def rasterFrame (r : TileRec) : Frame := { doneFrame with phase := 1, tiles := [r] }

theorem skip_written : (devWrite (WRender (rasterFrame skipTile)) 1 (planeAddr (rasterFrame skipTile) true 0) (bytesOfNat 5 16)).2 = true := by decide +kernel

theorem witness_coarseRaster : (∀ r, r = skipTile ∨ r = workTile → (WRender (rasterFrame r)).frames.get? 3 = some (rasterFrame r) ∧ (rasterFrame r).phase = 1 ∧
      (rasterFrame r).insts[0]? = some 4 ∧ (WRender (rasterFrame r)).insts.get? 4 = some renderInst ∧ clusterUp (WRender (rasterFrame r)) renderInst.cl = true ∧ fragmentFifo renderInst = some 2 ∧
      ((rasterFrame r).tiles.filter fun x => tileOwner (rasterFrame r) x.tile == 0 && !x.emittedAll) = r :: [] ∧
      (∀ x ∈ (rasterFrame r).tiles, x.tile = r.tile → x = r)) ∧
    (∃ s1, skipTile.visited = false ∧ skipTile.skipped = true ∧ skipTile.sig < 2 ^ 128 ∧
      devWrite (WRender (rasterFrame skipTile)) 1 (planeAddr (rasterFrame skipTile) true 0) (bytesOfNat skipTile.sig 16) = (s1, true)) ∧
    workTile.visited = true ∧ workTile.skipped = false ∧ workTile.prims.drop workTile.emitted = [0] ∧ (primAt (rasterFrame workTile) 0).isSome = true ∧
    ∃ q, renderInst.fifos[2]? = some q ∧ q.entries = [] ∧ 0 < q.def_.depth ∧ q.poppers = [] ∧ q.pushers = [] :=
  ⟨by rintro r (rfl | rfl) <;> exact ⟨rfl, rfl, rfl, rfl, by decide, by decide, by decide, by decide⟩,
    ⟨_, rfl, rfl, by decide, (Prod.eta _).symm.trans (congrArg _ skip_written)⟩, rfl, rfl, by decide, by decide, _, rfl, rfl, by decide, rfl, rfl⟩

/-- A frame whose one item has exported a texel of target 0, with STATE x in its draw-state block. -/
def exportW : Export := ⟨31, 30, 1, 0, 0, 0, 0x3F80000000000000, 0⟩
def mergeFrame (x : Nat) : Frame :=
  { rasterFrame { workTile with emitted := 1 } with
    items := [{ itemW with retired := true }], exports := [exportW]
    draws := [⟨drawWord, 2, 0, some (bytesOfNat 0 24 ++ bytesOfNat x 40), 0, 1, false⟩] }
def oldRead (x : Nat) : State × Option (List Byte) := devRead (WRender (mergeFrame x)) 1 ((mergeFrame x).rtDesc 0) 32

theorem old_desc (x : Nat) (h : (oldRead x).2 = some (bytesOfNat resWord 32)) (r : Nat) (hr : natOfBytes (bytesOfNat resWord 32) = r)
    (o : Nat) (ho : (mergeRead (oldRead x).1 1 (texelAddr r 0 0 0) (bits r 103 96)).2 = some o) (hm : mayMerge (mergeFrame x) exportW = true) :
    ∃ s2, MergeReady (WRender (mergeFrame x)) 3 (mergeFrame x) exportW { itemW with retired := true } s2 r o :=
  ⟨_, ⟨rfl, rfl, all_one (p := fun r : TileRec => r.audit = false) rfl rfl⟩, ⟨rfl, hm, rfl⟩,
    ⟨_, _, (Prod.eta _).symm.trans (congrArg _ h), hr.symm, (Prod.eta _).symm.trans (congrArg _ ho)⟩⟩

theorem witness_outputMerge_colour : (∃ s2 o, MergeReady (WRender (mergeFrame 0xF0000)) 3 (mergeFrame 0xF0000) exportW { itemW with retired := true } s2 resWord o) ∧
    isDepth (itemState (mergeFrame 0xF0000) { itemW with retired := true }) 0 = false ∧
    (exportW.item, exportW.thread, exportW.x, exportW.y) ∉ (mergeFrame 0xF0000).dropped ∧ bit (itemState (mergeFrame 0xF0000) { itemW with retired := true }) 7 = false :=
  ⟨(old_desc 0xF0000 (by decide +kernel) resWord (by decide +kernel) 0 (by decide +kernel) (by decide)).elim fun s2 h => ⟨s2, 0, h⟩, by decide, by decide, by decide⟩

theorem witness_outputMerge_depth : (∃ s2 o, MergeReady (WRender (mergeFrame 0x8000000)) 3 (mergeFrame 0x8000000) exportW { itemW with retired := true } s2 resWord o) ∧
    isDepth (itemState (mergeFrame 0x8000000) { itemW with retired := true }) 0 = true ∧
    depthPass (bits (itemState (mergeFrame 0x8000000) { itemW with retired := true }) 23 21) (exportW.lo.toNat % 2 ^ 32) 0 = false :=
  ⟨(old_desc 0x8000000 (by decide +kernel) resWord (by decide +kernel) 0 (by decide +kernel) (by decide)).elim fun s2 h => ⟨s2, 0, h⟩, by decide, by decide⟩

/-- The same with its export applied; the completion record is written to the signature surface. -/
def completeFrame : Frame := { mergeFrame 0 with exports := [] }

theorem record_written : (frameRecord (WRender completeFrame) 3 completeFrame).2 = true := by decide +kernel

theorem witness_frameCompletion : (∃ s1, (WRender completeFrame).frames.get? 3 = some completeFrame ∧ (∀ x ∈ completeFrame.tiles, x.audit = false) ∧
    rasterDone completeFrame = true ∧ frameRecord (WRender completeFrame) 3 completeFrame = (s1, true)) ∧ rasterDone (mergeFrame 0) = false :=
  ⟨⟨_, rfl, all_one (p := fun r : TileRec => r.audit = false) rfl rfl, by decide, (Prod.eta _).symm.trans (congrArg _ record_written)⟩, by decide⟩

/-! ### The outside of the device -/

theorem plain_of {s : State} {pa n : Nat} (h0 : 0 < n ∧ pa + n ≤ 2 ^ 48 ∧ pa + n ≤ s.mgmt.usable) (hb : s.mem.blockCode = []) (hw : s.mgmt.sensor = List.replicate 16 0) : PlainRange s pa n :=
  ⟨h0, fun b _ => by rw [hb]; exact Nat.zero_ne_add_one 15, fun k => by unfold windowFor window; rw [hw]; rfl⟩

theorem witness_hostWrite : PlainRange W 0x5000 8 ∧ PlainRange W (2 ^ 38 - 2 ^ 29 - 1) 1 := ⟨plain_of (by decide) rfl rfl, plain_of (by decide) rfl rfl⟩

/-- Window 0 spans 64 kB from 0x20000 and counts in the object at the start of bank 0, which expects 256 bytes. -/
def WWindow : State :=
  { W with mem := { W.mem with cells := writeCells (writeCells W.mem.cells (2 ^ 63 + 4) [2]) (2 ^ 63 + 13) [1] }
           mgmt := { W.mgmt with sensor := (2 * 2 ^ 32 + 2 ^ 16 + 1) :: List.replicate 15 0 } }

theorem witness_sensorWrite : 0x2FFF8 + 8 ≤ 2 ^ 48 ∧ 0x2FFF8 + 8 ≤ WWindow.mgmt.usable ∧ (∀ b ∈ blocksOf 0x2FFF8 8, WWindow.mem.blockCode.getD b 0 ≠ 16) ∧
    (∀ i < 8, windowFor WWindow (0x2FFF8 + i) = some 0) ∧ windowKey WWindow 0 = some (2 ^ 63) ∧ (2 : Nat) ^ 63 ≤ 2 ^ 63 ∧ ((8 : Nat) : Int) < (readBobj WWindow (2 ^ 63)).bytes :=
  ⟨by decide, by decide, by decide, by decide, by decide, by decide, by decide⟩

/-- The same with the host link up; a command in progress. -/
def WLink : State := { W with mgmt := { W.mgmt with linkUp := true } }
def WLinkBusy : State := { WLink with mgmt := { WLink.mgmt with mbxStatus := 1 } }

theorem witness_hostLink : Linked WLink ∧ WLink.mgmt.mbxStatus.getLsbD 0 = false ∧ Linked WLinkBusy ∧ WLinkBusy.mgmt.mbxStatus.getLsbD 0 = true ∧
    WLink.mem.blockCode.getD (0x5000 / 256) 0 ≠ 16 ∧ poisonAt WLink.mem 0x5000 8 = none ∧ WLink.mgmt.linkUp = true := ⟨rfl, by decide, rfl, by decide, by decide, rfl, rfl⟩

/-- Requests of the host over its link and, the link down, of a peer behind port 1, for address 0x5000. -/
theorem witness_arrives : arrives WLink 0x5000 = true ∧ inboundAddr 0x5000 = 0x5000 ∧ W.mgmt.linkUp = false ∧ arrives W (2 * 2 ^ 60 + 0x5000) = true ∧
    inboundAddr (2 * 2 ^ 60 + 0x5000) = 0x5000 ∧ fromPort (2 * 2 ^ 60 + 0x5000) = some 1 ∧ PlainRange WLink 0x5000 8 ∧ 0x5000 < WLink.mgmt.usable :=
  ⟨by decide, by decide, rfl, by decide, by decide, by decide, plain_of (by decide) rfl rfl, by decide⟩

theorem witness_linkDown : ∀ e ∈ W.mem.registry, isHost (128 * e.1) = false := by decide
theorem witness_peerPortDown : ∀ e ∈ W.mgmt.peerStores, e.2.port ≠ 1 := by decide

/-- A store of thread 1 to a peer on port 1 has not been acknowledged. -/
def peerStore : PeerStore := ⟨1, 1, 1, 1, 0x10000, 0⟩
def WPeer (now : Nat) : State := { W with mgmt := { W.mgmt with peerStores := [(60, peerStore)] }, clk := { W.clk with fabric := now } }

theorem witness_peerAck : ∃ x, (WPeer 0).mgmt.peerStores.get? 60 = some peerStore ∧ gridTeams (WPeer 0) peerStore.grid ≠ [] ∧ (WPeer 0).threads.get? peerStore.thread = some x ∧ x.run ≠ .exited ∧ x.held = [] :=
  ⟨_, rfl, by decide, rfl, by decide, rfl⟩

/-- Every team of the store's grid has completed. -/
def WPeerLast : State := { WPeer 0 with teams := [], grids := [(1, { placedGrid with nextIdx := placedGrid.n })] }
theorem witness_peerAck_last : ∃ G, WPeerLast.mgmt.peerStores.get? 60 = some peerStore ∧ WPeerLast.grids.get? peerStore.grid = some G ∧ G.pipeline = false ∧
    G.failed = false ∧ G.n ≤ G.nextIdx ∧ G.returned = [] ∧ G.resumed = [] ∧ gridTeams WPeerLast peerStore.grid = [] ∧ gridRecords WPeerLast peerStore.grid = [] ∧
    ∀ e ∈ WPeerLast.mgmt.peerStores, e.2.grid = peerStore.grid → e.1 = 60 :=
  ⟨_, rfl, rfl, rfl, rfl, by decide, rfl, rfl, by decide, by decide, by decide⟩

theorem witness_peerAckTimeout : (∀ n, (WPeer n).mgmt.peerStores = [(60, peerStore)]) ∧ (WPeer 5).clk.fabric < peerStore.since + 2 ^ 24 ∧
    peerStore.since + 2 ^ 24 ≤ (WPeer (2 ^ 24)).clk.fabric ∧ peerStore.ctx ≠ 0 := ⟨fun _ => rfl, by decide, by decide, by decide⟩

/-- Each site of an error: the queue is queue 2, the memo entry lies in table 0. -/
def memoW : MemoEntry := ⟨0, 5, 0, 1, 0, 0, 0, 0, []⟩
theorem witness_eccError : (∃ k n u a, poisonOf (WPkt 0 0 1) (.line 0x5000) = some (k, n, u, a)) ∧ (∃ k n u a, poisonOf (WPkt 0 0 1) (.granule 17 0) = some (k, n, u, a)) ∧
    (∃ k n u a, poisonOf (WPkt 0 0 1) (.chunk 287 511) = some (k, n, u, a)) ∧ (∃ k n u a, poisonOf (WPkt 0 0 1) (.device 0x5000) = some (k, n, u, a)) ∧
    (WPkt 0 0 1).queues.get? 2 = some (queueW 0 0) ∧
    memoW ∈ (({ W with clusters := [(0, { W.cluster 0 with memo := [memoW] })] } : State).cluster 0).memo ∧
    siteCluster (.granule 17 0) = some 17 ∧ siteCluster (.chunk 287 511) = some 17 :=
  ⟨⟨_, _, _, _, rfl⟩, ⟨_, _, _, _, rfl⟩, ⟨_, _, _, _, rfl⟩, ⟨_, _, _, _, rfl⟩, rfl, List.mem_cons_self, rfl, rfl⟩

/-! ### Banks, slices and the mesh -/

theorem witness_bankTransition : (18 ≤ 18 ∨ 32 ≤ (0 : Nat)) ∧ (18 ≤ (0 : Nat) ∨ 32 ≤ 32) ∧ (W.cluster 0).banks.length = 32 ∧ (W.cluster 17).banks.length = 32 ∧
    ((W.cluster 0).bank 0).target = none ∧ ((W.cluster 0).bank 0).mode = wantedMode (W.cluster 0) 0 := ⟨.inl (by decide), .inr (by decide), rfl, rfl, rfl, by decide⟩

/-- Bank 4 is to become a FIFO bank, and goes on to one; a memo bank is to become a cache. -/
def WBank (mode want : Nat) (target : Option Nat) : State :=
  { W with clusters := [(0, { W.cluster 0 with bankMode := BitVec.ofNat 64 (1 + want * 2 ^ 8), banks := modNth (W.cluster 0).banks 4 fun _ => ⟨mode, target⟩ })] }

theorem witness_bankTransition_begins : ∀ m, m = 0 ∨ m = 3 → (((WBank m 2 none).cluster 0).bank 4).target = none ∧
    (((WBank m 2 none).cluster 0).bank 4).mode ≠ wantedMode ((WBank m 2 none).cluster 0) 4 ∧ bankHeld (WBank m 2 none) 0 4 2 = false ∧
    ((WBank m 2 none).cluster 0).banks.length = 32 := by rintro m (rfl | rfl) <;> decide

theorem witness_bankTransition_ends : (((WBank 0 2 (some 2)).cluster 0).bank 4).target = some 2 ∧ ((WBank 0 2 (some 2)).cluster 0).banks.length = 32 := by decide

/-- A scratchpad bank that a placed team's local memory lies in is held. -/
theorem witness_bankTransition_held : bankHeld { W with clusters := [(0, { W.cluster 0 with bankMode := 0 })] } 0 0 0 = true := by decide

theorem witness_sliceRequest : (31 : Nat) < 32 ∧ (W.mgmt.slices.getD 31 Slice.empty).held.length < 256 ∧ sliceTakes (W.mgmt.slices.getD 31 Slice.empty) 3 7 = true ∧
    sliceTakes ⟨[], some (5, 2), [(2, 5, 40)]⟩ 3 7 = false := by decide

theorem witness_sliceRetry : ({ W with mgmt := { W.mgmt with slices := [(0, ⟨[], some (5, 2), [(2, 5, 40)]⟩)] } } : State).mgmt.slices = [(0, ⟨[], some (5, 2), [(2, 5, 40)]⟩)] ∧
    ([] : List (Nat × Nat)).length < 256 := ⟨rfl, by decide⟩

/-- One packet of some flits on its way from node 0 to node d, at node n. -/
def flitW (n d flits left : Nat) : Flit := ⟨n, 0, 0, [d], 0, 0, flits, left, none, false, 0, false⟩
def WMesh (f : Flit) : State := { W with mgmt := { W.mgmt with pkts := [(5, f)] }, clk := { W.clk with fabric := 9 } }

theorem onePacket (n d flits left : Nat) (h : 0 < left) : OnePacket (WMesh (flitW n d flits left)) 5 (flitW n d flits left) d :=
  ⟨rfl, rfl, ⟨rfl, (by decide : (0 : Nat) < 9), h⟩, .inr (by decide : isStale 9 0 = false)⟩

/-- A long packet; along x, turning at the half-router site 1 of row 0, and at its node. -/
theorem witness_fabricHop : (OnePacket (WMesh (flitW 0 9 9 9)) 5 (flitW 0 9 9 9) 9 ∧ 4 < (flitW 0 9 9 9).left ∧ (flitW 0 9 9 9).port W.mgmt.passThrough ≠ 4) ∧
    (OnePacket (WMesh (flitW 0 9 1 1)) 5 (flitW 0 9 1 1) 9 ∧ (flitW 0 9 1 1).left ≤ 4 ∧ (flitW 0 9 1 1).port W.mgmt.passThrough ≠ 4) ∧
    (OnePacket (WMesh (flitW 1 9 1 1)) 5 (flitW 1 9 1 1) 9 ∧ (flitW 1 9 1 1).port W.mgmt.passThrough = 4 ∧ (flitW 1 9 1 1).node ≠ 9 ∧ (flitW 1 9 1 1).flits ≤ 16) ∧
    OnePacket (WMesh (flitW 9 9 1 1)) 5 (flitW 9 9 1 1) 9 ∧ (flitW 9 9 1 1).node = 9 :=
  ⟨⟨onePacket _ _ _ _ (by decide), by decide, by decide⟩, ⟨onePacket _ _ _ _ (by decide), by decide, by decide⟩,
    ⟨onePacket _ _ _ _ (by decide), by decide, by decide, by decide⟩, onePacket _ _ _ _ (by decide), rfl⟩

/-- Ports for destinations to the east and the west, and in the column: from a full site, after the turn, and at the node itself; the router
of node 1 is not set to pass-through, that of node 2 is. -/
theorem witness_ports : (flitW 0 9 1 1).dst = [9] ∧ turnPoint 0 9 ∉ [2] ∧ (flitW 0 9 1 1).node % 8 < 9 % 8 ∧ (8 : Nat) % 8 < (flitW 1 8 1 1).node % 8 ∧
    (flitW 1 9 1 1).node % 8 = 9 % 8 ∧ (flitW 1 9 1 1).turned = false ∧ (flitW 1 9 1 1).src % 8 ≠ 9 % 8 ∧ fullSite (flitW 1 9 1 1).node = false ∧
    ({ flitW 1 9 1 1 with turned := true } : Flit).node / 8 < 9 / 8 ∧ (flitW 9 1 1 1).node % 8 = 1 % 8 ∧ 1 / 8 < (flitW 9 1 1 1).node / 8 := by decide

def WTurn (d : List Nat) : State := WMesh { flitW 9 17 1 1 with dst := d, turn := some 9 }

theorem witness_turnBuffer : (∀ e ∈ (WTurn [17]).mgmt.pkts, ∃ d, e.2.dst = [d]) ∧ (WTurn [17]).mgmt.pkts.get? 5 = some { flitW 9 17 1 1 with turn := some 9 } :=
  ⟨all_one (a := ((5, { flitW 9 17 1 1 with turn := some 9 }) : Nat × Flit)) rfl ⟨17, rfl⟩, rfl⟩

/-- A packet at node 9 whose destinations lie north and south of it. -/
theorem witness_turnBranches : let f : Flit := { flitW 9 17 1 1 with dst := [17, 1], turn := some 9 }
    let g : Flit := { f with turn := none, turned := true }
    (WTurn [17, 1]).mgmt.pkts = [(5, f)] ∧ (9 : Nat) ≤ (WTurn [17, 1]).clk.fabric ∧ 5 ≠ (WTurn [17, 1]).sched.nextId ∧
    g.way (WTurn [17, 1]).mgmt.passThrough 17 ≠ g.way (WTurn [17, 1]).mgmt.passThrough 1 := by decide

/-! ### The log, thermal protection, the governor, registers and the start -/

/-- An append has arrived at the log; a vector-1 message was sent at time 50. -/
def WLog (now : Nat) : State := { W with mgmt := { W.mgmt with errPending := [(9, 0)], msiTimer := some 50 }, clk := { W.clk with ao := now } }

theorem witness_errlogAppend : (∀ n, (WLog n).mgmt.errPending = (9, 0) :: []) ∧ (WLog 60).mgmt.msiTimer = some 50 ∧ (WLog 60).clk.ao < 50 + 100 ∧
    50 + 100 ≤ (WLog 150).clk.ao := ⟨fun _ => rfl, rfl, by decide, by decide⟩

theorem witness_thermalSensorUpdate : W.mgmt.ready.any (· != 0) = true := by decide

/-- Sensor 4 alone reads 441, at or above EMERG; the clocks stopped at time 7. -/
def WHot : State := { W with mgmt := { W.mgmt with temps := List.replicate 4 300 ++ [441] ++ List.replicate 14 300 } }
def WStopped (now : Nat) : State := { W with mgmt := { W.mgmt with temps := List.replicate 19 352 }, clk := { W.clk with stopped := some 7, ao := now } }

theorem witness_thermalEmergency : WHot.clk.stopped = none ∧ 4 < 19 ∧ bits WHot.mgmt.thermCtl.toNat 41 32 ≤ nth WHot.mgmt.temps 4 0 ∧
    ∀ k < 4, nth WHot.mgmt.temps k 0 < bits WHot.mgmt.thermCtl.toNat 41 32 := by decide

theorem witness_thermalRelease : ∀ now, (WStopped now).clk.stopped = some 7 ∧ ∀ n < 19, nth (WStopped now).mgmt.temps n 0 ≤ bits (WStopped now).mgmt.thermCtl.toNat 25 16 :=
  fun _ => ⟨rfl, (by decide : ∀ n < 19, nth (List.replicate 19 352) n 0 ≤ bits W.mgmt.thermCtl.toNat 25 16)⟩

theorem witness_thermalShutdown : (WStopped 8).clk.ao < 7 + 10 ^ 9 ∧ 7 + 10 ^ 9 ≤ (WStopped 2000000000).clk.ao := by decide

/-- A device without cluster 17. -/
def WExcluded : State := { W with mgmt := { W.mgmt with ready := [2 ^ 64 - 1, 2 ^ 49 - 1, 2 ^ 23 - 1], clusterX := 2 ^ 17 } }

theorem witness_governorInterval : W.clk.stopped = none ∧ W.clk.shut = false ∧ (∀ cl < 18, RateOk (W.cluster cl)) ∧ clusterOut W 0 = false ∧
    clusterOut WExcluded 17 = true ∧ (WStopped 8).clk.stopped ≠ none :=
  ⟨rfl, rfl, fun cl _ => by unfold RateOk; revert cl; decide, by decide, by decide, by decide⟩

theorem witness_governorModes : ({ W with mgmt := { W.mgmt with govCtl := 2 } } : State).mgmt.govCtl.toNat % 4 = 2 ∧
    ({ W with mgmt := { W.mgmt with govCtl := 1, govFrame := 1000 } } : State).mgmt.govCtl.toNat % 4 = 1 ∧
    ({ W with mgmt := { W.mgmt with govCtl := 1, govFrame := 1000 } } : State).mgmt.govFrame.toNat % 2 ^ 24 ≠ 0 := by decide

theorem witness_registerWrites : clusterOut W 17 = false ∧ clusterOut WExcluded 17 = true ∧ (W.cluster 17).memoTable.length = 16 := by decide

/-- CLUSTER.BANKMODE of cluster 17 may be written; an address above the map is that of no register. -/
theorem witness_registerWrite : mAddrOf 0x1011000 = some ⟨1, 17, 0⟩ ∧ (grants ⟨1, 17, 0⟩).map (·.2) = some .rw ∧
    (W.ctxs.get? 1).isSome = true ∧ (∃ k, (⟨1, 17, 0⟩, k) ∈ fieldTable 17 0 1) ∧ ((mAddrOf (2 ^ 40)).bind fun m => (grants m).map (·.2)) ≠ some .rw :=
  ⟨by decide, by decide, rfl, ⟨_, List.mem_cons_self⟩, by decide⟩

/-- A record that may not be used: its bytes 22 and 23 are not zero. -/
def WRecordBad : State := { W with mem := { W.mem with cells := writeCells W.mem.cells (startKey 22) [1] } }

theorem witness_start : WRecordBad.sched.choices = [] ∧ recordOk (startRecord WRecordBad) = false := by
  refine ⟨rfl, ?_⟩
  have h : byteField (startRecord WRecordBad) 22 2 = 1 := by decide +kernel
  simp [recordOk, h]

/-- A start is to hang in step CLUSTERS. -/
theorem witness_start_hangs : ({ WRecordBad with sched := { WRecordBad.sched with choices := [8] } } : State).sched.choices = 8 :: [] ∧
    recordOk (startRecord { WRecordBad with sched := { WRecordBad.sched with choices := [8] } }) = false := ⟨rfl, witness_start.2⟩

/-- A start that hangs in step 3, which began at time 5. -/
def WHang (now : Nat) : State := { W with mgmt := { W.mgmt with startStep := some (3, 5), trial := some allPass }, clk := { W.clk with ao := now } }

theorem witness_startStepTimeout : (∀ n, (WHang n).mgmt.startStep = some (3, 5) ∧ (WHang n).mgmt.trial = some allPass) ∧ (WHang 9).clk.ao < 5 + 2 * 10 ^ 8 ∧
    5 + 2 * 10 ^ 8 ≤ (WHang 300000000).clk.ao := ⟨fun _ => ⟨rfl, rfl⟩, by decide, by decide⟩

/-! ### Scaiq commands -/

/-- A command in progress, by its opcode, with its request bytes. -/
def WCmd (op : Nat) (bs : List Byte) : State :=
  { W with mgmt := { W.mgmt with mbxStatus := 1, cmdIn := bs, mbxCmd := BitVec.ofNat 64 (bs.length * 2 ^ 32 + op) } }
def started (s : State) : State := { s with mgmt := { s.mgmt with cmdStarted := true } }

theorem known (s : State) (h : s.req 0 8 = 1) (hc : (s.ctxs.get? 1).isSome = true) : ∃ C, Known s 1 C := by
  obtain ⟨C, hC⟩ := Option.isSome_iff_exists.1 hc
  exact ⟨C, by decide, h, hC⟩

theorem witness_commandsAreChecked : (.health, 0) ∈ commandTable ∧ W.mgmt.mbxStatus.getLsbD 0 = false ∧ (.ctxDestroy, 8) ∈ commandTable ∧
    (WCmd 2 []).mgmt.mbxStatus.getLsbD 0 = true ∧ (WCmd 2 []).mgmt.command = .ctxDestroy ∧ (WCmd 2 []).mgmt.startStatus = 0 ∧
    bits (WCmd 2 []).mgmt.mbxCmd.toNat 47 32 < 8 ∧
    Instr.ctxDestroy ∉ [Instr.health, .errlog, .startRecordRead, .startRecordReplace, .badopc] ∧
    ({ WCmd 2 [] with mgmt := { (WCmd 2 []).mgmt with startStatus := 1 } } : State).mgmt.startStatus ≠ 0 ∧
    InProgress (WCmd 16 []) .badopc 0 :=
  ⟨by decide, by decide, by decide, by decide, rfl, rfl, by decide, by decide, by decide, ⟨by decide, rfl⟩, rfl, by decide⟩

/-- Requests. -/
def createBytes : List Byte := bytesOfNat 0x1000 8 ++ bytesOfNat 0 32 ++ bytesOfNat 0x100000 8 ++ bytesOfNat 2 8
def WCreate : State := WCmd 1 createBytes

theorem witness_ctxCreate : InProgress WCreate .ctxCreate 56 ∧ ctxArgsOk WCreate = true ∧ WCreate.ctxs.get? 2 = none ∧
    ∀ k, 1 ≤ k → k < 2 → (WCreate.ctxs.get? k).isSome = true :=
  ⟨⟨⟨by decide, rfl⟩, rfl, by decide⟩, by decide, rfl, fun k h1 h2 => by
    have : k = 1 := by omega
    subst this; rfl⟩

/-- The destruction of context 1, which an edit of the context keeps waiting. -/
def WDestroy (busy : Bool) : State :=
  let s := WCmd 2 (bytesOfNat 1 8)
  if busy then { s with mgmt := { s.mgmt with edits := [⟨editWord, 2, 0, 0, 1⟩] } } else { s with grids := [], teams := [] }

theorem witness_ctxDestroy : (∀ b, InProgress (WDestroy b) .ctxDestroy 8 ∧ InProgress (started (WDestroy b)) .ctxDestroy 8 ∧ ∃ C, Known (WDestroy b) 1 C) ∧
    (WDestroy true).mgmt.cmdStarted = false ∧ ctxBusy (beginDestroy (WDestroy true) 1) 1 = true ∧
    ctxBusy (started (WDestroy true)) 1 = true ∧ ctxBusy (started (WDestroy false)) 1 = false :=
  ⟨fun b => by cases b <;> exact ⟨⟨⟨by decide, rfl⟩, rfl, by decide⟩, ⟨⟨by decide, rfl⟩, rfl, by decide⟩, known _ (by decide) rfl⟩,
    by decide, by decide, by decide, by decide⟩

def WPreempt (d : Option Drain) : State := { WCmd 11 (bytesOfNat 1 8) with ctxs := [(1, { Context.none with drain := d })] }
theorem witness_preempt : ∀ d, d = none ∨ d = some ⟨100, [], true⟩ →
    InProgress (WPreempt d) .preempt 8 ∧ InProgress (started (WPreempt d)) .preempt 8 ∧ (WPreempt d).mgmt.cmdStarted = false ∧
    (∃ C, Known (WPreempt d) 1 C ∧ C.drain = d) := by
  rintro d (rfl | rfl) <;> exact ⟨⟨⟨by decide, rfl⟩, rfl, by decide⟩, ⟨⟨by decide, rfl⟩, rfl, by decide⟩, rfl, _, ⟨by decide, by decide, rfl⟩, rfl⟩

/-- A descriptor of a batch queue with a ring of 16 slots at 0x4000. -/
def descWord : Nat := 4 * 2 ^ 77 + 0x200 * 2 ^ 82
def WQueueCreate : State :=
  { WCmd 3 (bytesOfNat 1 8 ++ bytesOfNat 0x4000 10) with mem := { W.mem with cells := writeCells W.mem.cells 0x4000 (bytesOfNat descWord 32) } }
theorem desc_read : (devRead WQueueCreate 1 0x4000 32).2 = some (bytesOfNat descWord 32) := by decide +kernel

theorem witness_queueCreate : ∃ s1, InProgress WQueueCreate .queueCreate 18 ∧ (∃ C, Known WQueueCreate 1 C) ∧ WQueueCreate.req 8 8 % 32 = 0 ∧
    devRead WQueueCreate 1 (WQueueCreate.req 8 8) 32 = (s1, some (bytesOfNat descWord 32)) ∧ descOk (natOfBytes (bytesOfNat descWord 32)) = true ∧
    bits descWord 65 64 = 0 ∧ bits descWord 71 70 < 3 ∧ (s1.queues.filter fun e => e.2.ctx == 1).length < 64 ∧ s1.queues.get? 0 = none ∧ (1 : Nat) < 2 ^ 16 :=
  ⟨_, ⟨⟨by decide, rfl⟩, rfl, by decide⟩, known _ (by decide) rfl, by decide, (Prod.eta _).symm.trans (congrArg _ desc_read), by decide +kernel, by decide, by decide,
    by decide +kernel, by decide +kernel, by decide⟩

/-- A queue of the engine of core 5, which is not ready, while the start goes on or after it. -/
def engineDesc : Nat := descWord + 2 ^ 64
def WQueueWaits (goes : Bool) : State :=
  let s := notReady (WCmd 3 (bytesOfNat 1 8 ++ bytesOfNat 0x4000 8 ++ bytesOfNat 5 2))
  { s with mem := { s.mem with cells := writeCells s.mem.cells 0x4000 (bytesOfNat engineDesc 32) }, mgmt := { s.mgmt with startStep := if goes then some (8, 0) else none } }
theorem engine_read (b : Bool) : (devRead (WQueueWaits b) 1 0x4000 32).2 = some (bytesOfNat engineDesc 32) := by cases b <;> decide +kernel

theorem witness_queueCreate_waits : ∀ b, ∃ s1, InProgress (WQueueWaits b) .queueCreate 18 ∧ (∃ C, Known (WQueueWaits b) 1 C) ∧ (WQueueWaits b).req 8 8 % 32 = 0 ∧
    devRead (WQueueWaits b) 1 ((WQueueWaits b).req 8 8) 32 = (s1, some (bytesOfNat engineDesc 32)) ∧ (WQueueWaits b).mgmt.cmdIn = s1.mgmt.cmdIn ∧
    descOk (natOfBytes (bytesOfNat engineDesc 32)) = true ∧ bits engineDesc 65 64 = 1 ∧ bits engineDesc 71 70 < 3 ∧ (WQueueWaits b).req 16 2 < 288 ∧
    coreReady s1 ((WQueueWaits b).req 16 2) = false ∧ s1.mgmt.startStep.isSome = b := by
  intro b
  have h := engine_read b
  cases b <;> exact ⟨_, ⟨⟨by decide, rfl⟩, rfl, by decide⟩, known _ (by decide) rfl, by decide, (Prod.eta _).symm.trans (congrArg _ h), by decide +kernel,
    by decide +kernel, by decide, by decide, by decide, by decide +kernel, by decide +kernel⟩

/-- Queue 2 is destroyed: with no grid, and with one of its own. -/
def WQueueDestroy (n : Nat) (l : Tab Grid) : State := { WCmd 4 (bytesOfNat n 8) with queues := [(2, queueW 0 0)], grids := l }
theorem witness_queueDestroy : (∀ n l, n = 1 ∧ l = [] ∨ n = 2 ∧ l = [] ∨ n = 2 ∧ l = [(7, gridW)] → InProgress (WQueueDestroy n l) .queueDestroy 8) ∧ (WQueueDestroy 1 []).queues.get? ((WQueueDestroy 1 []).req 0 8) = none ∧
    ((WQueueDestroy 2 []).queues.get? ((WQueueDestroy 2 []).req 0 8)).isSome = true ∧
    (WQueueDestroy 2 [(7, gridW)]).grids.any (fun e => holdsEntry e && e.2.qid == (WQueueDestroy 2 [(7, gridW)]).req 0 8) = true :=
  ⟨by rintro n l (⟨rfl, rfl⟩ | ⟨rfl, rfl⟩ | ⟨rfl, rfl⟩) <;> exact ⟨⟨by decide, rfl⟩, rfl, by decide⟩, by decide, by decide, by decide⟩

theorem witness_mapEntry : let s := WCmd 5 (bytesOfNat 1 8 ++ [0] ++ bytesOfNat 0x3008 8 ++ bytesOfNat 0 8)
    InProgress s .mapEntry 25 ∧ (∃ C, Known s 1 C) ∧ s.req 8 1 = 0 ∧ s.req 9 8 % 8 = 0 ∧ s.req 9 8 < 2 ^ 48 ∧ s.req 9 8 + 8 ≤ s.mgmt.usable ∧ s.ops = [] :=
  ⟨⟨⟨by decide, rfl⟩, rfl, by decide⟩, known _ (by decide) rfl, by decide, by decide, by decide, by decide, rfl⟩

/-- The entry of a table is replaced while a push of context 1 waits. -/
theorem witness_mapEntry_waits : let s : State := { WCmd 5 (bytesOfNat 1 8 ++ [0] ++ bytesOfNat 0x1000 8 ++ bytesOfNat 0 8) with
      ops := [(20, engineOp (.push 5 0 0 0) none)] }
    InProgress s .mapEntry 25 ∧ (∃ C, Known s 1 C) ∧ s.req 8 1 = 0 ∧ s.req 9 8 % 8 = 0 ∧ s.req 9 8 < 2 ^ 48 ∧
    readNat s.mem.cells (s.req 9 8) 8 % 4 = 1 ∧ ∃ o, s.ops.get? 20 = some o ∧ o.ctx = 1 ∧ o.job = .push 5 0 0 0 :=
  ⟨⟨⟨by decide, rfl⟩, rfl, by decide⟩, known _ (by decide) rfl, by decide, by decide, by decide, by decide +kernel, _, rfl, rfl, rfl⟩

theorem witness_mapInvalidate : let s := WCmd 5 (bytesOfNat 1 8 ++ [1] ++ bytesOfNat 0x10000 8 ++ bytesOfNat 0x10000 8)
    InProgress s .mapInvalidate 25 ∧ (∃ C, Known s 1 C) ∧ s.req 9 8 + s.req 17 8 ≤ 2 ^ 52 :=
  ⟨⟨⟨by decide, rfl⟩, rfl, by decide⟩, known _ (by decide) rfl, by decide⟩

theorem witness_mapBankmode : let s := WCmd 5 (bytesOfNat 1 8 ++ [2] ++ bytesOfNat 17 8 ++ bytesOfNat 1 8)
    InProgress s .mapBankmode 25 ∧ (∃ C, Known s 1 C) ∧ s.req 9 8 < 18 ∧ clusterReady s (s.req 9 8) = true :=
  ⟨⟨⟨by decide, rfl⟩, rfl, by decide⟩, known _ (by decide) rfl, by decide, by decide⟩

/-- Neither command knows context 9. -/
theorem witness_map_unknown : let s (k : Byte) := WCmd 5 (bytesOfNat 9 8 ++ [k] ++ bytesOfNat 17 8 ++ bytesOfNat 0 16)
    (∀ k, k = 2 ∨ k = 3 → (s k).req 0 8 ≠ 0 ∧ (s k).ctxs.get? ((s k).req 0 8) = none) ∧ InProgress (s 2) .mapBankmode 25 ∧ InProgress (s 3) .mapMemoTable 33 :=
  ⟨by rintro k (rfl | rfl) <;> exact ⟨by decide, rfl⟩, ⟨⟨by decide, rfl⟩, rfl, by decide⟩, ⟨by decide, rfl⟩, rfl, by decide⟩

theorem witness_mapMemoTable : ∀ v, v = 2 ^ 63 ∨ v = 1 → let s := WCmd 5 (bytesOfNat 1 8 ++ [3] ++ bytesOfNat 17 8 ++ bytesOfNat 15 8 ++ bytesOfNat v 8)
    InProgress s .mapMemoTable 33 ∧ (∃ C, Known s 1 C) ∧ s.req 9 8 < 18 ∧ s.req 17 8 < 16 ∧ clusterReady s (s.req 9 8) = true ∧ (s.cluster (s.req 9 8)).memoTable.length = 16 ∧
    (BitVec.ofNat 64 (s.req 25 8) &&& 0x7FFF000FFFFFFFFF = 0 ↔ v = 2 ^ 63) := by
  rintro v (rfl | rfl) <;> exact ⟨⟨⟨by decide, rfl⟩, rfl, by decide⟩, known _ (by decide) rfl, by decide, by decide, by decide, by decide, by decide⟩

/-- Book 7 of kind 0, with two codes of one bit. -/
def bookBytes : List Byte := bytesOfNat 7 8 ++ [0, 1, 1] ++ bytesOfNat 0 254
def WBook (used : Bool) : State :=
  let s := WCmd 6 bookBytes
  if used then { s with ctxs := [(1, { Context.none with booked := [(0, 7)] })] } else s

theorem book_req (b : Bool) (k n : Nat) : (WBook b).req k n = byteField bookBytes k n := by cases b <;> rfl
theorem book_lengths : ∀ x ∈ (List.range 256).map fun i => byteField bookBytes (9 + i) 1, x ≤ 15 := by decide +kernel
theorem book_kraft : kraft (((List.range 256).map fun i => byteField bookBytes (9 + i) 1).take (bookSymbols 0)) ≤ 2 ^ 15 := by decide +kernel

theorem witness_codebook : (∀ b, InProgress (WBook b) .codebook 265 ∧ (WBook b).req 0 8 < 8 ∧ (WBook b).req 8 1 < 3 ∧ (∀ i < 256, (WBook b).req (9 + i) 1 ≤ 15) ∧
      kraft (((List.range 256).map fun i => (WBook b).req (9 + i) 1).take (bookSymbols ((WBook b).req 8 1))) ≤ 2 ^ 15) ∧
    ((WBook true).ctxs.any fun e => e.2.booked.any fun b => b.2 == (WBook true).req 0 8) = true ∧
    ((WBook false).ctxs.any fun e => e.2.booked.any fun b => b.2 == (WBook false).req 0 8) = false ∧ (WBook false).mem.blockCode = [] := by
  refine ⟨fun b => ⟨?_, ?_, ?_, fun i h => ?_, ?_⟩, by decide, by decide, rfl⟩
  · cases b <;> exact ⟨⟨by decide +kernel, by decide +kernel⟩, rfl, by decide +kernel⟩
  · rw [book_req]; decide
  · rw [book_req]; decide
  · rw [book_req]; exact book_lengths _ (List.mem_map.2 ⟨i, List.mem_range.2 h, rfl⟩)
  · simp only [book_req]; exact book_kraft

theorem witness_paging : ∀ v, v = 0x0801 ∨ v = 0x10 → let s := WCmd 14 (bytesOfNat 1 8 ++ bytesOfNat v 8 ++ bytesOfNat 4 8)
    InProgress s .paging 24 ∧ ∃ C, Known s 1 C ∧ C.frameBase + (C.frameCount + s.req 16 8) * 2 ^ 16 ≤ s.mgmt.usable := by
  rintro v (rfl | rfl) <;> exact ⟨⟨⟨by decide, rfl⟩, rfl, by decide⟩, _, ⟨by decide, by decide, rfl⟩, by decide⟩

theorem witness_peer : let s := WCmd 13 (bytesOfNat 1 8 ++ bytesOfNat 15 8 ++ bytesOfNat 1 8 ++ bytesOfNat 0x123456 8)
    InProgress s .peer 32 ∧ (∃ C, Known s 1 C) ∧ s.req 8 8 < 16 ∧ s.req 16 8 < 2 := ⟨⟨⟨by decide, rfl⟩, rfl, by decide⟩, known _ (by decide) rfl, by decide, by decide⟩

/-- Window 15 is set over an object of cluster 17: with these low bits of its word and FRAME n, the window's word before, and the object's bytes. -/
def WSensor (low n w : Nat) (obj : List Byte) : State :=
  let s := WCmd 12 (bytesOfNat 15 8 ++ bytesOfNat (low + 2 ^ 16 + n * 2 ^ 64 + 17 * 2 ^ 107) 16)
  { s with mgmt := { s.mgmt with sensor := List.replicate 15 0 ++ [w] }, clusters := s.clusters.set 17 (s.cluster 0)
           mem := { s.mem with cells := writeCells s.mem.cells (sramKey 17 0 0) obj } }

/-- A reserved bit, no FRAME, another range of an enabled window, no enabling, and an enabling. -/
theorem witness_sensorWin : ∀ x ∈ [(2, 0, 0), (1, 0, 0), (0, 0, 2 ^ 17 + 1), (0, 0, 0), (1, 64, 0)], let s := WSensor x.1 x.2.1 x.2.2 []
    InProgress s .sensorWin 24 ∧ s.req 0 8 < 16 ∧ (windowOf (s.req 8 16)).cl < 18 ∧ clusterReady s (windowOf (s.req 8 16)).cl = true ∧ s.mgmt.sensor.length = 16 := by
  intro x hx
  simp only [List.mem_cons, List.not_mem_nil, or_false] at hx
  rcases hx with rfl | rfl | rfl | rfl | rfl <;> exact ⟨⟨⟨by decide, rfl⟩, rfl, by decide⟩, by decide, by decide, by decide, by decide⟩

theorem witness_sensorWin_expects : let s := WSensor 1 64 0 []
    let W := windowOf (s.req 8 16)
    scratchKey (s.cluster W.cl) W.cl W.obj = some (sramKey 17 0 0) ∧ (readBobj s (sramKey 17 0 0)).bytes + W.frame < 2 ^ 31 ∧ W.frame ≠ 0 ∧
    (readBobj s (sramKey 17 0 0)).bytes + W.frame ≠ 0 := by decide +kernel

/-- The object has had FRAME bytes before the window expects them. -/
theorem witness_sensorWin_advances : let s := WSensor 1 64 0 (bytesOfNat 0 12 ++ bytesOfNat (2 ^ 32 - 64) 4)
    let W := windowOf (s.req 8 16)
    InProgress s .sensorWin 24 ∧ s.mgmt.sensor = List.replicate 16 0 ∧ s.req 8 16 % 2 ^ 16 = 1 ∧ W.cl < 18 ∧ clusterReady s W.cl = true ∧ W.frame ≠ 0 ∧
    scratchKey (s.cluster W.cl) W.cl W.obj = some (sramKey 17 0 0) ∧ (readBobj s (sramKey 17 0 0)).arrive = 0 ∧
    (readBobj s (sramKey 17 0 0)).bytes + W.frame = 0 :=
  ⟨⟨⟨by decide, rfl⟩, rfl, by decide⟩, rfl, by decide, by decide, by decide, by decide, by decide, by decide +kernel, by decide +kernel⟩

theorem witness_memoMode : ∀ v, v = 2 ∨ v = 4 → let s := WCmd 7 (bytesOfNat 1 8 ++ bytesOfNat v 8)
    InProgress s .memoMode 16 ∧ (∃ C, Known s 1 C) ∧ ∀ cl < 18, clusterOut s cl = false := by
  rintro v (rfl | rfl) <;> exact ⟨⟨⟨by decide, rfl⟩, rfl, by decide⟩, known _ (by decide) rfl, by decide⟩

theorem witness_powerLimit : let s (n : Nat) := WCmd 8 (bytesOfNat n 8 ++ bytesOfNat 1 8 ++ bytesOfNat 1000 8 ++ bytesOfNat 5 8)
    (∀ n, n = 319 ∨ n = 480 → InProgress (s n) .powerLimit 32) ∧ (320 ≤ (s 480).req 0 8 ∧ (s 480).req 0 8 ≤ 600 ∧ (s 480).req 8 8 ≤ 3 ∧ (s 480).req 16 8 < 2 ^ 24 ∧ (s 480).req 24 8 < 2 ^ 16) ∧
    ¬320 ≤ (s 319).req 0 8 := ⟨by rintro n (rfl | rfl) <;> exact ⟨⟨by decide, rfl⟩, rfl, by decide⟩, by decide, by decide⟩

theorem witness_noArguments : InProgress (WCmd 9 []) .health 0 ∧ InProgress (WCmd 15 (bytesOfNat 0 8)) .errlog 8 :=
  ⟨⟨⟨by decide, rfl⟩, rfl, by decide⟩, ⟨by decide, rfl⟩, rfl, by decide⟩

theorem witness_startRecord : InProgress (WCmd 10 [0]) .startRecordRead 1 ∧ (WCmd 10 [0]).req 0 1 = 0 ∧
    InProgress (WCmd 10 (List.replicate 257 1)) .startRecordReplace 257 ∧
    (WCmd 10 (List.replicate 257 1)).mgmt.startStep = none ∧ (WCmd 10 (List.replicate 257 1)).mgmt.cmdIn.length = 257 :=
  ⟨⟨⟨by decide, rfl⟩, rfl, by decide⟩, by decide, ⟨⟨by decide +kernel, by decide +kernel⟩, rfl, by decide +kernel⟩, rfl, List.length_replicate⟩

/-! ### Decoding

One word for each row of the opcode table, written from the row's fields (Tables 11-2, 11-6, 11-7, 13-2, 14-6 and 15-1), with an operand in every field
that tells it from its neighbours. -/

/-- Integer operations (majors 0x01 to 0x1B). -/
def integerWords : List (Nat × Nat × Instr) :=
  [ (32, 0xDA65B503, .add ⟨.w64, .keep, 41, .last, 22, 53⟩), (32, 0xDA65B505, .sub ⟨.w64, .keep, 41, .last, 22, 53⟩),
    (32, 0xDA65B507, .mul ⟨.w64, .keep, 41, .last, 22, 53⟩), (32, 0xDA65B509, .mulhiS ⟨.w64, .keep, 41, .last, 22, 53⟩),
    (32, 0xDA65B50B, .mulhiN ⟨.w64, .keep, 41, .last, 22, 53⟩), (32, 0xDA65B50D, .addsatS ⟨.w64, .keep, 41, .last, 22, 53⟩),
    (32, 0xDA65B50F, .addsatN ⟨.w64, .keep, 41, .last, 22, 53⟩), (32, 0xDA65B511, .subsatS ⟨.w64, .keep, 41, .last, 22, 53⟩),
    (32, 0xDA65B513, .subsatN ⟨.w64, .keep, 41, .last, 22, 53⟩), (32, 0xDA65B515, .minS ⟨.w64, .keep, 41, .last, 22, 53⟩),
    (32, 0xDA65B517, .minN ⟨.w64, .keep, 41, .last, 22, 53⟩), (32, 0xDA65B519, .maxS ⟨.w64, .keep, 41, .last, 22, 53⟩),
    (32, 0xDA65B51B, .maxN ⟨.w64, .keep, 41, .last, 22, 53⟩), (32, 0xDA65B51D, .andOp ⟨.w64, .keep, 41, .last, 22, 53⟩),
    (32, 0xDA65B51F, .orOp ⟨.w64, .keep, 41, .last, 22, 53⟩), (32, 0xDA65B521, .xor ⟨.w64, .keep, 41, .last, 22, 53⟩),
    (32, 0xDA65B523, .andn ⟨.w64, .keep, 41, .last, 22, 53⟩), (32, 0xDA65B525, .shl ⟨.w64, .keep, 41, .last, 22, 53⟩),
    (32, 0xDA65B527, .shr ⟨.w64, .keep, 41, .last, 22, 53⟩), (32, 0xDA65B529, .sar ⟨.w64, .keep, 41, .last, 22, 53⟩),
    (32, 0xDA65B52B, .rotl ⟨.w64, .keep, 41, .last, 22, 53⟩), (32, 0xDA65B52D, .bfeS ⟨.w64, .keep, 41, .last, 22, 53⟩),
    (32, 0xDA65B52F, .bfeN ⟨.w64, .keep, 41, .last, 22, 53⟩), (32, 0xDA65B531, .bfi ⟨.w64, .keep, 41, .last, 22, 53⟩),
    (32, 0xDA65B533, .madd ⟨.w64, .keep, 41, .last, 22, 53⟩), (32, 0xDA25B435, .sel ⟨.keep, 40, .last, 22, 52⟩),
    (32, 0x0128FC37, .popc ⟨.w16, .last, 35, 60⟩), (32, 0x0168FC37, .clz ⟨.w16, .last, 35, 60⟩), (32, 0x01A8FC37, .ctz ⟨.w16, .last, 35, 60⟩),
    (32, 0x01E8FC37, .brev ⟨.w16, .last, 35, 60⟩) ]
theorem test_decode_integer : ∀ e ∈ integerWords, decodeTableWord e.1 e.2.1 = some e.2.2 := by decide +kernel

/-- Immediates, floats, compares and conversions (majors 0x1C to 0x2D). -/
def immediateWords : List (Nat × Nat × Instr) :=
  [ (32, 0xAAD8FC39, .addImm ⟨0x2AB, .keep, 35, 60⟩), (32, 0xAAD8FC3B, .andImm ⟨0x2AB, .keep, 35, 60⟩),
    (32, 0x3B68FC3D, .shlImm ⟨.w64, 45, .last, 35, 60⟩), (32, 0x7B68FC3D, .shrImm ⟨.w64, 45, .last, 35, 60⟩),
    (32, 0xBB68FC3D, .sarImm ⟨.w64, 45, .last, 35, 60⟩), (32, 0xFB68FC3D, .rotlImm ⟨.w64, 45, .last, 35, 60⟩), (32, 0xBEEFBC3F, .movz ⟨0xBEEF, 2, 60⟩),
    (32, 0xBEEFBC41, .movk ⟨0xBEEF, 2, 60⟩), (32, 0xF8548543, .addF ⟨.bf16, .lastEnd, 33, .keep, 18, 5⟩),
    (32, 0xF8548545, .subF ⟨.bf16, .lastEnd, 33, .keep, 18, 5⟩), (32, 0xF8548547, .mulF ⟨.bf16, .lastEnd, 33, .keep, 18, 5⟩),
    (32, 0xF8548549, .fma ⟨.bf16, .lastEnd, 33, .keep, 18, 5⟩), (32, 0xF854854B, .minF ⟨.bf16, .lastEnd, 33, .keep, 18, 5⟩),
    (32, 0xF854854D, .maxF ⟨.bf16, .lastEnd, 33, .keep, 18, 5⟩), (32, 0x0098FC4F, .classOp ⟨.f16, .keep, 35, 60⟩),
    (32, 0x0098FC51, .rnd ⟨.f16, .keep, 35, 60⟩), (32, 0x994CB353, .cmpS ⟨9, .gt, 41, .last, 22, .keep, true⟩),
    (32, 0x994CB355, .cmpN ⟨9, .gt, 41, .last, 22, .keep, true⟩), (32, 0x994CB357, .cmpF32F64 ⟨9, .gt, 41, .last, 22, .keep, true⟩),
    (32, 0x994CB359, .cmpF16Bf16 ⟨9, .gt, 41, .last, 22, .keep, true⟩), (32, 0x7058FC5B, .cvt ⟨.e3m2, .s16, .keep, 35, 60⟩) ]
theorem test_decode_immediate : ∀ e ∈ immediateWords, decodeTableWord e.1 e.2.1 = some e.2.2 := by decide +kernel

/-- Special functions, the log domain and control transfer (majors 0x2E to 0x34). -/
def specialWords : List (Nat × Nat × Instr) :=
  [ (32, 0x8018FC5D, .rcp ⟨.f16, .keep, 35, 60⟩), (32, 0x8058FC5D, .sqrt ⟨.f16, .keep, 35, 60⟩), (32, 0x8098FC5D, .rsqrt ⟨.f16, .keep, 35, 60⟩),
    (32, 0x80D8FC5D, .log2 ⟨.f16, .keep, 35, 60⟩), (32, 0x8118FC5D, .exp2 ⟨.f16, .keep, 35, 60⟩), (32, 0x8158FC5D, .tolog ⟨.f16, .keep, 35, 60⟩),
    (32, 0x8198FC5D, .fromlog ⟨.f16, .keep, 35, 60⟩), (32, 0x01F8FC5D, .lsqrt ⟨.lastEnd, 35, 60⟩), (32, 0x0238FC5D, .lrcp ⟨.lastEnd, 35, 60⟩),
    (32, 0x1A25B45F, .lmul ⟨.keep, 40, .last, 22, 52⟩), (32, 0x5A25B45F, .ldiv ⟨.keep, 40, .last, 22, 52⟩),
    (32, 0x9A25B45F, .lpow ⟨.keep, 40, .last, 22, 52⟩), (32, 0xCA359C61, .plop ⟨0xCA, 3, 5, 9, 12⟩),
    (32, 0xAAAAE663, .bra ⟨0x15555, true, 9, .unlikely⟩), (32, 0xAAAAF465, .call ⟨0x2AAAB, 52⟩), (32, 0x00D8C067, .jmp ⟨.uniform, .keep, 35⟩),
    (32, 0x0050A369, .jset ⟨5, .last, 35⟩), (32, 0x01500069, .jarrive 5), (32, 0x02590069, .jwait ⟨5, 9⟩) ]
theorem test_decode_special : ∀ e ∈ specialWords, decodeTableWord e.1 e.2.1 = some e.2.2 := by decide +kernel

/-- Cross-lane instructions (majors 0x35 to 0x3B). -/
def crossLaneWords : List (Nat × Nat × Instr) :=
  [ (32, 0xDA65B56B, .shfl ⟨.w64, .keep, 41, .last, 22, 53⟩), (32, 0x2A55B56D, .shfliIdx ⟨.w32, 41, .keep, 22, 53⟩),
    (32, 0x6A55B56D, .shfliUp ⟨.w32, 41, .keep, 22, 53⟩), (32, 0xAA55B56D, .shfliDown ⟨.w32, 41, .keep, 22, 53⟩),
    (32, 0xEA55B56D, .shfliXor ⟨.w32, 41, .keep, 22, 53⟩), (32, 0x0A55B56F, .bcast ⟨41, .keep, 22, 53⟩), (32, 0x00009C71, .voteAny ⟨9, 12⟩),
    (32, 0x01009C71, .voteAll ⟨9, 12⟩), (32, 0x02009C71, .voteUni ⟨9, 12⟩), (32, 0x02403573, .ballot ⟨9, 53⟩),
    (32, 0x0068FC75, .matchOp ⟨.w16, .last, 35, 60⟩), (32, 0x01D5B577, .reduceAdd ⟨.n64, .keep, 22, 53⟩),
    (32, 0x41D5B577, .reduceMin ⟨.n64, .keep, 22, 53⟩), (32, 0x81D5B577, .reduceMax ⟨.n64, .keep, 22, 53⟩) ]
theorem test_decode_crossLane : ∀ e ∈ crossLaneWords, decodeTableWord e.1 e.2.1 = some e.2.2 := by decide +kernel

/-- Uniform registers (majors 0x3C to 0x40). -/
def uniformWords : List (Nat × Nat × Instr) :=
  [ (32, 0x0006F579, .xmovG ⟨.none, 27, 53⟩), (32, 0x0058D279, .xmovW ⟨.keep, 35, 18⟩), (32, 0x05429B7B, .addU ⟨.none, 21, .none, 10, 27⟩),
    (32, 0x45429B7B, .subU ⟨.none, 21, .none, 10, 27⟩), (32, 0x85429B7B, .andU ⟨.none, 21, .none, 10, 27⟩),
    (32, 0xC5429B7B, .orU ⟨.none, 21, .none, 10, 27⟩), (32, 0x05429B7D, .xorU ⟨.none, 21, .none, 10, 27⟩),
    (32, 0x45429B7D, .shlU ⟨.none, 21, .none, 10, 27⟩), (32, 0x85429B7D, .shrU ⟨.none, 21, .none, 10, 27⟩),
    (32, 0xC5429B7D, .mulU ⟨.none, 21, .none, 10, 27⟩), (32, 0xAAC29B7F, .addUimm ⟨0x2AB, .none, 10, 27⟩), (32, 0xBEEF5B81, .movkU ⟨0xBEEF, 1, 27⟩) ]
theorem test_decode_uniform : ∀ e ∈ uniformWords, decodeTableWord e.1 e.2.1 = some e.2.2 := by decide +kernel

/-- Memory (majors 0x41 to 0x50). -/
def memoryWords : List (Nat × Nat × Instr) :=
  [ (32, 0xAF58FC83, .ldS8 ⟨0x2B, .fec, .lo, .keep, 35, 60⟩), (32, 0xAF58FC85, .ldN8 ⟨0x2B, .fec, .lo, .keep, 35, 60⟩),
    (32, 0xAF58FC87, .ldS16 ⟨0x2B, .fec, .lo, .keep, 35, 60⟩), (32, 0xAF58FC89, .ldN16 ⟨0x2B, .fec, .lo, .keep, 35, 60⟩),
    (32, 0xAF58FC8B, .ldS32 ⟨0x2B, .fec, .lo, .keep, 35, 60⟩), (32, 0xAF58FC8D, .ldN32 ⟨0x2B, .fec, .lo, .keep, 35, 60⟩),
    (32, 0xAF58FC8F, .ldB64 ⟨0x2B, .fec, .lo, .keep, 35, 60⟩), (32, 0xAD98F491, .ldq ⟨0x2B, .acq, .pv, .keep, 35, 26⟩),
    (32, 0xBA58FC93, .stB8 ⟨0xB, .fill, .last, .lo, .keep, 35, 60⟩), (32, 0xBA58FC95, .stB16 ⟨0xB, .fill, .last, .lo, .keep, 35, 60⟩),
    (32, 0xBA58FC97, .stB32 ⟨0xB, .fill, .last, .lo, .keep, 35, 60⟩), (32, 0xBA58FC99, .stB64 ⟨0xB, .fill, .last, .lo, .keep, 35, 60⟩),
    (32, 0xB698F49B, .stq ⟨0xB, .rel, .last, .pv, .keep, 35, 26⟩), (32, 0x9A65AC9D, .ldrl ⟨.pv, .keep, 41, .last, 22, 11⟩),
    (32, 0xB563B49F, .atom ⟨.rel, .lo, true, .maxN, .keep, 35, .last, 52⟩), (32, 0xB563B4A1, .ared ⟨.rel, .lo, true, .maxN, .keep, 35, .last, 52⟩) ]
theorem test_decode_memory : ∀ e ∈ memoryWords, decodeTableWord e.1 e.2.1 = some e.2.2 := by decide +kernel

/-- Barriers, waits, queues and the system (majors 0x51 to 0x5E). -/
def systemWords : List (Nat × Nat × Instr) :=
  [ (32, 0x000000A3, .nop), (32, 0x000001A3, .fenceAcq), (32, 0x000002A3, .fenceRel), (32, 0x000003A3, .fenceAr), (32, 0x000004A3, .bar),
    (32, 0x000005A3, .barG), (32, 0x000006A3, .yield), (32, 0x000007A3, .tret), (32, 0x000008A3, .discard), (32, 0x000009A3, .pend),
    (32, 0x00000AA3, .exit), (32, 0x00BEEFA5, .trap 0xBEEF), (32, 0x0038FCA7, .bobjArrive ⟨.lastEnd, 35, 60⟩),
    (32, 0x5A25B4A7, .bobjExpect ⟨.keep, 40, .last, 22, 52⟩), (32, 0x9A6580A7, .bobjInit ⟨.keep, 41, .last, 22⟩),
    (32, 0x1A25B4A9, .waitaPhase ⟨.keep, 40, .last, 22, 52⟩), (32, 0x5A25B4A9, .waitaGe ⟨.keep, 40, .last, 22, 52⟩),
    (32, 0x9A25B4A9, .waitaEq ⟨.keep, 40, .last, 22, 52⟩), (32, 0x0018C9AB, .waitm ⟨.keep, 35, 9⟩), (32, 0x229635AD, .pop ⟨17, 9, 6, .none, 53⟩),
    (32, 0x239635AD, .push ⟨17, 9, 6, .none, 53⟩), (32, 0x1A25B5AF, .qpost ⟨.keep, 5, .last, 22, 53⟩), (32, 0x801A00B1, .copy ⟨true, .keep, 5⟩),
    (32, 0x1A6589B3, .permit ⟨.keep, 41, .last, 22, 9⟩), (32, 0x0038FCB5, .grow ⟨.lastEnd, 35, 60⟩), (32, 0x028035B7, .smov ⟨10, 53⟩),
    (32, 0x0038FCB9, .mrd ⟨.lastEnd, 35, 60⟩), (32, 0x1A6580BB, .mwr ⟨.keep, 41, .last, 22⟩), (32, 0xAD98C0BD, .pref ⟨0x2B, .sc, .pv, .keep, 35⟩) ]
theorem test_decode_system : ∀ e ∈ systemWords, decodeTableWord e.1 e.2.1 = some e.2.2 := by decide +kernel

/-- Tiles and matrices (majors 0x5F to 0x6D). -/
def tileWords : List (Nat × Nat × Instr) :=
  [ (32, 0x026309BF, .talloc ⟨true, .keep, 35, 9⟩), (32, 0x000009C1, .tfree 9), (32, 0x006309C3, .thand ⟨.keep, 35, 9⟩),
    (32, 0x006309C5, .tacc ⟨.keep, 35, 9⟩), (32, 0x036309C7, .tld ⟨.lo, true, .keep, 35, 9⟩), (32, 0x036309C9, .tst ⟨.lo, true, .keep, 35, 9⟩),
    (32, 0x000009CB, .tzero 9), (32, 0x470059CD, .tcvt ⟨.ru, .e4m3, true, 5, 9⟩), (32, 0x002309CF, .tqry ⟨35, 9⟩),
    (32, 0x2D6359D1, .scaleacc ⟨true, .rz, true, false, true, .keep, 35, 5, 9⟩), (32, 0x010059D3, .tdrainH ⟨true, 5, 9⟩),
    (32, 0x036350D3, .tdrainPeer ⟨true, .keep, 35, 5⟩), (32, 0x050050D3, .tdrainByp ⟨true, 5⟩),
    (32, 0x956869D5, .mmaFa ⟨true, .bf16, 5, .keep, 40, 6, 9⟩), (32, 0x956869D7, .mmaFb ⟨true, .bf16, 5, .keep, 40, 6, 9⟩),
    (32, 0xA56C69D9, .mmaSp8Fa ⟨.e5m2, 5, .keep, 44, 6, 9⟩), (32, 0xA56C69DB, .mmaSp8Fb ⟨.e5m2, 5, .keep, 44, 6, 9⟩) ]
theorem test_decode_tile : ∀ e ∈ tileWords, decodeTableWord e.1 e.2.1 = some e.2.2 := by decide +kernel

/-- Graphics, rays, the Loom and the memo (majors 0x6E to 0x7D). -/
def graphicsWords : List (Nat × Nat × Instr) :=
  [ (32, 0x1A25B4DD, .edge ⟨.keep, 40, .last, 22, 52⟩), (32, 0x1A25B4DF, .interpPersp ⟨.keep, 40, .last, 22, 52⟩),
    (32, 0x5A25B4DF, .interpLin ⟨.keep, 40, .last, 22, 52⟩), (32, 0x9A25B4DF, .interpFlat ⟨.keep, 40, .last, 22, 52⟩),
    (32, 0x0298FCE1, .deriv ⟨.f16, true, false, .keep, 35, 60⟩), (32, 0x1A25B4E3, .texs ⟨.keep, 40, .last, 22, 52⟩),
    (32, 0x5A25B4E3, .texg ⟨.keep, 40, .last, 22, 52⟩), (32, 0x9A25B4E3, .imld ⟨.keep, 40, .last, 22, 52⟩),
    (32, 0xDA25B4E3, .imst ⟨.keep, 40, .last, 22, 52⟩), (32, 0x015900E5, .exportOp ⟨5, .keep, 36⟩),
    (32, 0x5A65B5E7, .infq ⟨true, .keep, 41, .last, 22, 53⟩), (32, 0x0038FCE9, .rqbegin ⟨.lastEnd, 35, 60⟩), (32, 0x402600E9, .rqset ⟨.last, 24⟩),
    (32, 0x800035E9, .rqstep 53), (32, 0xC00035E9, .rqcommit 53), (32, 0x0038FCEB, .rqget ⟨.lastEnd, 35, 60⟩), (32, 0x400000EB, .rqend),
    (32, 0x9A25B4EB, .rqreport ⟨.keep, 40, .last, 22, 52⟩), (32, 0x002600ED, .card ⟨.last, 24⟩), (32, 0x8018C0EF, .bld ⟨true, .keep, 35⟩),
    (32, 0x0038FCF1, .gpin ⟨.lastEnd, 35, 60⟩), (32, 0x5A6580F1, .gunpin ⟨.keep, 41, .last, 22⟩), (32, 0x8038FCF1, .gqry ⟨.lastEnd, 35, 60⟩),
    (32, 0xABCDE9F3, .pureOp ⟨0xABCDE, 9⟩), (32, 0x0B58C0F5, .mkey ⟨.f16x4, 5, .keep, 35⟩), (32, 0x0E18C0F7, .mexcl ⟨.bf16x4, .keep, 35⟩),
    (32, 0x164034F9, .mprobe ⟨5, 9, 26⟩), (32, 0x165D00FB, .mstore ⟨5, 9, .keep, 26⟩) ]
theorem test_decode_graphics : ∀ e ∈ graphicsWords, decodeTableWord e.1 e.2.1 = some e.2.2 := by decide +kernel

/-- 16-bit forms (Table 11-7) and prefixes (R257). -/
def shortWords : List (Nat × Nat × Instr) :=
  [ (16, 0xACC0, .add16 ⟨21, 38⟩), (16, 0xACC2, .sub16 ⟨21, 38⟩), (16, 0xACC4, .and16 ⟨21, 38⟩), (16, 0xACC6, .or16 ⟨21, 38⟩),
    (16, 0xACC8, .xor16 ⟨21, 38⟩), (16, 0xACCA, .mov16 ⟨21, 38⟩), (16, 0xACCC, .addi16 ⟨0x15, 38⟩), (16, 0xACCE, .movi16 ⟨0x15, 38⟩),
    (16, 0xACD0, .shli16 ⟨0x15, 38⟩), (16, 0xACD2, .shri16 ⟨0x15, 38⟩), (16, 0xACD4, .fadd16 ⟨21, 38⟩), (16, 0xACD6, .fmul16 ⟨21, 38⟩),
    (16, 0xACD8, .fsub16 ⟨21, 38⟩), (16, 0xACDA, .hadd16 ⟨21, 38⟩), (16, 0xACDC, .hmul16 ⟨21, 38⟩), (16, 0xACDE, .sari16 ⟨0x15, 38⟩),
    (16, 0xCB2A, .guardPrefix true 9), (16, 0x2CAA, .modePrefix true .rz) ]
theorem test_decode_short : ∀ e ∈ shortWords, decodeTableWord e.1 e.2.1 = some e.2.2 := by decide +kernel

/-! ### What is not well formed -/

/-- One instruction for each condition of WellFormed that breaks it. -/
def illFormed : List Instr :=
  [ .shlImm ⟨.w16, 16, .none, 6, 5⟩, .shrImm ⟨.w8, 8, .none, 6, 5⟩, .sarImm ⟨.w32, 32, .none, 6, 5⟩, .rotlImm ⟨.w32, 63, .none, 6, 5⟩,
    .cmpS ⟨1, .un, 7, .none, 6, .none, true⟩, .cmpN ⟨1, .or, 7, .none, 6, .none, true⟩, .rcp ⟨.f64, .none, 6, 5⟩, .sqrt ⟨.f64, .none, 6, 5⟩,
    .rsqrt ⟨.f64, .none, 6, 5⟩, .log2 ⟨.f64, .none, 6, 5⟩, .exp2 ⟨.f64, .none, 6, 5⟩, .tolog ⟨.f64, .none, 6, 5⟩, .fromlog ⟨.f64, .none, 6, 5⟩,
    .reduceAdd ⟨.e2m1, .none, 6, 5⟩, .reduceMin ⟨.e4m3, .none, 6, 5⟩, .reduceMax ⟨.s4, .none, 6, 5⟩, .ldN32 ⟨0, .fe, .gl, .none, 6, 5⟩,
    .ldq ⟨0, .fec, .pv, .none, 6, 5⟩, .stB64 ⟨0, .fill, .none, .gl, .none, 6, 5⟩, .stq ⟨0, .fill, .none, .pv, .none, 6, 5⟩,
    .atom ⟨.none, .gl, true, .cas, .none, 6, .none, 5⟩, .ared ⟨.none, .gl, true, .exch, .none, 6, .none, 5⟩, .ared ⟨.none, .gl, true, .cas, .none, 6, .none, 4⟩,
    .pop ⟨1, 0, 0, .last, 8⟩, .pref ⟨0, .cc, .lo, .none, 6⟩, .mmaFa ⟨false, .fp32, 0, .none, 8, 1, 2⟩, .mmaFb ⟨true, .fp16, 0, .none, 4, 1, 2⟩,
    .mmaSp8Fa ⟨.int8, 0, .none, 2, 1, 2⟩, .mmaSp8Fb ⟨.int4, 0, .none, 1, 1, 2⟩, .edge ⟨.none, 8, .none, 1, 3⟩, .edge ⟨.none, 7, .none, 1, 2⟩,
    .interpPersp ⟨.none, 14, .none, 7, 5⟩, .interpLin ⟨.none, 13, .none, 7, 5⟩, .interpFlat ⟨.none, 15, .none, 7, 5⟩, .texs ⟨.none, 7, .none, 4, 11⟩,
    .texg ⟨.none, 7, .none, 5, 10⟩, .imld ⟨.none, 7, .none, 5, 10⟩, .imst ⟨.none, 7, .none, 4, 11⟩, .exportOp ⟨0, .none, 14⟩, .rqset ⟨.none, 12⟩,
    .mov16 ⟨6, 38⟩ ]
theorem test_wellFormed_refuses : ∀ i ∈ illFormed, i.wellFormed = false := by decide +kernel

/-- The decoder refuses their words as well: a shift of 16-bit elements by 16, an unordered integer compare, `rcp` of f64, a consuming
load of global memory, a compare-and-swap of an odd register, an unused field that is not zero, and majors 0x00, 0x7E and 0x7F (Table 11-6). -/
theorem test_decode_refuses : ∀ w ∈ [0x1400003D, 0x0C000053, 0x4000005D, 0x0200008D, 0x1A00059F, 0x010000A3, 0x00000001, 0x000000FD, 0x000000FF],
    decodeTableWord 32 w = none := by decide +kernel

/-! ### Encodings, and whole instructions -/

theorem witness_encoding : (Instr.ldN32 ⟨2, .acq, .gl, .none, 4, 5⟩).encoded = true ∧ (Instr.ldN32 ⟨2, .acq, .gl, .none, 4, 5⟩).wellFormed = true := by decide
theorem witness_decodes : decodeBytes [0x8D, 0x05, 0x01, 0x09, 0xAA] = some (.ldN32 ⟨2, .acq, .gl, .none, 4, 5⟩, [0xAA]) := by decide +kernel
theorem witness_answers : W.sched.agenda = [] ∧ ∀ cl b, Instr.bankTransition 17 31 = .bankTransition cl b → cl < 18 ∧ b < 32 :=
  ⟨rfl, fun _ _ h => by cases h; decide⟩
theorem witness_memoryWf : memoryWf W ∧ accessesMemory (.stB64 ⟨0, .plain, .none, .lo, .none, 6, 5⟩) = true := ⟨(by decide : Memory.wf W.mem.cells = true), rfl⟩
theorem witness_resetTables : (17 : Nat) < 18 ∧ 15 < 16 ∧ 4095 < 2 ^ 12 ∧ (⟨1, 17, 2⟩, 0x0F22) ∈ resetTable 17 15 4095 :=
  ⟨by decide, by decide, by decide, List.mem_cons_of_mem _ (List.mem_cons_of_mem _ List.mem_cons_self)⟩

/-! ### Single steps: the examples of the spec, and corners of its rules -/

/-- What an instruction leaves in a register of thread 1, with some registers set before it. -/
def leaves (i : Instr) (l : List (Nat × Word)) (r : Nat) : Option Word :=
  match exec i (regs W l) with
  | .next t => some (t.gr 1 r)
  | _ => none

/-- Of a predicate. -/
def leavesP (i : Instr) (l : List (Nat × Word)) (p : Nat) : Option Bool :=
  match exec i (regs W l) with
  | .next t => some (t.pr 1 p)
  | _ => none

/-- R276: an addition wraps in each element; R262: a last use leaves the poison value, but not in the register that the instruction writes. -/
theorem test_add_wraps : leaves (.add ⟨.w32, .none, 7, .none, 6, 5⟩) [(6, 0x00000001FFFFFFFF), (7, 0x0000000100000001)] 5 = some 0x0000000200000000 := by decide +kernel
theorem test_last_use : leaves (.add ⟨.w64, .none, 7, .last, 6, 5⟩) [(6, 1), (7, 2)] 6 = some 0x7FFC00007FC00001 := by decide +kernel
theorem test_last_use_of_destination : leaves (.add ⟨.w64, .none, 7, .last, 6, 6⟩) [(6, 1), (7, 2)] 6 = some 3 := by decide +kernel
/-- R276: −1 × −1 has the high half 0 signed, and 2^64 − 2 unsigned; a saturating sum stops at the limits. -/
theorem test_mulhiS : leaves (.mulhiS ⟨.w64, .none, 7, .none, 6, 5⟩) [(6, BitVec.allOnes 64), (7, BitVec.allOnes 64)] 5 = some 0 := by decide +kernel
theorem test_mulhiN : leaves (.mulhiN ⟨.w64, .none, 7, .none, 6, 5⟩) [(6, BitVec.allOnes 64), (7, BitVec.allOnes 64)] 5 = some 0xFFFFFFFFFFFFFFFE := by decide +kernel
theorem test_addsatS : leaves (.addsatS ⟨.w16, .none, 7, .none, 6, 5⟩) [(6, 0x80007FFF), (7, 0xFFFF0001)] 5 = some 0x80007FFF := by decide +kernel
/-- R3: a source that is also the destination is read before it is written (spec 00's example: 5 becomes 10). -/
theorem test_add_to_itself : leaves (.add ⟨.w64, .none, 2, .none, 2, 2⟩) [(2, 5)] 2 = some 10 := by decide +kernel
theorem test_cmp_signed : leavesP (.cmpS ⟨3, .lt, 7, .none, 6, .none, true⟩) [(6, BitVec.allOnes 64), (7, 0)] 3 = some true := by decide +kernel
theorem test_cmp_unsigned : leavesP (.cmpN ⟨3, .lt, 7, .none, 6, .none, true⟩) [(6, BitVec.allOnes 64), (7, 0)] 3 = some false := by decide +kernel
/-- 1.0 + 2.0 = 3.0 and +0 for 1.0 − 1.0 in FP32. -/
theorem test_addF : leaves (.addF ⟨.f32, .none, 7, .none, 6, 5⟩) [(6, 0x3F8000003F800000), (7, 0xBF80000040000000)] 5 = some 0x40400000 := by decide +kernel
/-- The examples after R288 and R120: 2.5 to E2M1, −300.0 to signed 8 bits, 456.0 and 0.296875 to E4M3. -/
theorem test_cvt_e2m1 : leaves (.cvt ⟨.e2m1, .f32, .none, 2, 3⟩) [(2, 0x40200000)] 3 = some 4 := by decide +kernel
theorem test_cvt_s8 : leaves (.cvt ⟨.s8, .f32, .none, 2, 3⟩) [(2, 0xC3960000)] 3 = some 0xFFFFFFFFFFFFFF80 := by decide +kernel
theorem test_cvt_e4m3_top : leaves (.cvt ⟨.e4m3, .f32, .none, 2, 3⟩) [(2, 0x43E40000)] 3 = some 0x7E := by decide +kernel
theorem test_cvt_e4m3_tie : leaves (.cvt ⟨.e4m3, .f32, .none, 2, 3⟩) [(2, 0x3E980000)] 3 = some 0x2A := by decide +kernel
/-- The example after R292: √2 and √8; the examples of R135: 3.0 and 1.0078125 in the log domain. -/
theorem test_sqrt : leaves (.sqrt ⟨.f32, .none, 1, 2⟩) [(1, 0x4100000040000000)] 2 = some 0x403504F33FB504F3 := by decide +kernel
theorem test_tolog : leaves (.tolog ⟨.f32, .none, 1, 2⟩) [(1, 0x40400000)] 2 = some 0x00CAE00D := by decide +kernel
theorem test_tolog_between : leaves (.tolog ⟨.f32, .none, 1, 2⟩) [(1, 0x3F810000)] 2 = some 0x00016E7A := by decide +kernel
theorem test_plop : leavesP (.plop ⟨0x80, 15, 15, 15, 2⟩) [] 2 = some true := by decide +kernel
theorem test_movk : leaves (.movk ⟨0xBEEF, 2, 5⟩) [(5, BitVec.allOnes 64)] 5 = some 0xFFFFBEEFFFFFFFFF := by decide +kernel

/-- The example after R299: shfl across eight positions, of which position 3 takes no part. -/
def shflState : State :=
  let ths := (List.range 8).map fun t =>
    (t + 1, { placedThread with pos := t, tid := t, p := if t = 3 then 0xFFFB else 0xFFFF,
                                g := (placedThread.g.set 4 (BitVec.ofNat 64 (10 * t + (10 * t + 1) * 2 ^ 16 + (10 * t + 2) * 2 ^ 32 + (10 * t + 3) * 2 ^ 48))).set 5 (BitVec.ofNat 64 (4 * t + 1)) })
  { W with threads := ths, gangs := W.gangs.set 1 { placedGang with at_ := (List.range 8).map fun t => some (t + 1) }
           grp := { W.grp with threads := [1, 2, 3, 4, 5, 6, 7, 8], guard := some (false, 2) } }
def shflLeaves (t : Nat) : Option Word :=
  match exec (.shfl ⟨.w16, .none, 5, .none, 4, 6⟩) shflState with
  | .next s => some (s.gr (t + 1) 6)
  | _ => none
theorem test_shfl : shflLeaves 0 = some 0x000A000300020001 ∧ shflLeaves 2 = some 0x0017001700160015 ∧ shflLeaves 3 = some 0 ∧ shflLeaves 7 = some 0x0000004900480047 := by
  decide +kernel

/-- The example after R173: the signature of one word; R184: keys under T4. -/
theorem test_signature : signature64 [0x6A09E667F3BCC909] = 0x72000659AF4C3E248BF8E80353F038EA := by decide +kernel

/-- The example after R76: a 32 MiB leaf at level 2, found by a walk of context 1. -/
def walkW : State :=
  { W with mem := { W.mem with cells := writeCells (writeCells (writeCells [] (0x1000 + 8 * 19) (bytesOfNat 0x2001 8)) (0x2000 + 8 * 144) (bytesOfNat 0x3001 8))
                                                   (0x3000 + 8 * 407) (bytesOfNat 0x2C00000B 8) } }
theorem test_walk : okVal (resolveNow walkW 1 .gl 0x00009A432E571C08 8 .load).2 = some 0x00002C571C08 := by decide +kernel

/-- R86: the example of slice 9. -/
theorem test_slice : sliceTakes ⟨[], some (990, 12), [(3, 1000, 0), (12, 990, 0)]⟩ 3 1000 = false ∧ sliceTakes ⟨[], some (990, 12), [(3, 1000, 0), (12, 990, 0)]⟩ 12 990 = true := by decide

/-- The example after R198: a quantised bound is 10 + 16 × 0.0625 = 11.0 below and 10 + 32 × 0.0625 = 12.0 above. -/
theorem test_childBox : code32 (((childBox (0x41200000 + 0xFC * 2 ^ 96 + 16 * 2 ^ 256 + 31 * 2 ^ 264) 4 0).1).headD (.ofNat 0)) = 0x41300000 ∧
    code32 (((childBox (0x41200000 + 0xFC * 2 ^ 96 + 16 * 2 ^ 256 + 31 * 2 ^ 264) 4 0).2).headD (.ofNat 0)) = 0x41400000 := by decide +kernel

/-- R2: a store and a load of the same group in local memory, in little-endian order. -/
def stored (s : State) : State := match exec (.stB64 ⟨0, .plain, .none, .lo, .none, 6, 7⟩) s with
  | .next t => { t with grp := W.grp }
  | _ => s
theorem test_store_bytes : (List.range 8).map (fun i => readCell (2 ^ 63 + i) (stored (regs W [(7, 0x0102030405060708)])).mem.cells) = [8, 7, 6, 5, 4, 3, 2, 1] := by decide +kernel
theorem test_store_then_load : (match exec (.ldN16 ⟨1, .plain, .lo, .none, 6, 9⟩) (stored (regs W [(7, 0x0102030405068788)])) with
    | .next t => some (t.gr 1 9)
    | _ => none) = some 0x0506 := by decide +kernel
theorem test_load_extends_sign : (match exec (.ldS16 ⟨0, .plain, .lo, .none, 6, 9⟩) (stored (regs W [(7, 0x0102030405068788)])) with
    | .next t => some (t.gr 1 9)
    | _ => none) = some 0xFFFFFFFFFFFF8788 := by decide +kernel

/-- A step runs the word that withFetchWord places, from reset: add of the immediate −1 to g1 into g2 (majors of Table 11-6, format I). -/
theorem test_step_runs_the_word : (match step (State.reset.withFetchWord 32 0xFFC04239) with
    | .next t => some (t.gr 1 2)
    | _ => none) = some (BitVec.allOnes 64) := by decide +kernel
/-- The same for a 16-bit form: addi16 of −16 to g2 (Table 11-7). -/
theorem test_step_runs_a_halfword : (match step (State.reset.withFetchWord 16 0x804C) with
    | .next t => some (t.gr 1 2)
    | _ => none) = some 0xFFFFFFFFFFFFFFF0 := by decide +kernel

end Sys2Proof.Tests
end

section
/-! PROOFS. Elements of a register, and the operations of Table 12-1, R278 and R279 on numbers of n bits: what the model computes on
natural numbers is what the statements give on bit vectors, for every n. -/

namespace Sys2Proof.Machine

open Claims

/-! ### Elements of a register (R274) -/

theorem elemAt_toNat (n j : Nat) (w : Word) : elemAt n j w.toNat = (element n j w).toNat := by
  simp [elemAt, element, Nat.shiftRight_eq_div_pow]

theorem joinElems_lt (n : Nat) (l : List Nat) : joinElems n l < 2 ^ (n * l.length) := by
  induction l with
  | nil => simp [joinElems]
  | cons x xs ih =>
    have hx : x % 2 ^ n < 2 ^ n := Nat.mod_lt _ (Nat.two_pow_pos n)
    calc x % 2 ^ n + 2 ^ n * joinElems n xs < 2 ^ n * (joinElems n xs + 1) := by rw [Nat.mul_add]; omega
      _ ≤ 2 ^ n * 2 ^ (n * xs.length) := Nat.mul_le_mul_left _ ih
      _ = 2 ^ (n * (x :: xs).length) := by rw [← Nat.pow_add, List.length_cons, Nat.mul_succ, Nat.add_comm]

theorem elemAt_joinElems (n : Nat) {l : List Nat} {j : Nat} (h : j < l.length) : elemAt n j (joinElems n l) = l[j] % 2 ^ n := by
  induction l generalizing j with
  | nil => simp at h
  | cons x xs ih =>
    cases j with
    | zero => simp [elemAt, joinElems]
    | succ j =>
      have hshift : (x % 2 ^ n + 2 ^ n * joinElems n xs) / 2 ^ n = joinElems n xs := by
        rw [Nat.add_mul_div_left _ _ (Nat.two_pow_pos n), Nat.div_eq_of_lt (Nat.mod_lt _ (Nat.two_pow_pos n)), Nat.zero_add]
      rw [List.getElem_cons_succ, ← ih (Nat.lt_of_succ_lt_succ h)]
      simp only [elemAt, joinElems]
      rw [Nat.mul_succ, Nat.add_comm (n * j), Nat.pow_add, ← Nat.div_div_eq_div_mul, hshift]

/-- The elements of a word that is put together from as many elements as fit. -/
theorem element_joinElems {n : Nat} {l : List Nat} {j : Nat} (h : j < l.length) (hl : n * l.length ≤ 64) :
    element n j (wordOf (joinElems n l)) = BitVec.ofNat n l[j] := by
  have hlt : joinElems n l < 2 ^ 64 := Nat.lt_of_lt_of_le (joinElems_lt n l) (Nat.pow_le_pow_right (by decide) hl)
  apply BitVec.eq_of_toNat_eq
  rw [← elemAt_toNat, wordOf, BitVec.toNat_ofNat, Nat.mod_eq_of_lt hlt, elemAt_joinElems n h, BitVec.toNat_ofNat]

theorem element_map3 {n j : Nat} (f : Nat → Nat → Nat → Nat) (a b d : Word) (h : j < 64 / n) :
    element n j (map3 n f a b d) = BitVec.ofNat n (f (element n j a).toNat (element n j b).toNat (element n j d).toNat) := by
  unfold map3
  rw [element_joinElems (by simpa using h) (by simpa using Nat.mul_div_le 64 n)]
  simp [elemAt_toNat]

theorem element_map1 {n j : Nat} (f : Nat → Nat) (a : Word) (h : j < 64 / n) :
    element n j (map1 n f a) = BitVec.ofNat n (f (element n j a).toNat) := by
  unfold map1 elems
  rw [element_joinElems (by simpa using h) (by simpa using Nat.mul_div_le 64 n)]
  simp [elemAt_toNat]

/-! ### Numbers of n bits -/

variable {n : Nat}

/-- Two's complement of an element (Table 0-1). -/
theorem sextNat_toNat (a : BitVec n) : sextNat n a.toNat = a.toInt := by
  cases n with
  | zero =>
    obtain rfl := BitVec.eq_nil a
    rfl
  | succ m =>
    have hhalf : 2 ^ (m + 1) = 2 * 2 ^ m := by rw [Nat.pow_succ, Nat.mul_comm]
    have ha := a.isLt
    rw [sextNat, Nat.mod_eq_of_lt ha, BitVec.toInt_eq_toNat_cond, Nat.add_sub_cancel]
    split <;> split <;> omega

theorem two_pow_cast_pos (n : Nat) : (0 : Int) < (2 ^ n : Nat) := Int.natCast_pos.2 (Nat.two_pow_pos n)

theorem ofNat_wrapInt (n : Nat) (x : Int) : BitVec.ofNat n (wrapInt n x) = BitVec.ofInt n x := by
  have hnonneg : 0 ≤ x % (2 ^ n : Nat) := Int.emod_nonneg _ (Int.ne_of_gt (two_pow_cast_pos n))
  have hlt : x % (2 ^ n : Nat) < (2 ^ n : Nat) := Int.emod_lt_of_pos _ (two_pow_cast_pos n)
  apply BitVec.eq_of_toNat_eq
  rw [BitVec.toNat_ofNat, BitVec.toNat_ofInt, wrapInt, Nat.mod_eq_of_lt (by omega)]

/-- The upper half of an integer of 2n bits. -/
theorem extractLsb'_ofInt (n : Nat) (x : Int) : (BitVec.ofInt (2 * n) x).extractLsb' n n = BitVec.ofInt n (x / (2 ^ n : Nat)) := by
  have hp : ((2 ^ n : Nat) : Int) ≠ 0 := Int.ne_of_gt (two_pow_cast_pos n)
  have hhigh : x % ((2 ^ n : Nat) * (2 ^ n : Nat) : Int) / (2 ^ n : Nat) % (2 ^ n : Nat) = x / (2 ^ n : Nat) % (2 ^ n : Nat) := by
    rw [Int.emod_def x, Int.sub_eq_add_neg, Int.mul_assoc, ← Int.mul_neg, Int.add_mul_ediv_left _ _ hp, ← Int.mul_neg,
      Int.add_mul_emod_self_left]
  have hcast : ((2 ^ (2 * n) : Nat) : Int) = (2 ^ n : Nat) * (2 ^ n : Nat) := by rw [Nat.two_mul, Nat.pow_add, Int.natCast_mul]
  apply BitVec.eq_of_toNat_eq
  rw [BitVec.extractLsb'_toNat, BitVec.toNat_ofInt, BitVec.toNat_ofInt, Nat.shiftRight_eq_div_pow, hcast, ← hhigh]
  apply Int.natCast_inj.1
  rw [Int.natCast_emod, Int.natCast_ediv, Int.toNat_of_nonneg (Int.emod_nonneg _ (Int.mul_ne_zero hp hp)),
    Int.toNat_of_nonneg (Int.emod_nonneg _ hp)]

theorem ofInt_satInt_signed (x : Int) : BitVec.ofInt n (satInt true n x) = satS n x := by
  simp [satInt, intMin, intMax, satS]

theorem satN_eq (x : Int) : satN n x = BitVec.ofNat n (min x.toNat (2 ^ n - 1)) := by
  have hcast : ((2 : Int) ^ n) = (2 ^ n : Nat) := by push_cast; rfl
  have hpos := Nat.two_pow_pos n
  rw [satN, hcast, ← BitVec.ofInt_natCast]
  congr 1
  omega

/-- An arithmetic shift by the width or more is one by the width less 1. -/
theorem sshiftRight_min (a : BitVec n) (c : Nat) : a.sshiftRight (min c (n - 1)) = a.sshiftRight c := by
  obtain hc | hc := Nat.lt_or_ge c n
  · rw [Nat.min_eq_left (by omega)]
  · apply BitVec.eq_of_getLsbD_eq
    intro i hi
    rw [Nat.min_eq_right (by omega), BitVec.getLsbD_sshiftRight, BitVec.getLsbD_sshiftRight, if_neg (by omega : ¬c + i < n),
      BitVec.msb_eq_getLsbD_last]
    split
    · rw [show n - 1 + i = n - 1 by omega]
    · rfl

theorem bit_eq_testBit (x k : Nat) : bit x k = x.testBit k := Nat.testBit_eq_decide_div_mod_eq.symm

theorem bit_toNat (a : BitVec n) (k : Nat) : bit a.toNat k = a.getLsbD k := by
  rw [bit_eq_testBit, BitVec.testBit_toNat]

/-- A number in which l bits from bit o on are the low bits of another. -/
theorem testBit_insert (o l a d i : Nat) : (d % 2 ^ o + a % 2 ^ l * 2 ^ o + d / 2 ^ (o + l) * 2 ^ (o + l)).testBit i =
    if o ≤ i ∧ i < o + l then a.testBit (i - o) else d.testBit i := by
  have hlayers : d % 2 ^ o + a % 2 ^ l * 2 ^ o + d / 2 ^ (o + l) * 2 ^ (o + l) =
      2 ^ o * (2 ^ l * (d / 2 ^ (o + l)) + a % 2 ^ l) + d % 2 ^ o := by
    rw [Nat.pow_add, Nat.mul_add]
    ac_rfl
  rw [hlayers, Nat.testBit_two_pow_mul_add _ (Nat.mod_lt _ (Nat.two_pow_pos o)),
    Nat.testBit_two_pow_mul_add _ (Nat.mod_lt _ (Nat.two_pow_pos l))]
  split
  · rw [if_neg (by omega), Nat.testBit_mod_two_pow]; simp [*]
  · split
    · rw [if_pos (by omega), Nat.testBit_mod_two_pow]; simp [*]
    · rw [if_neg (by omega), Nat.testBit_div_two_pow]; congr 1; omega

/-! ### Integer operations on elements (Table 12-1) -/

/-- For elements of n bits, a function of the model on natural numbers gives what a function on bit vectors does. -/
def Computes (n : Nat) (f : Nat → Nat → Nat → Nat → Nat) (g : BitVec n → BitVec n → BitVec n → BitVec n) : Prop :=
  ∀ a b d, BitVec.ofNat n (f n a.toNat b.toNat d.toNat) = g a b d

theorem computes_elAdd : Computes n elAdd fun a b _ => a + b := fun a b _ => by
  apply BitVec.eq_of_toNat_eq
  simp [elAdd]

theorem computes_elSub : Computes n elSub fun a b _ => a - b := fun a b _ => by
  have hb := b.isLt
  apply BitVec.eq_of_toNat_eq
  rw [elSub, BitVec.toNat_ofNat, Nat.mod_mod, BitVec.toNat_sub]
  congr 1
  omega

theorem computes_elMul : Computes n elMul fun a b _ => a * b := fun a b _ => by
  apply BitVec.eq_of_toNat_eq
  simp [elMul]

theorem computes_elMadd : Computes n elMadd fun a b d => a * b + d := fun a b d => by
  apply BitVec.eq_of_toNat_eq
  simp [elMadd]

theorem computes_elMulhiS :
    Computes n elMulhiS fun a b _ => (a.signExtend (2 * n) * b.signExtend (2 * n)).extractLsb' n n := fun a b _ => by
  have hprod : a.signExtend (2 * n) * b.signExtend (2 * n) = BitVec.ofInt (2 * n) (a.toInt * b.toInt) := (BitVec.ofInt_mul _ _).symm
  simp only [hprod, extractLsb'_ofInt, elMulhiS, ofNat_wrapInt, sextNat_toNat]

theorem computes_elMulhiN :
    Computes n elMulhiN fun a b _ => (a.zeroExtend (2 * n) * b.zeroExtend (2 * n)).extractLsb' n n := fun a b _ => by
  have hle : 2 ^ n ≤ 2 ^ (2 * n) := Nat.pow_le_pow_right (by decide) (by omega)
  have hprod : a.toNat * b.toNat < 2 ^ (2 * n) := by
    rw [Nat.two_mul, Nat.pow_add]
    exact Nat.mul_lt_mul'' a.isLt b.isLt
  apply BitVec.eq_of_toNat_eq
  rw [elMulhiN, BitVec.extractLsb'_toNat, BitVec.toNat_mul]
  simp only [BitVec.toNat_setWidth, BitVec.toNat_ofNat]
  rw [Nat.mod_eq_of_lt (Nat.lt_of_lt_of_le a.isLt hle), Nat.mod_eq_of_lt (Nat.lt_of_lt_of_le b.isLt hle), Nat.mod_eq_of_lt hprod,
    Nat.shiftRight_eq_div_pow]

theorem computes_elAddsatS : Computes n elAddsatS fun a b _ => satS n (a.toInt + b.toInt) := fun a b _ => by
  rw [elAddsatS, ofNat_wrapInt, ofInt_satInt_signed, sextNat_toNat, sextNat_toNat]

theorem computes_elSubsatS : Computes n elSubsatS fun a b _ => satS n (a.toInt - b.toInt) := fun a b _ => by
  rw [elSubsatS, ofNat_wrapInt, ofInt_satInt_signed, sextNat_toNat, sextNat_toNat]

theorem computes_elAddsatN : Computes n elAddsatN fun a b _ => satN n (a.toNat + b.toNat) := fun a b _ => by
  simp only [satN_eq, elAddsatN, ← Int.natCast_add, Int.toNat_natCast]

theorem computes_elSubsatN : Computes n elSubsatN fun a b _ => satN n (a.toNat - b.toNat) := fun a b _ => by
  have ha := a.isLt
  simp only [satN_eq, elSubsatN, Int.toNat_sub]
  rw [Nat.min_eq_left (by omega)]

theorem computes_elMinS : Computes n elMinS fun a b _ => if b.slt a then b else a := fun a b _ => by
  simp only [elMinS, sextNat_toNat, BitVec.slt, decide_eq_true_eq]
  split <;> simp

theorem computes_elMaxS : Computes n elMaxS fun a b _ => if a.slt b then b else a := fun a b _ => by
  simp only [elMaxS, sextNat_toNat, BitVec.slt, decide_eq_true_eq]
  split <;> simp

theorem computes_elMinN : Computes n elMinN fun a b _ => if b.ult a then b else a := fun a b _ => by
  simp only [elMinN, BitVec.ult, decide_eq_true_eq]
  split
  · rw [Nat.min_eq_right (by omega), BitVec.ofNat_toNat, BitVec.setWidth_eq]
  · rw [Nat.min_eq_left (by omega), BitVec.ofNat_toNat, BitVec.setWidth_eq]

theorem computes_elMaxN : Computes n elMaxN fun a b _ => if a.ult b then b else a := fun a b _ => by
  simp only [elMaxN, BitVec.ult, decide_eq_true_eq]
  split
  · rw [Nat.max_eq_right (by omega), BitVec.ofNat_toNat, BitVec.setWidth_eq]
  · rw [Nat.max_eq_left (by omega), BitVec.ofNat_toNat, BitVec.setWidth_eq]

theorem computes_elAnd : Computes n elAnd fun a b _ => a &&& b := fun a b _ =>
  (BitVec.ofNat_toNat n (a &&& b)).trans (BitVec.setWidth_eq _)

theorem computes_elOr : Computes n elOr fun a b _ => a ||| b := fun a b _ =>
  (BitVec.ofNat_toNat n (a ||| b)).trans (BitVec.setWidth_eq _)

theorem computes_elXor : Computes n elXor fun a b _ => a ^^^ b := fun a b _ =>
  (BitVec.ofNat_toNat n (a ^^^ b)).trans (BitVec.setWidth_eq _)

theorem computes_elAndn : Computes n elAndn fun a b _ => a &&& ~~~b := fun a b d => by
  rw [elAndn, ← BitVec.toNat_not]
  exact computes_elAnd a (~~~b) d

/-! ### Shifts by a count -/

theorem ofNat_elShl (a : BitVec n) (c d : Nat) : BitVec.ofNat n (elShl n a.toNat c d) = a <<< c := by
  unfold elShl
  split
  · apply BitVec.eq_of_toNat_eq
    simp [Nat.shiftLeft_eq]
  · exact (BitVec.shiftLeft_eq_zero (by omega)).symm

theorem ofNat_elShr (a : BitVec n) (c d : Nat) : BitVec.ofNat n (elShr n a.toNat c d) = a >>> c := by
  unfold elShr
  split
  · apply BitVec.eq_of_toNat_eq
    rw [BitVec.toNat_ofNat, BitVec.toNat_ushiftRight, Nat.shiftRight_eq_div_pow]
    exact Nat.mod_eq_of_lt (Nat.lt_of_le_of_lt (Nat.div_le_self _ _) a.isLt)
  · exact (BitVec.ushiftRight_eq_zero (by omega)).symm

theorem ofNat_elSar (a : BitVec n) (c d : Nat) : BitVec.ofNat n (elSar n a.toNat c d) = a.sshiftRight c := by
  rw [elSar, ofNat_wrapInt, sextNat_toNat, ← sshiftRight_min, BitVec.sshiftRight_eq, Int.shiftRight_eq_div_pow]

/-- The two parts of a rotated element do not overlap, so that their sum is their union. -/
theorem ofNat_elRotl (a : BitVec n) (c d : Nat) : BitVec.ofNat n (elRotl n a.toNat c d) = a.rotateLeft c := by
  obtain rfl | hn := Nat.eq_zero_or_pos n
  · exact Subsingleton.elim _ _
  have hr : c % n < n := Nat.mod_lt c hn
  have hsplit : 2 ^ n = 2 ^ (c % n) * 2 ^ (n - c % n) := by rw [← Nat.pow_add]; congr 1; omega
  have hlow : a.toNat / 2 ^ (n - c % n) < 2 ^ (c % n) := Nat.div_lt_of_lt_mul (by rw [Nat.mul_comm, ← hsplit]; exact a.isLt)
  have hhigh : a.toNat * 2 ^ (c % n) % 2 ^ n = (a.toNat % 2 ^ (n - c % n)) <<< (c % n) := by
    rw [hsplit, Nat.mul_comm, Nat.mul_mod_mul_left, Nat.shiftLeft_eq, Nat.mul_comm]
  have hsum : (a.rotateLeft c).toNat = a.toNat * 2 ^ (c % n) % 2 ^ n + a.toNat / 2 ^ (n - c % n) := by
    rw [BitVec.toNat_rotateLeft, Nat.shiftLeft_eq, hhigh, Nat.shiftRight_eq_div_pow, Nat.shiftLeft_add_eq_or_of_lt hlow]
  apply BitVec.eq_of_toNat_eq
  rw [BitVec.toNat_ofNat, elRotl, Nat.mod_mod, ← Nat.mod_add_mod, ← hsum, Nat.mod_eq_of_lt (a.rotateLeft c).isLt]

theorem computes_elShl : Computes n elShl fun a b _ => if b.toNat < n then a <<< b.toNat else 0 := fun a b d => by
  dsimp only
  rw [ofNat_elShl]
  split
  · rfl
  · exact BitVec.shiftLeft_eq_zero (by omega)

theorem computes_elShr : Computes n elShr fun a b _ => if b.toNat < n then a >>> b.toNat else 0 := fun a b d => by
  dsimp only
  rw [ofNat_elShr]
  split
  · rfl
  · exact BitVec.ushiftRight_eq_zero (by omega)

theorem computes_elSar : Computes n elSar fun a b _ => a.sshiftRight (min b.toNat (n - 1)) := fun a b d =>
  (ofNat_elSar a b.toNat d.toNat).trans (sshiftRight_min a b.toNat).symm

theorem computes_elRotl : Computes n elRotl fun a b _ => a.rotateLeft (b.toNat % n) := fun a b d =>
  (ofNat_elRotl a b.toNat d.toNat).trans BitVec.rotateLeft_mod_eq_rotateLeft.symm

/-! ### Bit fields (R277) -/

theorem fieldOf_toNat (b : BitVec n) : fieldOf n b.toNat = (fieldOffset n b, fieldLength n b) := by
  have hwidth : 2 * Nat.log2 n + 1 - Nat.log2 n = Nat.log2 n + 1 := by omega
  simp only [fieldOf, fieldLength, fieldOffset, bits, hwidth]

theorem getLsbD_fieldMask (b : BitVec n) {i : Nat} (hi : i < n) :
    (fieldMask n b).getLsbD i = decide (fieldOffset n b ≤ i ∧ i < fieldOffset n b + fieldLength n b) := by
  rw [fieldMask, BitVec.getLsbD_shiftLeft, BitVec.getLsbD_ofNat, Nat.testBit_two_pow_sub_one, Bool.eq_iff_iff]
  simp only [Bool.and_eq_true, Bool.not_eq_true', decide_eq_true_eq, decide_eq_false_iff_not]
  omega

theorem computes_elBfeN :
    Computes n elBfeN fun a b _ => (a >>> fieldOffset n b) &&& BitVec.ofNat n (2 ^ fieldLength n b - 1) := fun a b _ => by
  apply BitVec.eq_of_getLsbD_eq
  intro i hi
  simp only [elBfeN, fieldOf_toNat, BitVec.getLsbD_ofNat, BitVec.getLsbD_and, BitVec.getLsbD_ushiftRight, Nat.testBit_mod_two_pow,
    Nat.testBit_div_two_pow, Nat.testBit_two_pow_sub_one, BitVec.testBit_toNat, hi, decide_true, Bool.true_and]
  rw [Bool.and_comm, Nat.add_comm]

/-- The extracted field is a number of its own length, whose sign the result extends; an empty field gives 0. -/
theorem computes_elBfeS :
    Computes n elBfeS fun a b _ => ((a >>> fieldOffset n b).setWidth (fieldLength n b)).signExtend n := fun a b d => by
  have hfield : elBfeN n a.toNat b.toNat d.toNat = ((a >>> fieldOffset n b).setWidth (fieldLength n b)).toNat := by
    rw [elBfeN, fieldOf_toNat, BitVec.toNat_setWidth, BitVec.toNat_ushiftRight, Nat.shiftRight_eq_div_pow]
  simp only [elBfeS, fieldOf_toNat, hfield, sextNat_toNat, BitVec.signExtend]
  split
  · next hempty =>
    generalize fieldLength n b = l at *
    subst hempty
    simp [BitVec.of_length_zero]
  · exact ofNat_wrapInt n _

theorem computes_elBfi :
    Computes n elBfi fun a b d => (d &&& ~~~fieldMask n b) ||| ((a <<< fieldOffset n b) &&& fieldMask n b) := fun a b d => by
  apply BitVec.eq_of_getLsbD_eq
  intro i hi
  simp only [elBfi, fieldOf_toNat, BitVec.getLsbD_ofNat, testBit_insert, BitVec.getLsbD_or, BitVec.getLsbD_and, BitVec.getLsbD_not,
    getLsbD_fieldMask b hi, BitVec.getLsbD_shiftLeft, BitVec.testBit_toNat, hi]
  split
  · next hinside => simp [hinside]
  · next houtside => simp [houtside]

/-! ### Bit counts (R278) -/

theorem elPopc_toNat (a : BitVec n) : elPopc n a.toNat = (List.range n).countP fun k => a.getLsbD k := by
  simp only [elPopc, popCount, bitList, bit_toNat, List.countP_eq_length_filter]

/-- The length of the longest beginning of 0, 1, … below n that keeps a property, named by where it ends. -/
theorem length_takeWhile_range {p : Nat → Bool} {m : Nat} (hm : m ≤ n) (hp : ∀ k < m, p k = true) (hend : m < n → p m = false) :
    ((List.range n).takeWhile p).length = m := by
  obtain ⟨r, rfl⟩ := Nat.exists_eq_add_of_le hm
  have hrest : ((List.range r).map (m + ·)).takeWhile p = [] := by
    cases r with
    | zero => rfl
    | succ r => simp [List.range_succ_eq_map, hend (by omega)]
  rw [List.range_add, List.takeWhile_append_of_pos (by simpa using hp), hrest, List.append_nil, List.length_range]

theorem elClz_toNat (a : BitVec n) : elClz n a.toNat = ((List.range n).takeWhile fun k => !a.getLsbD (n - 1 - k)).length := by
  symm
  unfold elClz
  split
  · next h =>
    have hzero : a = 0#n := BitVec.eq_of_toNat_eq (by simpa using h)
    exact length_takeWhile_range (Nat.le_refl n) (by simp [hzero]) (by omega)
  · next h =>
    have hlog : a.toNat.log2 < n := (Nat.log2_lt h).2 a.isLt
    refine length_takeWhile_range (by omega) (fun k hk => ?_) fun _ => ?_
    · rw [← BitVec.testBit_toNat, Nat.testBit_lt_two_pow ((Nat.log2_lt h).1 (by omega)), Bool.not_false]
    · rw [← BitVec.testBit_toNat, show n - 1 - (n - 1 - a.toNat.log2) = a.toNat.log2 by omega, Nat.testBit_log2 h, Bool.not_true]

theorem elCtz_toNat (a : BitVec n) : elCtz n a.toNat = ((List.range n).takeWhile fun k => !a.getLsbD k).length := by
  symm
  simp only [elCtz, bitList, bit_toNat, List.head?_filter]
  cases h : (List.range n).find? fun k => a.getLsbD k with
  | none => exact length_takeWhile_range (Nat.le_refl n) (by simpa [List.find?_range_eq_none] using h) (by simp)
  | some m =>
    obtain ⟨hbit, hm, hbelow⟩ := List.find?_range_eq_some.1 h
    exact length_takeWhile_range (Nat.le_of_lt (List.mem_range.1 hm)) (by simpa using hbelow) (by simp [hbit])

theorem testBit_add_two_pow {m b : Nat} (h : m.testBit b = false) (k : Nat) :
    (m + 2 ^ b).testBit k = (m.testBit k || decide (k = b)) := by
  have hsplit : m + 2 ^ b = 2 ^ b * (m / 2 ^ b + 1) + m % 2 ^ b := by
    rw [Nat.mul_succ, Nat.add_right_comm, Nat.div_add_mod]
  have heven : m / 2 ^ b % 2 = 0 := by simpa [Nat.testBit_eq_decide_div_mod_eq] using h
  rw [hsplit, Nat.testBit_two_pow_mul_add _ (Nat.mod_lt _ (Nat.two_pow_pos b))]
  rcases Nat.lt_trichotomy k b with hk | rfl | hk
  · simp [hk, Nat.ne_of_lt hk]
  · rw [if_neg (Nat.lt_irrefl k), Nat.sub_self, decide_eq_true rfl, Bool.or_true, Nat.testBit_zero, decide_eq_true_iff]
    omega
  · obtain ⟨j, rfl⟩ := Nat.exists_eq_add_of_lt hk
    rw [if_neg (by omega), show b + j + 1 - b = j + 1 by omega, Nat.testBit_add_one, show (m / 2 ^ b + 1) / 2 = m / 2 ^ b / 2 by omega,
      ← Nat.testBit_add_one, Nat.testBit_div_two_pow, decide_eq_false (by omega), Bool.or_false, show j + 1 + b = b + j + 1 by omega]

theorem testBit_maskOf (l : List Nat) (k : Nat) : (maskOf l).testBit k = decide (k ∈ l) := by
  have hfold : ∀ m, (l.foldl (fun m b => if bit m b then m else m + 2 ^ b) m).testBit k = (m.testBit k || decide (k ∈ l)) := by
    induction l with
    | nil => simp
    | cons b l ih =>
      intro m
      rw [List.foldl_cons, ih, bit_eq_testBit]
      split
      · next h => by_cases hk : k = b <;> simp [hk, h]
      · next h => rw [testBit_add_two_pow (by simpa using h)]; simp [Bool.or_assoc]
  rw [maskOf, hfold]
  simp

theorem ofNat_elBrev (a : BitVec n) : BitVec.ofNat n (elBrev n a.toNat) = a.reverse := by
  apply BitVec.eq_of_getLsbD_eq
  intro i hi
  rw [BitVec.getLsbD_ofNat, BitVec.getLsbD_reverse, elBrev, testBit_maskOf, BitVec.getMsbD_eq_getLsbD, decide_eq_true hi, Bool.true_and,
    Bool.true_and, Bool.eq_iff_iff, decide_eq_true_iff]
  simp only [bitList, bit_toNat, List.mem_map, List.mem_filter, List.mem_range]
  constructor
  · rintro ⟨j, ⟨hj, hbit⟩, rfl⟩
    rwa [show n - 1 - (n - 1 - j) = j by omega]
  · exact fun hbit => ⟨n - 1 - i, ⟨by omega, hbit⟩, by omega⟩

/-! ### Quarters of a word (R279) -/

theorem wordOf_mul_two_pow (imm : BitVec 16) (k : Nat) : wordOf (imm.toNat * 2 ^ k) = imm.zeroExtend 64 <<< k := by
  have hlt : imm.toNat < 2 ^ 64 := Nat.lt_trans imm.isLt (by decide)
  apply BitVec.eq_of_toNat_eq
  rw [wordOf, BitVec.toNat_ofNat, BitVec.toNat_shiftLeft, BitVec.toNat_setWidth, Nat.mod_eq_of_lt hlt, Nat.shiftLeft_eq]

theorem putQuarter_eq (x : Word) (q : Nat) (imm : BitVec 16) :
    putQuarter x q imm = (x &&& ~~~(0xFFFF#64 <<< (16 * q))) ||| (imm.zeroExtend 64 <<< (16 * q)) := by
  have himm : imm.toNat = imm.toNat % 2 ^ 16 := (Nat.mod_eq_of_lt imm.isLt).symm
  have hmask : 0xFFFF#64 = BitVec.ofNat 64 (2 ^ 16 - 1) := rfl
  apply BitVec.eq_of_getLsbD_eq
  intro i hi
  rw [putQuarter, himm, wordOf, BitVec.getLsbD_ofNat, testBit_insert, hmask]
  simp only [BitVec.getLsbD_or, BitVec.getLsbD_and, BitVec.getLsbD_not, BitVec.getLsbD_shiftLeft, BitVec.getLsbD_ofNat,
    Nat.testBit_two_pow_sub_one, BitVec.getLsbD_setWidth, BitVec.testBit_toNat, hi]
  split
  · next hinside =>
    have hbelow : i - 16 * q < 16 := by omega
    simp [hbelow, Nat.not_lt.2 hinside.1, (by omega : i - 16 * q < 64)]
  · next houtside =>
    obtain h | h : i < 16 * q ∨ 16 ≤ i - 16 * q := by omega
    · simp [h]
    · simp [h, Nat.not_lt.2 h]

end Sys2Proof.Machine
end

section
/-! PROOFS. Instructions that write one general register with a function of general registers of the same thread, and the integer
operations of format A (R274, R276, R277), the bit counts (R278) and the immediate forms (R279) as such. -/

namespace Sys2Proof.Machine

open Claims

/-- What an instruction does that writes one general register with a function of general registers of the same thread. -/
theorem regOp_writes_ofRegs {i : Instr} {d : Reg} {s : State} (k : Word → Word → Word → Word) (x y z : Nat) (hc : Carries s i)
    (hw : written i.uses = [d.val]) :
    ∃ t, regOp i d (fun s t => k (s.gr t x) (s.gr t y) (s.gr t z)) s = .next t ∧
      WritesReg s i d.val (fun t => k (s.gr t x) (s.gr t y) (s.gr t z)) t :=
  regOp_writes hc ((ReadsOwn.gr x).comp3 (ReadsOwn.gr y) (ReadsOwn.gr z) k) (fun t => by simp only [gr_startIssue]) hw

/-- The instruction writes D with a function of the elements of A, B and D. -/
structure MapsElements3 (i : Instr) (n : Nat) (a b d : Reg) (g : BitVec n → BitVec n → BitVec n → BitVec n) : Prop where
  runs : ∃ f, (∀ s, exec i s = regOp i d (fun s t => map3 n (f n) (s.gr t a.val) (s.gr t b.val) (s.gr t d.val)) s) ∧ Computes n f g
  written : written i.uses = [d.val]

/-- The instruction writes D with a function of the elements of A. -/
structure MapsElements (i : Instr) (n : Nat) (a d : Reg) (g : BitVec n → BitVec n) : Prop where
  runs : ∃ f, (∀ s, exec i s = regOp i d (fun s t => map1 n f (s.gr t a.val)) s) ∧ ∀ x : BitVec n, BitVec.ofNat n (f x.toNat) = g x
  written : written i.uses = [d.val]

/-- The instruction writes D with a function of the words in two registers. -/
structure MapsWords (i : Instr) (a b d : Reg) (g : Word → Word → Word) : Prop where
  runs : ∃ f : Word → Word → Word, (∀ s, exec i s = regOp i d (fun s t => f (s.gr t a.val) (s.gr t b.val)) s) ∧ ∀ x y, f x y = g x y
  written : written i.uses = [d.val]

section Writes
variable {i : Instr} {n : Nat} {a b d : Reg} {s : State}

theorem MapsElements3.writes {g : BitVec n → BitVec n → BitVec n → BitVec n} (h : MapsElements3 i n a b d g) (hc : Carries s i) :
    ∃ t v, exec i s = .next t ∧ WritesReg s i d v t ∧ ∀ th ∈ s.active, ∀ j < 64 / n,
      element n j (v th) = g (element n j (s.gr th a)) (element n j (s.gr th b)) (element n j (s.gr th d)) := by
  obtain ⟨f, hexec, hf⟩ := h.runs
  obtain ⟨t, hrun, hwrites⟩ := regOp_writes_ofRegs (map3 n (f n)) a b d hc h.written
  exact ⟨t, _, (hexec s).trans hrun, hwrites, fun th _ j hj => (element_map3 _ _ _ _ hj).trans (hf _ _ _)⟩

theorem MapsElements.writes {g : BitVec n → BitVec n} (h : MapsElements i n a d g) (hc : Carries s i) :
    ∃ t v, exec i s = .next t ∧ WritesReg s i d v t ∧ ∀ th ∈ s.active, ∀ j < 64 / n,
      element n j (v th) = g (element n j (s.gr th a)) := by
  obtain ⟨f, hexec, hf⟩ := h.runs
  obtain ⟨t, hrun, hwrites⟩ := regOp_writes_ofRegs (fun x _ _ => map1 n f x) a a a hc h.written
  exact ⟨t, _, (hexec s).trans hrun, hwrites, fun th _ j hj => (element_map1 _ _ hj).trans (hf _)⟩

theorem MapsWords.writes {g : Word → Word → Word} (h : MapsWords i a b d g) (hc : Carries s i) :
    ∃ t, exec i s = .next t ∧ WritesReg s i d (fun th => g (s.gr th a) (s.gr th b)) t := by
  obtain ⟨f, hexec, hf⟩ := h.runs
  obtain ⟨t, hrun, hwrites⟩ := regOp_writes_ofRegs (fun x y _ => f x y) a b b hc h.written
  simp only [hf] at hwrites
  exact ⟨t, (hexec s).trans hrun, hwrites⟩

end Writes

theorem mapsElements3_integerTable (o : Op3) : ∀ p ∈ integerTable o o.wid.size, MapsElements3 p.1 o.wid.size o.a o.b o.d p.2 := by
  simp only [integerTable, List.forall_mem_cons]
  exact ⟨⟨⟨elAdd, fun _ => rfl, computes_elAdd⟩, rfl⟩, ⟨⟨elSub, fun _ => rfl, computes_elSub⟩, rfl⟩,
    ⟨⟨elMul, fun _ => rfl, computes_elMul⟩, rfl⟩, ⟨⟨elMulhiS, fun _ => rfl, computes_elMulhiS⟩, rfl⟩,
    ⟨⟨elMulhiN, fun _ => rfl, computes_elMulhiN⟩, rfl⟩, ⟨⟨elAddsatS, fun _ => rfl, computes_elAddsatS⟩, rfl⟩,
    ⟨⟨elAddsatN, fun _ => rfl, computes_elAddsatN⟩, rfl⟩, ⟨⟨elSubsatS, fun _ => rfl, computes_elSubsatS⟩, rfl⟩,
    ⟨⟨elSubsatN, fun _ => rfl, computes_elSubsatN⟩, rfl⟩, ⟨⟨elMinS, fun _ => rfl, computes_elMinS⟩, rfl⟩,
    ⟨⟨elMinN, fun _ => rfl, computes_elMinN⟩, rfl⟩, ⟨⟨elMaxS, fun _ => rfl, computes_elMaxS⟩, rfl⟩,
    ⟨⟨elMaxN, fun _ => rfl, computes_elMaxN⟩, rfl⟩, ⟨⟨elAnd, fun _ => rfl, computes_elAnd⟩, rfl⟩,
    ⟨⟨elOr, fun _ => rfl, computes_elOr⟩, rfl⟩, ⟨⟨elXor, fun _ => rfl, computes_elXor⟩, rfl⟩,
    ⟨⟨elAndn, fun _ => rfl, computes_elAndn⟩, rfl⟩, ⟨⟨elShl, fun _ => rfl, computes_elShl⟩, rfl⟩,
    ⟨⟨elShr, fun _ => rfl, computes_elShr⟩, rfl⟩, ⟨⟨elSar, fun _ => rfl, computes_elSar⟩, rfl⟩,
    ⟨⟨elRotl, fun _ => rfl, computes_elRotl⟩, rfl⟩, ⟨⟨elBfeN, fun _ => rfl, computes_elBfeN⟩, rfl⟩,
    ⟨⟨elBfeS, fun _ => rfl, computes_elBfeS⟩, rfl⟩, ⟨⟨elBfi, fun _ => rfl, computes_elBfi⟩, rfl⟩,
    ⟨⟨elMadd, fun _ => rfl, computes_elMadd⟩, rfl⟩, by simp⟩

theorem mapsElements_bitCountTable (o : Op2W) : ∀ p ∈ bitCountTable o o.wid.size, MapsElements p.1 o.wid.size o.a o.d p.2 := by
  simp only [bitCountTable, List.forall_mem_cons]
  exact ⟨⟨⟨elPopc _, fun _ => rfl, fun x => congrArg _ (elPopc_toNat x)⟩, rfl⟩,
    ⟨⟨elClz _, fun _ => rfl, fun x => congrArg _ (elClz_toNat x)⟩, rfl⟩,
    ⟨⟨elCtz _, fun _ => rfl, fun x => congrArg _ (elCtz_toNat x)⟩, rfl⟩,
    ⟨⟨elBrev _, fun _ => rfl, ofNat_elBrev⟩, rfl⟩, by simp⟩

theorem mapsElements_shiftTable (o : OpSh) : ∀ p ∈ shiftTable o o.wid.size, MapsElements p.1 o.wid.size o.a o.d p.2 := by
  simp only [shiftTable, List.forall_mem_cons]
  exact ⟨⟨⟨fun a => elShl _ a o.cnt 0, fun _ => rfl, fun x => ofNat_elShl x o.cnt 0⟩, rfl⟩,
    ⟨⟨fun a => elShr _ a o.cnt 0, fun _ => rfl, fun x => ofNat_elShr x o.cnt 0⟩, rfl⟩,
    ⟨⟨fun a => elSar _ a o.cnt 0, fun _ => rfl, fun x => ofNat_elSar x o.cnt 0⟩, rfl⟩,
    ⟨⟨fun a => elRotl _ a o.cnt 0, fun _ => rfl, fun x => ofNat_elRotl x o.cnt 0⟩, rfl⟩, by simp⟩

theorem mapsWords_immediateTable (o : OpI) (l : OpL) : ∀ p ∈ immediateTable o l, MapsWords p.1 o.a l.d p.2.1 p.2.2 := by
  simp only [immediateTable, List.forall_mem_cons]
  exact ⟨⟨⟨fun a _ => a + immWord o.imm, fun _ => rfl, fun _ _ => rfl⟩, rfl⟩,
    ⟨⟨fun a _ => a &&& immWord o.imm, fun _ => rfl, fun _ _ => rfl⟩, rfl⟩,
    ⟨⟨fun _ _ => wordOf (l.imm.toNat * 2 ^ (16 * l.q.val)), fun _ => rfl, fun _ _ => wordOf_mul_two_pow _ _⟩, rfl⟩,
    ⟨⟨fun _ d => putQuarter d l.q.val l.imm, fun _ => rfl, fun _ d => putQuarter_eq d _ _⟩, rfl⟩, by simp⟩

/-- Settles O1: every row of Table 12-1 is a map over elements that the model computes as the table gives it. -/
theorem integerOperations : Obligations.IntegerOperations := by
  intro o s i f hrow hc
  exact (mapsElements3_integerTable o _ hrow).writes hc

theorem bitCounts : BitCounts := by
  intro o s i f hrow hc
  exact (mapsElements_bitCountTable o _ hrow).writes hc

theorem immediates : Immediates :=
  ⟨fun o l _ _ _ _ hrow hc => (mapsWords_immediateTable o l _ hrow).writes hc,
    fun o _ _ _ hrow hc => (mapsElements_shiftTable o _ hrow).writes hc⟩

end Sys2Proof.Machine
end

section
/-! PROOFS. `sel` (R285, R258): it writes D of every thread of the group, as an instruction does that writes one register in a group
without a guard; only the value depends on the guard. -/

namespace Sys2Proof.Machine

open Claims

/-- The state in which the group being carried has no guard. -/
def State.unguarded (s : State) : State := { s with grp := { s.grp with guard := none } }

theorem active_unguarded (s : State) : s.unguarded.active = s.grp.threads := List.filter_eq_self.2 fun _ _ => rfl

theorem sameDevice_ofGroup (s : State) (g : Group) : SameDevice s { s with grp := g } :=
  ⟨⟨rfl, rfl, rfl, rfl, rfl, rfl, rfl, rfl, rfl, rfl, rfl, rfl, rfl, rfl, rfl, rfl, rfl⟩, fun _ => rfl⟩

theorem carries_unguarded {s : State} {o : Op3X} (hc : Carries s (.sel o)) : Carries s.unguarded (.sel o) :=
  ⟨hc.lanes, hc.ready, hc.ganged, hc.legal⟩

theorem poisonNow_sel (o : Op3X) (act : Bool) : poisonNow (.sel o) act = poisonNow (.sel o) true := by
  cases act <;> rfl

theorem clausePoison_sel (g : Group) (o : Op3X) (act : Bool) (old : Option Clause) :
    clausePoison g (.sel o) act old = clausePoison g (.sel o) true old := by
  cases act <;> rfl

theorem clauseAfter_sel (g : Group) (o : Op3X) (act : Bool) (old : Option Clause) :
    clauseAfter g (.sel o) act old = clauseAfter g (.sel o) true old := by
  cases act <;> rfl

theorem poisonedBy_unguarded (s : State) (o : Op3X) (th : Nat) : poisonedBy s.unguarded (.sel o) th = poisonedBy s (.sel o) th := by
  unfold poisonedBy
  rw [poisonNow_sel o (s.guardOf th), clausePoison_sel s.grp o (s.guardOf th)]
  rfl

theorem ReadsOwn.guardOf : ReadsOwn fun s t => s.guardOf t := by
  intro s s' t h hg
  simp only [State.guardOf, h.grp, ReadsOwn.pr _ s s' t h hg]

theorem ReadsOwn.selected (o : Op3X) : ReadsOwn (Claims.selected o) :=
  ReadsOwn.guardOf.comp3 (ReadsOwn.gr o.a) (ReadsOwn.gr o.b) fun g a b => if g then a else b

theorem selected_startIssue (i : Instr) (o : Op3X) (s : State) : Claims.selected o (startIssue i s) = Claims.selected o s := by
  funext th
  simp only [Claims.selected, guardOf_startIssue, gr_startIssue]

/-- The record of a thread for which `sel` has written D. -/
def selectInto (o : Op3X) (s : State) (th : Nat) (x : Thread) : Thread := { x with g := vset x.g o.d.val (Claims.selected o s th) }

theorem ReadsOwn.selectInto (o : Op3X) : ReadsOwn (selectInto o) :=
  (ReadsOwn.selected o).comp fun w (x : Thread) => ({ x with g := vset x.g o.d.val w } : Thread)

theorem selectInto_startIssue (i : Instr) (o : Op3X) (s : State) : selectInto o (startIssue i s) = selectInto o s := by
  unfold selectInto
  rw [selected_startIssue]

/-- `sel` ends after every thread of the group has written its D, with or without a true guard. -/
theorem exec_sel {o : Op3X} {s : State} (hc : Carries s (.sel o)) :
    exec (.sel o) s = .next (finish (.sel o) (startIssue (.sel o) s)
      ⟨s.grp.threads.foldl (fun st t => st.modThread t (selectInto o st t)) (startIssue (.sel o) s), [], []⟩ fun _ _ => .next) := by
  have hall : (s.grp.threads.filter fun t => !encodingBad (startIssue (.sel o) s) (.sel o) t) = s.grp.threads :=
    List.filter_eq_self.2 fun t ht => by simp [encodingBad_startIssue, hc.legal t ht]
  change Host.Outcome.next (issueTo _ _ _ s) = _
  rw [issueTo_legal hc, startIssue_grp, hall, runThreads_done]
  rfl

/-- `sel` changes the threads of the group as an instruction without a guard does that writes D (R258, R285). -/
theorem exec_sel_changes {o : Op3X} {s : State} (hc : Carries s (.sel o)) :
    ∃ t, exec (.sel o) s = .next t ∧ Changed s.unguarded (.sel o) (selectInto o s) t := by
  refine ⟨_, exec_sel hc, ?_⟩
  obtain ⟨honly, hget⟩ := foldl_modThread (ReadsOwn.selectInto o) (distinct_of_carries hc) (startIssue (.sel o) s)
  generalize s.grp.threads.foldl _ (startIssue (.sel o) s) = r at *
  rw [selectInto_startIssue] at hget
  refine ⟨?_, fun th (hth : th ∈ s.grp.threads) x (hx : s.threads.get? th = some x) => ?_,
    fun th (hth : th ∉ s.grp.threads) => ?_, ?_⟩
  · rw [finish_clean _ _ _ _ rfl rfl]; rfl
  · have hactive : th ∈ s.unguarded.active := by rwa [active_unguarded]
    have hs := State.thread_of_get? hx
    obtain ⟨y, hy, hready⟩ := hc.ready th hth
    obtain rfl : y = x := Option.some.inj (hy.symm.trans hx)
    have hr := hget th
    rw [if_pos hth, get?_startIssue, hx, Option.map_some, if_pos hth, Option.map_some] at hr
    rw [finish_carried (s0 := startIssue (.sel o) s) hr hth (by rw [entered_startIssue, hs]; rfl), finishThread_next (by exact hready),
      poisonedBy_unguarded, poisonedBy]
    simp only [if_pos hactive, startIssue_grp, guardOf_startIssue, nowOf_startIssue, clause_startIssue, hs,
      clauseAfter_sel s.grp o (s.guardOf th)]
    rfl
  · rw [finish_others (s0 := startIssue (.sel o) s) hth, hget th, if_neg hth, get?_startIssue]
    simp only [if_neg hth, Option.map_id']
    rfl
  · have hstart : SameDevice s.unguarded (startIssue (.sel o) s) :=
      sameDevice_trans (sameDevice_ofGroup s.unguarded s.grp) (sameDevice_ofStart _ s)
    exact sameDevice_trans hstart (sameDevice_trans (sameDevice_ofOnly honly) (finish_device _ _ r _))

theorem goesOn_ofUnguarded {o : Op3X} {s t : State} (h : GoesOn s.unguarded (.sel o) t) : GoesOn s (.sel o) t :=
  ⟨h.group, h.ready, h.pc, fun th hth => by rw [h.clause th hth, clauseAfter_sel s.grp o (s.guardOf th)]; rfl⟩

theorem regFrame_ofUnguarded {o : Op3X} {s t : State} {l : List Nat}
    (h : RegFrame s.unguarded (.sel o) (fun th => if th ∈ s.unguarded.active then l else []) t) : RegFrame s (.sel o) (fun _ => l) t :=
  ⟨fun th hth r hr hp => h.held th hth r (by rwa [active_unguarded, if_pos hth]) (by rwa [poisonedBy_unguarded]),
    fun th hth r hr => h.poisoned th hth r (by rwa [poisonedBy_unguarded]), h.others⟩

theorem selectWritesEveryThread : SelectWritesEveryThread := by
  intro o s hc
  obtain ⟨t, hrun, hchanged⟩ := exec_sel_changes hc
  obtain ⟨hgoes, hvalue, hregs, hpreds, hthreads, hdevice⟩ :=
    writesReg_of_changed (v := Claims.selected o s) (carries_unguarded hc) rfl hchanged
  rw [active_unguarded] at hvalue
  exact ⟨t, hrun, goesOn_ofUnguarded hgoes, regFrame_ofUnguarded hregs, hvalue, hpreds, hthreads,
    sameDevice_trans (sameDevice_ofGroup s _) hdevice⟩

/-- Settles O2: the bit counts and the immediate forms write D by their tables, and `sel` writes it in every thread of the group. -/
theorem bitCountsImmediatesAndSelect : Obligations.BitCountsImmediatesAndSelect :=
  ⟨bitCounts, immediates, selectWritesEveryThread⟩

end Sys2Proof.Machine
end

section
/-! PROOFS. The trap queue, delivery to a handler, and asynchronous causes (R426, R427, R430, R449): what raising leaves in the queue,
which threads an entry names, and what a delivery leaves in the gang and in the threads that it names. -/

namespace Sys2Proof.Machine

open Claims

/-! ### Lists of threads -/

theorem mem_insertBy {α : Type} {lt : α → α → Bool} {x y : α} {l : List α} : y ∈ insertBy lt x l ↔ y = x ∨ y ∈ l := by
  induction l with
  | nil => simp [insertBy]
  | cons z l ih =>
    rw [insertBy]
    split
    · simp
    · simp [ih, or_left_comm]

theorem mem_sortBy {α : Type} {lt : α → α → Bool} {y : α} {l : List α} : y ∈ sortBy lt l ↔ y ∈ l := by
  have hfold : ∀ acc, y ∈ l.foldl (fun acc x => insertBy lt x acc) acc ↔ y ∈ l ∨ y ∈ acc := by
    induction l with
    | nil => simp
    | cons x l ih => intro acc; rw [List.foldl_cons, ih, mem_insertBy, List.mem_cons, or_left_comm, or_assoc]
  simp [sortBy, hfold]

/-- A list whose only member is a, without its repeats. -/
theorem dedup_eq_singleton {α : Type} [BEq α] [LawfulBEq α] {a : α} {l : List α} (h : ∀ y, y ∈ l ↔ y = a) : dedup l = [a] := by
  cases l with
  | nil => exact absurd ((h a).2 rfl) (by simp)
  | cons b l =>
    obtain rfl : b = a := (h b).1 List.mem_cons_self
    have hrest : (dedup l).filter (fun y => y != b) = [] :=
      List.filter_eq_nil_iff.2 fun y hy => by simp [(h y).1 (List.mem_cons_of_mem _ ((mem_dedup y l).1 hy))]
    rw [dedup, hrest]

theorem mem_bitList {m n p : Nat} : p ∈ bitList m n ↔ p < n ∧ bit m p = true := by
  simp [bitList]

/-! ### The threads that an entry names -/

/-- A mask names the threads `who` of gang g, each at its own position. -/
structure Names (s : State) (g mask : Nat) (who : List Nat) : Prop where
  placed : ∀ th ∈ who, InPlace s g th
  within : ∀ p < (s.gang g).width, bit mask p = who.any fun th => (s.thread th).pos == p
  beyond : ∀ p, (s.gang g).width ≤ p → bit mask p = false

section Naming
variable {s : State} {g mask : Nat} {who : List Nat} (hn : Names s g mask who)
include hn

theorem Names.bit_eq (p : Nat) : bit mask p = who.any fun th => (s.thread th).pos == p := by
  by_cases hp : p < (s.gang g).width
  · exact hn.within p hp
  · rw [hn.beyond p (Nat.not_lt.1 hp), eq_comm, List.any_eq_false]
    intro th hth
    have hpos := (hn.placed th hth).pos
    rw [beq_iff_eq]
    omega

/-- The thread at a named position is the one of `who` whose position it is. -/
theorem Names.at_iff {p th : Nat} (hp : p ∈ bitList mask (s.gang g).width) :
    nth (s.gang g).at_ p none = some th ↔ th ∈ who ∧ (s.thread th).pos = p := by
  obtain ⟨u, hu, rfl⟩ : ∃ u ∈ who, (s.thread u).pos = p := by simpa [hn.bit_eq] using (mem_bitList.1 hp).2
  have hplace := (hn.placed u hu).place
  constructor
  · intro h
    obtain rfl : u = th := Option.some.inj (hplace.symm.trans h)
    exact ⟨hu, rfl⟩
  · rintro ⟨hth, hpos⟩
    rw [← hpos]
    exact (hn.placed th hth).place

theorem Names.mem_namedThreads (th : Nat) : th ∈ namedThreads (s.gang g) mask ↔ th ∈ who := by
  rw [namedThreads, List.mem_filterMap]
  constructor
  · rintro ⟨p, hp, hat⟩
    exact ((hn.at_iff hp).1 hat).1
  · intro hth
    have hplaced := hn.placed th hth
    exact ⟨_, mem_bitList.2 ⟨hplaced.pos, by rw [hn.bit_eq, List.any_eq_true]; exact ⟨th, hth, beq_self_eq_true _⟩⟩, hplaced.place⟩

theorem Names.nodup_namedThreads : (namedThreads (s.gang g) mask).Nodup := by
  refine List.pairwise_filterMap.2 ((List.nodup_range.filter _).imp_of_mem fun {p q} hp hq hne th hth u hu => ?_)
  rintro rfl
  exact hne (((hn.at_iff hp).1 hth).2.symm.trans ((hn.at_iff hq).1 hu).2)

end Naming

/-! ### Entering the queue (R426) -/

theorem rollbackThread_performed {s : State} (h : s.accs = []) (g t : Nat) : rollbackThread s g t = s := by
  simp [rollbackThread, oldestAcc, State.accsOf, h, leastBy]

theorem foldl_rollbackThread_performed {s : State} (h : s.accs = []) (g : Nat) (ths : List Nat) :
    ths.foldl (fun st t => rollbackThread st g t) s = s := by
  induction ths with
  | nil => rfl
  | cons t ths ih => rw [List.foldl_cons, rollbackThread_performed h, ih]

theorem any_hasLogged_of_undo {G : Gang} (h : G.undo = []) (ths : List Nat) : ths.any (hasLogged G) = false := by
  simp [hasLogged, h]

theorem raisedReady_performed {s : State} (h : s.accs = []) (g : Nat) : raisedReady s g = fun _ => true := by
  funext r
  rw [raisedReady, h]
  rfl

theorem takeWhile_true {α : Type} (l : List α) : l.takeWhile (fun _ => true) = l := by
  induction l with
  | nil => rfl
  | cons x l ih => rw [List.takeWhile_cons, if_pos rfl, ih]

theorem dropWhile_true {α : Type} (l : List α) : l.dropWhile (fun _ => true) = [] := by
  induction l with
  | nil => rfl
  | cons x l ih => rw [List.dropWhile_cons, if_pos rfl, ih]

/-- With no access unperformed every raised entry enters; with none raised nothing changes. -/
theorem queueRaised_performed {s : State} {g : Nat} (ha : s.accs = []) (hu : (s.gang g).undo = []) :
    queueRaised s g = if (s.gang g).raised = [] then s else
      s.modGang g fun x => { x with queue := x.queue ++ (s.gang g).raised.map (·.entry), raised := [] } := by
  simp [queueRaised, raisedReady_performed ha, takeWhile_true, dropWhile_true, any_hasLogged_of_undo hu, foldl_rollbackThread_performed ha]

theorem raisedEntriesEnterTheQueue (s : State) (g : Nat) (G : Gang) (hG : s.gangs.get? g = some G) (ha : s.accs = []) (hu : G.undo = []) :
    (queueRaised s g).gang g = { G with queue := G.queue ++ G.raised.map (·.entry), raised := [] } ∧
      (queueRaised s g).threads = s.threads ∧ (queueRaised s g).mem = s.mem := by
  obtain rfl := State.gang_of_get? hG
  rw [queueRaised_performed ha hu]
  split
  · next hnone => exact ⟨by rw [hnone, List.map_nil, List.append_nil, ← hnone], rfl, rfl⟩
  · exact ⟨State.gang_modGang_self hG _, State.modGang_threads .., State.modGang_mem ..⟩

/-! ### Delivery to a handler (R430) -/

theorem saveAndSet_w (G : Gang) (e : Entry) (sup : Bool) : (saveAndSet G e sup).w =
    vset (vset (vset (vset G.w 28 (resumeWord e)) 29 (wordOf e.mask)) 30 (statusWord e sup)) 31 e.info := by
  cases sup <;> rfl

theorem saveAndSet_frame (G : Gang) (e : Entry) (sup : Bool) {k : Nat} (h : k < 4) :
    vget (if sup then (saveAndSet G e sup).frameS else (saveAndSet G e sup).frameK) k 0 = vget G.w (28 + k) 0 := by
  cases sup <;> simp [saveAndSet, vget, h]

theorem saveAndSet_resume (G : Gang) (e : Entry) (sup : Bool) : vget (saveAndSet G e sup).w 28 0 = resumeWord e := by
  simp [saveAndSet_w, vget_vset_ne]

theorem saveAndSet_mask (G : Gang) (e : Entry) (sup : Bool) : vget (saveAndSet G e sup).w 29 0 = wordOf e.mask := by
  simp [saveAndSet_w, vget_vset_ne]

theorem saveAndSet_status (G : Gang) (e : Entry) (sup : Bool) : vget (saveAndSet G e sup).w 30 0 = statusWord e sup := by
  simp [saveAndSet_w, vget_vset_ne]

theorem saveAndSet_info (G : Gang) (e : Entry) (sup : Bool) : vget (saveAndSet G e sup).w 31 0 = e.info := by
  simp [saveAndSet_w]

theorem saveAndSet_uniform (G : Gang) (e : Entry) (sup : Bool) {n : Nat} (h : n < 28) :
    vget (saveAndSet G e sup).w n 0 = vget G.w n 0 := by
  rw [saveAndSet_w]
  iterate 4 rw [vget_vset_ne _ _ (by omega)]

theorem saveAndSet_queue (G : Gang) (e : Entry) (sup : Bool) : (saveAndSet G e sup).queue = G.queue := by
  cases sup <;> rfl

theorem saveAndSet_nestq (G : Gang) (e : Entry) (sup : Bool) : (saveAndSet G e sup).nestq = G.nestq := by
  cases sup <;> rfl

theorem ReadsOwn.nowOf : ReadsOwn fun s t => s.nowOf t := by
  intro s s' t h hg
  have hcore : s'.coreOf t = s.coreOf t := by simp only [State.coreOf, State.gangOf, State.gang, State.thread, Tab.getD, hg, h.gangs]
  change s'.nowOf t = s.nowOf t
  rw [State.nowOf, State.nowOf, hcore, State.nowAt, State.nowAt, h.clk]

/-- Each named thread has entered the handler, and no other has changed; of the gang the frame, w28 to w31 and the delivery have. -/
theorem deliverTo_spec {s : State} {g : Nat} {G : Gang} (hG : s.gangs.get? g = some G) {ths : List Nat} (hn : ths.Nodup) (e : Entry)
    (sup : Bool) (h : Nat) :
    (deliverTo s g e ths sup false h).gang g = { saveAndSet G e sup with delivery := some ⟨sup, ths, ths⟩ } ∧
    (∀ th ∈ ths, s.threads.get? th ≠ none →
      ∃ now, (deliverTo s g e ths sup false h).thread th = enterHandler (s.thread th) sup h now) ∧
    ∀ th, th ∉ ths → (deliverTo s g e ths sup false h).thread th = s.thread th := by
  have hread : ReadsOwn fun s t x => enterHandler x sup h (s.nowOf t) := ReadsOwn.nowOf.comp fun now x => enterHandler x sup h now
  obtain ⟨honly, hget⟩ := foldl_modThread hread hn
    (s.modGang g fun g => { saveAndSet g e sup with delivery := some ⟨sup, ths, ths⟩ })
  refine ⟨?_, fun th hth hlisted => ?_, fun th hth => ?_⟩
  · simp only [deliverTo, Bool.false_eq_true, if_false, State.gang, honly.gangs]
    exact State.gang_modGang_self hG _
  · obtain ⟨x, hx⟩ := Option.ne_none_iff_exists'.1 hlisted
    rw [State.thread_of_get? hx]
    exact ⟨_, State.thread_of_get? ((hget th).trans (by rw [if_pos hth, State.modGang_threads, hx, Option.map_some]))⟩
  · exact thread_eq_of_get? ((hget th).trans (by rw [if_neg hth, State.modGang_threads]))

/-- What a delivery of an entry that names the threads `who` is: each of them sent into the handler, and the gang's frame, w28 to w31
and delivery. -/
theorem entersHandler_ofDelivered {s t : State} {g : Nat} {G : Gang} {e : Entry} {who ths : List Nat} {sup : Bool} {h : Nat}
    (hn : Names s g e.mask who) (hw : G.w = (s.gang g).w)
    (hgang : t.gang g = { saveAndSet G e sup with delivery := some ⟨sup, ths, ths⟩ }) (hths : ∀ th, th ∈ ths ↔ th ∈ who)
    (hentered : ∀ th ∈ who, ∃ now, t.thread th = enterHandler (s.thread th) sup h now) :
    EntersHandler s g who e.cause e.info e.pc e.after sup h t := by
  constructor
  case at_ => intro th hth; obtain ⟨now, hnow⟩ := hentered th hth; rw [hnow]; exact ⟨rfl, rfl, rfl⟩
  case level => intro th hth; obtain ⟨now, hnow⟩ := hentered th hth; rw [hnow]; rfl
  case kept => intro th hth; obtain ⟨now, hnow⟩ := hentered th hth; rw [hnow]; exact ⟨rfl, rfl, rfl⟩
  case resume => rw [hgang]; exact saveAndSet_resume G e sup
  case mask =>
    intro p hp
    rw [hgang, ← hn.bit_eq p, bit_eq_testBit]
    dsimp only
    rw [saveAndSet_mask, wordOf, BitVec.getLsbD_ofNat, decide_eq_true hp, Bool.true_and]
  case status => rw [hgang]; dsimp only; rw [saveAndSet_status, statusWord, b2n]; cases sup <;> rfl
  case info => rw [hgang]; exact saveAndSet_info G e sup
  case uniform => intro n hlt; rw [hgang, ← hw]; exact saveAndSet_uniform G e sup hlt
  case frame => intro k hk; rw [hgang, ← hw]; exact saveAndSet_frame G e sup hk
  case delivery => rw [hgang]; exact ⟨_, rfl, hths⟩

/-! ### The head of the queue (R427, R428) -/

/-- The handler that a cause of gang G is delivered to: the kernel's, or the supervisor's for a cause of that level. -/
def HandlerOf (s : State) (G : Gang) (cause h : Nat) : Prop :=
  if causeIsSup cause then SupHandlerAt s (s.grid (s.team G.team).grid).ctx h else KernelHandlerAt s G.team h

theorem sameForHandlers_modGang (s : State) (g : Nat) (f : Gang → Gang) : SameForHandlers s (s.modGang g f) := by
  constructor <;> simp

/-- Where no handler runs in a resident gang, the head entry leaves the queue and goes to its handler; finding that changes memory at
most. -/
theorem deliverNext_head {s : State} {g : Nat} {G : Gang} {e : Entry} {rest : List Entry} {h : Nat} (hG : s.gangs.get? g = some G)
    (hq : G.queue = e :: rest) (hd : G.delivery = none) (hres : (s.team G.team).res = .resident) (hh : HandlerOf s G e.cause h) :
    ∃ m, deliverNext s g = deliverTo ((s.modGang g fun x => { x with queue := rest }).setMem m) g e (namedThreads G e.mask)
      (causeIsSup e.cause) false h := by
  have hsame := sameForHandlers_modGang s g fun x => { x with queue := rest }
  unfold HandlerOf at hh
  unfold deliverNext
  rw [State.gang_of_get? hG]
  by_cases hsup : causeIsSup e.cause = true
  · rw [if_pos hsup] at hh
    obtain ⟨hne, hentry⟩ := hh
    obtain ⟨m, hm⟩ := hentry _ hsame
    exact ⟨m, by simp [hres, hd, hq, hsup, hm, hne]⟩
  · rw [if_neg hsup] at hh
    obtain ⟨m, hm⟩ := hh _ hsame
    exact ⟨m, by simp [hres, hd, hq, hsup, hm]⟩

theorem deliverNested_of_nestq {s : State} {g : Nat} (h : (s.gang g).nestq = []) : deliverNested s g = s := by
  unfold deliverNested
  dsimp only
  rw [h]
  cases (s.gang g).nested <;> exact ite_self _

/-- The head entry is delivered: the threads that it names have entered the handler and hold what asynchronous causes they held; the
others are the same. -/
theorem headEntryIsDelivered {s : State} {g : Nat} {G : Gang} {e : Entry} {rest : List Entry} {h : Nat} {who : List Nat}
    (hG : s.gangs.get? g = some G) (hq : G.queue = e :: rest) (hd : G.delivery = none) (hnest : G.nestq = [])
    (hres : (s.team G.team).res = .resident) (hh : HandlerOf s G e.cause h) (hn : Names s g e.mask who) :
    let t := deliverNested (deliverNext s g) g
    EntersHandler s g who e.cause e.info e.pc e.after (causeIsSup e.cause) h t ∧ (t.gang g).queue = rest ∧
      (∀ th ∈ who, (t.thread th).held = (s.thread th).held) ∧ ∀ th, th ∉ who → t.thread th = s.thread th := by
  obtain ⟨m, hm⟩ := deliverNext_head hG hq hd hres hh
  obtain rfl := State.gang_of_get? hG
  have hU : ((s.modGang g fun x => { x with queue := rest }).setMem m).gangs.get? g = some { s.gang g with queue := rest } := by
    rw [State.setMem_gangs, State.get?_modGang, if_pos rfl, hG, Option.map_some]
  have hthreads : ((s.modGang g fun x => { x with queue := rest }).setMem m).threads = s.threads := by
    rw [State.setMem_threads, State.modGang_threads]
  have hsame : ∀ th, ((s.modGang g fun x => { x with queue := rest }).setMem m).thread th = s.thread th :=
    fun th => thread_eq_of_get? (by rw [hthreads])
  obtain ⟨hgang, hdelivered, hothers⟩ := deliverTo_spec hU hn.nodup_namedThreads e (causeIsSup e.cause) h
  have hentered : ∀ th ∈ who, ∃ now, (deliverNext s g).thread th = enterHandler (s.thread th) (causeIsSup e.cause) h now := by
    intro th hth
    rw [hm, ← hsame th]
    exact hdelivered th ((hn.mem_namedThreads th).2 hth) (by rw [hthreads]; exact (hn.placed th hth).listed)
  rw [← hm] at hgang hothers
  simp only [deliverNested_of_nestq (by rw [hgang]; exact (saveAndSet_nestq ..).trans hnest : ((deliverNext s g).gang g).nestq = [])]
  refine ⟨entersHandler_ofDelivered (G := { s.gang g with queue := rest }) hn rfl hgang hn.mem_namedThreads hentered, ?_, fun th hth => ?_, fun th hth => ?_⟩
  · rw [hgang]
    exact saveAndSet_queue ..
  · obtain ⟨now, hnow⟩ := hentered th hth
    rw [hnow]
    rfl
  · rw [hothers th (mt (hn.mem_namedThreads th).1 hth), hsame]

theorem trapQueue : TrapQueue := by
  refine ⟨fun s g G hG ha hu => ⟨_, rfl, raisedEntriesEnterTheQueue s g G hG ha hu⟩,
    fun s g G e rest h who hG hq hd _ hnest hres hplaced _ hwithin hbeyond hh => ⟨_, rfl, ?_⟩⟩
  have hs := State.gang_of_get? hG
  obtain ⟨henters, hqueue, -, hothers⟩ :=
    headEntryIsDelivered hG hq hd hnest hres hh ⟨hplaced, by rwa [hs], by rwa [hs]⟩
  exact ⟨henters, hqueue, hothers⟩

/-! ### Asynchronous causes (R449) -/

/-- What a delivery leaves is the same, seen from a state whose threads differ at most in where they run and what causes they hold. -/
theorem entersHandler_ofSame {s u t : State} {g : Nat} {who : List Nat} {cause pc after h : Nat} {info : Word} {sup : Bool}
    (hw : (u.gang g).w = (s.gang g).w) (hthread : ∀ th, ∃ run held, u.thread th = { s.thread th with run := run, held := held })
    (henters : EntersHandler u g who cause info pc after sup h t) : EntersHandler s g who cause info pc after sup h t := by
  have hsame {α : Type} (k : Thread → α) (hk : ∀ x run held, k { x with run := run, held := held } = k x) (th : Nat) :
      k (u.thread th) = k (s.thread th) := by
    obtain ⟨run, held, hu⟩ := hthread th
    rw [hu, hk]
  have hpos := hsame (·.pos) fun _ _ _ => rfl
  have hclause := hsame (·.clause) fun _ _ _ => rfl
  have hentered := hsame (·.entered) fun _ _ _ => rfl
  have hregs := hsame (fun x => (x.g, x.p, x.f)) fun _ _ _ => rfl
  simp only [Prod.mk.injEq] at hregs
  obtain ⟨hat, hlevel, hkept, hresume, hmask, hstatus, hinfo, huniform, hframe, hdelivery⟩ := henters
  simp only [hpos, hclause, hentered, hregs, hw] at hlevel hkept hmask huniform hframe
  exact ⟨hat, hlevel, hkept, hresume, hmask, hstatus, hinfo, huniform, hframe, hdelivery⟩

theorem mem_threadsOf {G : Gang} {p th : Nat} (h : nth G.at_ p none = some th) : th ∈ threadsOf G := by
  refine List.mem_filterMap.2 ⟨some th, ?_, rfl⟩
  unfold nth at h
  cases hp : G.at_[p]? with
  | none => rw [hp] at h; cases h
  | some o =>
    rw [hp, Option.getD_some] at h
    exact h ▸ List.mem_of_getElem? hp

theorem decFlags_nil (s : State) : decFlags s [] = s := by
  simp [decFlags]

/-- A failure that concerns one thread makes one entry: at the thread's address, with its position as the mask. -/
theorem asyncEntries_singleton (s : State) (a : HeldAsync) {ths : List Nat} {th : Nat} (hths : ∀ u, u ∈ ths ↔ u = th) :
    ∃ mask more, asyncEntries s a ths = [⟨a.info, mask, (s.thread th).pc, more, a.cause, (s.thread th).pc⟩] ∧
      ∀ p, bit mask p = ((s.thread th).pos == p) := by
  have hpcs : dedup ((sortBy (fun a b => decide ((s.thread a).pos < (s.thread b).pos)) ths).map fun t => (s.thread t).pc) =
      [(s.thread th).pc] := dedup_eq_singleton fun pc => by simp [mem_sortBy, hths, eq_comm]
  refine ⟨_, _, by rw [asyncEntries, hpcs, List.map_singleton], fun p => ?_⟩
  rw [bit_eq_testBit, testBit_maskOf, Bool.eq_iff_iff, decide_eq_true_iff, beq_iff_eq]
  simp only [List.mem_map, List.mem_filter, hths, beq_iff_eq]
  constructor
  · rintro ⟨u, ⟨rfl, -⟩, hpos⟩
    exact hpos
  · exact fun hpos => ⟨th, ⟨rfl, rfl⟩, hpos⟩

/-- The state in which the threads `ths` are Blocked, named by the entries `es` of a failure in gang g. -/
def State.named (s : State) (g fail : Nat) (ths : List Nat) (es : List Entry) : State :=
  (s.mapThreads ths fun _ x => { x with run := .blocked .trap, held := x.held.filter fun y => y.fail != fail }).modGang g fun x =>
    { x with queue := x.queue ++ es }

/-- With no access unperformed, and no place to go back to nor counts to take, a failure names its threads as they stand. -/
theorem nameAsync_performed {s : State} {g : Nat} {a : HeldAsync} {ths : List Nat} (ha : s.accs = []) (hu : (s.gang g).undo = [])
    (hback : a.back = none) (hdecs : (ths.flatMap fun t => ((heldFor s t a.fail).map (·.decs)).getD []) = []) :
    nameAsync s g a ths = s.named g a.fail ths (asyncEntries s a ths) := by
  simp only [nameAsync, any_hasLogged_of_undo hu, Bool.false_eq_true, if_false, foldl_rollbackThread_performed ha, hback, hdecs,
    decFlags_nil]
  rfl

theorem get?_gang_named {s : State} {g : Nat} {G : Gang} (hG : s.gangs.get? g = some G) (fail : Nat) (ths : List Nat) (es : List Entry) :
    (s.named g fail ths es).gangs.get? g = some { G with queue := G.queue ++ es } := by
  rw [State.named, State.get?_modGang, if_pos rfl]
  exact congrArg (Option.map _) hG

theorem get?_thread_named (s : State) (g fail : Nat) (ths : List Nat) (es : List Entry) (th : Nat) :
    (s.named g fail ths es).threads.get? th = (s.threads.get? th).map fun x =>
      if th ∈ ths then { x with run := .blocked .trap, held := x.held.filter fun y => y.fail != fail } else x := by
  rw [State.named, State.modGang_threads, State.get?_mapThreads]

/-- Of a thread, naming changes where it runs and what causes it holds. -/
theorem thread_named (s : State) (g fail : Nat) (ths : List Nat) (es : List Entry) (th : Nat) :
    ∃ run held, (s.named g fail ths es).thread th = { s.thread th with run := run, held := held } := by
  have hget := get?_thread_named s g fail ths es th
  simp only [State.thread, Tab.getD, hget]
  cases s.threads.get? th with
  | none => exact ⟨_, _, rfl⟩
  | some x =>
    simp only [Option.map_some, Option.getD_some]
    split
    · exact ⟨_, _, rfl⟩
    · exact ⟨_, _, rfl⟩

theorem thread_named_notMem (s : State) (g fail : Nat) {ths : List Nat} (es : List Entry) {th : Nat} (h : th ∉ ths) :
    (s.named g fail ths es).thread th = s.thread th :=
  thread_eq_of_get? (by rw [get?_thread_named]; cases s.threads.get? th <;> simp [h])

theorem inPlace_named {s : State} {g th : Nat} {G : Gang} (hG : s.gangs.get? g = some G) (hplace : InPlace s g th) (fail : Nat) (ths : List Nat)
    (es : List Entry) : InPlace (s.named g fail ths es) g th := by
  obtain ⟨run, held, hthread⟩ := thread_named s g fail ths es th
  have hgang := State.gang_of_get? (get?_gang_named hG fail ths es)
  obtain rfl := State.gang_of_get? hG
  refine ⟨by rw [hthread]; exact hplace.gang, by rw [hthread]; exact hplace.user, ?_, by rw [hthread, hgang]; exact hplace.place,
    by rw [hthread, hgang]; exact hplace.pos⟩
  rw [get?_thread_named, Ne, Option.map_eq_none_iff]
  exact hplace.listed

theorem sameForHandlers_named (s : State) (g fail : Nat) (ths : List Nat) (es : List Entry) :
    SameForHandlers s (s.named g fail ths es) := by
  constructor <;> simp [State.named, State.mapThreads]

theorem kernelHandlerAt_ofSame {s u : State} {tm h : Nat} (hs : SameForHandlers s u) (hh : KernelHandlerAt s tm h) : KernelHandlerAt u tm h :=
  fun v hv => hh v ⟨hv.mem.trans hs.mem, hv.clk.trans hs.clk, hv.clusters.trans hs.clusters, hv.cores.trans hs.cores,
    hv.teams.trans hs.teams, hv.grids.trans hs.grids, hv.ctxs.trans hs.ctxs, hv.mgmt.trans hs.mgmt, hv.choices.trans hs.choices⟩

section Named
variable {s : State} {g : Nat} {G : Gang} {th : Nat} {x : Thread} (hx : s.threads.get? th = some x) (hrest : AtRest s g G)
  (hplace : InPlace s g th) (hready : x.run = .ready)
include hx hrest hplace hready

/-- A Ready thread outside handlers and groups, in a gang at rest, can be named for what it holds. -/
theorem mayName_ready (hheld : x.held ≠ []) (hgrp : th ∉ s.grp.threads) (hgrp2 : s.grp2 = none) : mayName s th = true := by
  obtain rfl := State.thread_of_get? hx
  have hgang : s.gangOf th = G := by rw [State.gangOf, hplace.gang, State.gang_of_get? hrest.listed]
  simp [mayName, isNamed, atBoundary, hheld, hready, hplace.user, hgang, hrest.delivery, hgrp, hgrp2]

/-- The only thread of its gang that holds a cause is named alone. -/
theorem execAsyncTrapEntry_alone {a : HeldAsync} (hheld : x.held = [a]) (hgrp : th ∉ s.grp.threads) (hgrp2 : s.grp2 = none)
    (hothers : ∀ u ∈ threadsOf G, u ≠ th → (s.thread u).held = []) :
    ∃ ths, (∀ u, u ∈ ths ↔ u = th) ∧ execAsyncTrapEntry th s = .next (settleTraps (nameAsync s g a ths) g) := by
  have hmay := mayName_ready hx hrest hplace hready (by simp [hheld]) hgrp hgrp2
  obtain rfl := State.thread_of_get? hx
  obtain rfl := State.gang_of_get? hrest.listed
  have hmgmt : s.isMgmt th = false := by simp [State.isMgmt, State.coreOf, State.gangOf, hplace.gang, hrest.core]
  refine ⟨(threadsOf (s.gang g)).filter fun u => mayName s u && (heldFor s u a.fail).isSome, fun u => ?_, ?_⟩
  · rw [List.mem_filter]
    constructor
    · rintro ⟨hu, hnamed⟩
      refine Decidable.byContradiction fun hne => ?_
      simp [mayName, hothers u hu hne] at hnamed
    · rintro rfl
      exact ⟨mem_threadsOf hplace.place, by simp [hmay, heldFor, hheld]⟩
  · simp [execAsyncTrapEntry, hheld, hready, hmgmt, hmay, hplace.gang]

end Named

/-- A thread named alone in a gang at rest enters its kernel's handler, and the other threads are the same. -/
theorem settleTraps_named {s : State} {g fail th h : Nat} {G : Gang} {e : Entry} {ths : List Nat} (hrest : AtRest s g G)
    (hplace : InPlace s g th) (hths : ∀ u, u ∈ ths ↔ u = th) (hmask : ∀ p, bit e.mask p = ((s.thread th).pos == p))
    (hsup : causeIsSup e.cause = false) (hh : KernelHandlerAt s G.team h) :
    let t := settleTraps (s.named g fail ths [e]) g
    EntersHandler s g [th] e.cause e.info e.pc e.after false h t ∧ (t.thread th).held = ((s.named g fail ths [e]).thread th).held ∧
      ∀ u, u ≠ th → t.thread u = s.thread u := by
  have hsame := sameForHandlers_named s g fail ths [e]
  have haccs : (s.named g fail ths [e]).accs = [] := (State.modGang_accs ..).trans hrest.accs
  have hget := get?_gang_named hrest.listed fail ths [e]
  have hthread := thread_named s g fail ths [e]
  have hothers : ∀ u, u ≠ th → (s.named g fail ths [e]).thread u = s.thread u :=
    fun u hu => thread_named_notMem s g fail [e] (mt (hths u).1 hu)
  have hplaced := inPlace_named hrest.listed hplace fail ths [e]
  generalize s.named g fail ths [e] = u at *
  have hgang := State.gang_of_get? hget
  have hpos : (u.thread th).pos = (s.thread th).pos := by obtain ⟨run, held, hu⟩ := hthread th; rw [hu]
  have hnames : Names u g e.mask [th] := by
    refine ⟨fun v hv => List.mem_singleton.1 hv ▸ hplaced, fun p _ => by simp [hmask, hpos], fun p hp => ?_⟩
    have hlt := hplaced.pos
    rw [hmask, beq_eq_false_iff_ne]
    omega
  have hhandler : HandlerOf u { G with queue := G.queue ++ [e] } e.cause h := by
    rw [HandlerOf, hsup]
    exact kernelHandlerAt_ofSame hsame hh
  have hqueued : queueRaised u g = u := by
    rw [queueRaised_performed haccs (by rw [hgang]; exact hrest.undo), if_pos (by rw [hgang]; exact hrest.raised)]
  have hresident : (u.team G.team).res = .resident := by rw [State.team, hsame.teams]; exact hrest.resident
  obtain ⟨henters, -, hheld, hrestThreads⟩ := headEntryIsDelivered hget (by rw [hrest.queue, List.nil_append]) hrest.delivery hrest.nestq
    hresident hhandler hnames
  rw [hsup] at henters
  simp only [settleTraps, hqueued]
  refine ⟨entersHandler_ofSame (by rw [hgang, State.gang_of_get? hrest.listed]) hthread henters, hheld th List.mem_cons_self,
    fun v hv => (hrestThreads v (by simpa using hv)).trans (hothers v hv)⟩

theorem asynchronousCauseIsNamed : AsynchronousCauseIsNamed := by
  intro s g G th x f cause info more h hx hheld hrest hplace hready hgrp hgrp2 hsup hh hothers
  obtain ⟨ths, hths, hexec⟩ := execAsyncTrapEntry_alone hx hrest hplace hready hheld hgrp hgrp2 hothers
  obtain ⟨mask, more', hentries, hmask⟩ := asyncEntries_singleton s ⟨f, cause, info, more, [], none⟩ hths
  have hown := State.thread_of_get? hx
  have hname : nameAsync s g ⟨f, cause, info, more, [], none⟩ ths = s.named g f ths [⟨info, mask, x.pc, more', cause, x.pc⟩] := by
    rw [nameAsync_performed hrest.accs (State.gang_of_get? hrest.listed ▸ hrest.undo) rfl, hentries, hown]
    exact List.flatMap_eq_nil_iff.2 fun u hu => by simp [(hths u).1 hu, heldFor, hown, hheld]
  obtain ⟨henters, hleft, hrestThreads⟩ :=
    settleTraps_named (fail := f) (e := ⟨info, mask, x.pc, more', cause, x.pc⟩) hrest hplace hths hmask hsup hh
  refine ⟨_, hexec, ?_⟩
  rw [hname]
  refine ⟨henters, hleft.trans ?_, hrestThreads⟩
  rw [State.thread_of_get? (by rw [get?_thread_named, hx, Option.map_some, if_pos ((hths th).2 rfl)])]
  simp [hheld]

/-- Settles O27: the trap queue takes what is raised, its head is delivered to the handler of its level, and an asynchronous cause
enters the kernel's handler through the same delivery. -/
theorem trapQueueAndDelivery : Obligations.TrapQueueAndDelivery :=
  ⟨trapQueue, asynchronousCauseIsNamed⟩

end Sys2Proof.Machine
end
